-- ==== Sys2Proof/Word.lean ====
section
/-!
DEFINITION. The word and byte types of the ON-16 model, and the plain records that commands carry as operands:
access paths, instruction fields, packets, frames, units. Nothing here computes.
-/

namespace Sys2Proof

/-- A byte of memory, of a packet or of a flit (R8: multi-byte values are least-significant byte first). -/
abbrev Byte := BitVec 8

/-- A 32-bit word: a register (R9), a vector element (R107), a sync count (R435). -/
abbrev Word := BitVec 32

/-- A map from numbers to values, kept as a list sorted by key; an unlisted key reads as a default. -/
abbrev SMap (α : Type) := List (Nat × α)

/-- The path a register access takes: BAR0 of a port (Table 16.2), a ring of the command path (R430), or the Studio. -/
inductive Path where
  | bar0 (port : Nat)
  | ring (port ringNo : Nat)
  | studio
deriving DecidableEq, Repr

/-- The second operand of a scalar instruction: a scalar register, or bits [31:0] sign-extended (Table 3.19). -/
inductive Opnd where
  | reg (rb : Nat)
  | imm (v : BitVec 32)
deriving DecidableEq, Repr

/-- The fields of a cube instruction (R80, Table 3.2). -/
structure CubeInsn where
  mode  : BitVec 3
  adesc : BitVec 3
  bdesc : BitVec 3
  acc   : BitVec 3
  clr   : Bool
  last  : Bool
  conj  : Bool
  arow  : BitVec 5
  kreg  : BitVec 5
  brow  : BitVec 5
  kimm  : BitVec 14
  rmask : BitVec 8
  cmask : BitVec 8
deriving DecidableEq, Repr

/-- The fields of a vector instruction (R108, Table 4.1). -/
structure VecF where
  sd  : BitVec 5
  sa  : BitVec 5
  vd  : BitVec 5
  va  : BitVec 5
  vb  : BitVec 5
  vc  : BitVec 5
  sub : BitVec 4
  imm : BitVec 15
deriving DecidableEq, Repr

/-- The fields of a load/store instruction (R126, Table 4.6). -/
structure LsF where
  sa   : BitVec 5
  sb   : BitVec 5
  vr   : BitVec 5
  dsc  : BitVec 3
  cvt  : BitVec 1
  lfmt : BitVec 3
  len  : BitVec 8
deriving DecidableEq, Repr

/-- What the tile-store word code finds in the words an instruction touches (R125). -/
inductive Ecc where
  | clean
  | corrected (words : Nat)
  | uncorrectable
deriving DecidableEq, Repr

/-- What befalls one block read from HBM or a Shelf (R165): nothing that leaves a mark, which includes a symbol corrected on the network or a
bridge; one symbol corrected in codeword `cw` of the block (R166); codeword `cw` uncorrectable, by two wrong symbols or because it was read from
the wrong address (R167); a glaze mismatch that arose on the way, by an uncorrectable codeword of the network or a bridge, or at the reader (R176). -/
inductive Upset where
  | clean
  | corrected (cw : Nat)
  | uncorrectable (cw : Nat)
  | glaze
deriving DecidableEq, Repr

/-- The agents that translate and can park on a fault (Table 7.6). -/
inductive Agent where
  | tile (t : Nat)
  | dma (die engine : Nat)
  | wheel (die : Nat)
  | xrecv (half : Nat)
  | xsend (half : Nat)
deriving DecidableEq, Repr

/-- The kind of an access (Table 7.7, byte 16). -/
inductive Access where
  | read
  | write
  | atomic
deriving DecidableEq, Repr

/-- The unit classes of the Craze log (Table 13.8, UCLASS). -/
inductive UClass where
  | cube | tile | hbmLane | hbmRow | fabricLane | shelfBank | xchHalf | agentPath | hostPort
deriving DecidableEq, Repr

/-- A unit that a check can charge (Table 13.8, UCLASS and UNIT). -/
structure HwUnit where
  cls : UClass
  num : Nat
deriving DecidableEq, Repr

/-- The targets of the event controller (R467): the Studio, host A, host B. -/
inductive Target where
  | studio
  | host (port : Nat)
deriving DecidableEq, Repr

/-- The part of a command packet every opcode shares (Table 15.1), with the ring it stands on. -/
structure CmdHdr where
  port   : Nat
  ringNo : Nat
  flags  : BitVec 8
  stream : Nat
  seq    : Word
  wsync  : Nat
  wval   : Word
  ssync  : Nat
deriving DecidableEq, Repr

/-- Parameters of LAUNCH (Table 15.4). -/
structure LaunchP where
  tile0  : Nat
  ntiles : Nat
  upnt   : Bool
  image  : BitVec 64
  imgblk : Nat
  entry  : Nat
  arg    : BitVec 64
deriving DecidableEq, Repr

/-- Parameters of RING_OPEN (Table 15.4). -/
structure RingOpenP where
  stream : Nat
  prio   : Nat
  n      : Nat
  loc    : Bool
  cbase  : BitVec 64
  sbase  : BitVec 64
deriving DecidableEq, Repr

/-- Parameters of WINDOW_OPEN (Table 15.4). -/
structure WindowP where
  peer  : Nat
  perm  : BitVec 3
  rwin  : Nat
  rseq  : BitVec 16
  rbase : BitVec 64
  rlen  : Nat
  llen  : Nat
  lbase : BitVec 64
deriving DecidableEq, Repr

/-- One grant entry (Table 8.2). -/
structure Grant where
  grant  : Nat
  base   : Nat
  bgrant : Nat
  bbase  : Nat
  room   : Nat
deriving DecidableEq, Repr

/-- What the Reed-Solomon decoders of a port's lanes find in the codewords that a frame or flit overlaps (R255): symbols corrected, and
codewords that are uncorrectable. -/
structure FecIn where
  corr   : Nat := 0
  uncorr : Nat := 0
deriving DecidableEq, Repr

/-- A routed frame as it stands on the link (Tables 9.3 and 9.4): a head with its data flits, or a control flit.
`kind` is 1 HEAD, 3 HOLD, 4 RESUME, 6 BARRIER, 7 XCREDIT, 8 REREAD; `value` holds the four bytes 20 to 23 of a BARRIER or
XCREDIT flit (barrier id with its round; blocks credited), `step` the committed step number of a BARRIER flit,
`faultId` bytes 24 to 27 of a HOLD flit. `hcrcOk` says whether HCRC is correct, and `fec` what lay in the codewords that the frame overlaps
(R260). -/
structure Frame where
  kind    : Nat
  hops    : Nat
  last    : Bool
  xop     : BitVec 8
  fseq    : Word
  dst     : Nat
  src     : Nat
  epoch   : BitVec 16
  wseq    : BitVec 16
  xid     : Word
  win     : Nat
  sub     : BitVec 24
  offset  : Nat
  value   : Word
  step    : BitVec 64
  faultId : Word
  glaze   : List Word
  blocks  : List (List Byte)
  ack     : Word
  credit  : List Nat
  hcrcOk  : Bool
  fec     : FecIn := {}
deriving DecidableEq, Repr

/-- A LINK flit (Table 9.5). -/
structure LinkF where
  nak    : Bool
  nseq   : Word
  ack    : Word
  credit : List Nat
  crcOk  : Bool
  fec    : FecIn := {}
deriving DecidableEq, Repr

/-- What a start finds outside the boot ROM's own rules (R483): the stack pairs that fail training twice, the units that fail self-test, the SRAM
fingerprint as it reads this time (R490), the rows of the repair map that lie beyond a bank's limit of repairs (R170, as UNIT of Table 13.8), the
time taken. -/
structure BootEnv where
  trainFail : List Nat
  bistFail  : List HwUnit
  fp        : List Byte
  rowsOver  : List Nat
  us        : Nat
deriving DecidableEq, Repr

end Sys2Proof
end

