-- ==== Sys2Proof/Syntax.lean ====
section
/-!
DEFINITION. The commands of the ON-16 block, one constructor for each row of spec/opcode_table.json, in the table's order.
A tile instruction names its tile first; a Yelbel command carries its packet header; an event names its unit and whatever the
world outside contributes to it (an upset met by a read, values received from peers, sensor readings).
-/

namespace Sys2Proof

/-- The commands that may wait in the block's queue. -/
inductive Instr where
  /-- REGISTER_WRITE (R11). A host or command-path write to a register field with no row of its own stores, sets or clears bits according to its access code. -/
  | registerWrite (path : Path) (off : Nat) (v : BitVec 32) (ev : BitVec 32)
  /-- RC_REGISTER_READ (R11). A read of an RC counter returns its value and clears it, unless hardware events in the same cycle win. -/
  | rcRegisterRead (path : Path) (off : Nat) (ev : Nat)
  /-- NARROW_ACCESS (R9). A narrower or misaligned register access reads as zero or has no effect when written, and is counted by the host interface. -/
  | narrowAccess (port : Nat) (bar4 : Bool) (off : Nat) (write : Bool)
  /-- LO_HALF_READ (R10). A read of the _LO half of a 64-bit pair latches the _HI half for that access path. -/
  | loHalfRead (path : Path) (off : Nat)
  /-- HI_HALF_WRITE (R10). A write of the _HI half commits a 64-bit value to both halves, after the _LO write. -/
  | hiHalfWrite (path : Path) (off : Nat) (v : BitVec 32)
  /-- CVT_CLOSE (R65). Writing 1 to TIL_CVTn_FMT.CLOSE closes the converter's Swatch slot after earlier stores pass the converter. -/
  | cvtClose (t : Nat) (n : Nat)
  /-- CVT_SLOT_CHANGE (R66). Writing a different SLOT value closes the current slot once and starts the new slot with an empty local record. -/
  | cvtSlotChange (t : Nat) (n : Nat) (slot : BitVec 12)
  /-- ADD (R529). Tile scalar ADD writes RA + B modulo 2^64 to RD. -/
  | add (t : Nat) (rd : Nat) (ra : Nat) (b : Opnd)
  /-- SUB (R529). Tile scalar SUB writes RA − B modulo 2^64 to RD. -/
  | sub (t : Nat) (rd : Nat) (ra : Nat) (b : Opnd)
  /-- AND (R529). Tile scalar AND writes RA AND B to RD. -/
  | and (t : Nat) (rd : Nat) (ra : Nat) (b : Opnd)
  /-- OR (R529). Tile scalar OR writes RA OR B to RD. -/
  | or (t : Nat) (rd : Nat) (ra : Nat) (b : Opnd)
  /-- XOR (R529). Tile scalar XOR writes RA XOR B to RD. -/
  | xor (t : Nat) (rd : Nat) (ra : Nat) (b : Opnd)
  /-- SHL (R529). Tile scalar SHL shifts RA left by bits [5:0] of B. -/
  | shl (t : Nat) (rd : Nat) (ra : Nat) (b : Opnd)
  /-- SHR (R529). Tile scalar SHR shifts RA right, filling with 0. -/
  | shr (t : Nat) (rd : Nat) (ra : Nat) (b : Opnd)
  /-- SAR (R529). Tile scalar SAR shifts RA right, filling with the sign. -/
  | sar (t : Nat) (rd : Nat) (ra : Nat) (b : Opnd)
  /-- MUL (R529). Tile scalar MUL writes the low 64 bits of RA × B to RD after 3 cc. -/
  | mul (t : Nat) (rd : Nat) (ra : Nat) (b : Opnd)
  /-- CMP (R529). Tile scalar CMP writes −1, 0 or +1 from a signed comparison of RA and B. -/
  | cmp (t : Nat) (rd : Nat) (ra : Nat) (b : Opnd)
  /-- LI (R529). Tile scalar LI writes the sign-extended 39-bit immediate to RD. -/
  | li (t : Nat) (rd : Nat) (imm : BitVec 39)
  /-- CMM (R79). A cube instruction leaves the head of the cube issue queue and starts one pass on every selected cube, or four passes in mode 4. -/
  | cmm (t : Nat) (f : CubeInsn) (ecc : Ecc)
  /-- CUBE_PASS_WRITE (R86). A cube pass completes its shift, add and saturate into the accumulator tile, with the residue check, and its result becomes visible. -/
  | cubePassWrite (t : Nat) (flips : List (Nat × Nat × Nat))
  /-- CUBE_RAMP_STEP (R96). Each 8 cc a ramping cube raises or lowers its duty level by one step toward its ramp and cap target. -/
  | cubeRampStep (t : Nat) (c : Nat)
  /-- CUBE_RAMP_HOLD_EXPIRY (R98). When CUB_RAMP_HOLD cycles pass with no instruction, the cube begins stepping down its duty. -/
  | cubeRampHoldExpiry (t : Nat) (c : Nat)
  /-- CDESC (R82). CDESC writes a 128-bit cube operand descriptor from two scalar registers. -/
  | cdesc (t : Nat) (dsc : Nat) (ra : Nat) (rb : Nat)
  /-- CACC (R94). CACC releases an accumulator tile in the selected cubes once every earlier writer of that tile is visible. -/
  | cacc (t : Nat) (acc : Nat) (rmask : BitVec 8) (cmask : BitVec 8)
  /-- BR (R529). BR jumps by OFFSET instructions. -/
  | br (t : Nat) (off : BitVec 26)
  /-- BEQ (R529). BEQ jumps by OFFSET when RA equals RB. -/
  | beq (t : Nat) (ra : Nat) (rb : Nat) (off : BitVec 26)
  /-- BNE (R529). BNE jumps by OFFSET when RA differs from RB. -/
  | bne (t : Nat) (ra : Nat) (rb : Nat) (off : BitVec 26)
  /-- BLT (R529). BLT jumps by OFFSET when RA is below RB, signed. -/
  | blt (t : Nat) (ra : Nat) (rb : Nat) (off : BitVec 26)
  /-- CALL (R529). CALL writes the return address to RD and jumps by OFFSET. -/
  | call (t : Nat) (rd : Nat) (off : BitVec 26)
  /-- RET (R529). RET jumps to the 8-byte aligned address in RA. -/
  | ret (t : Nat) (ra : Nat)
  /-- REPEAT (R102). REPEAT runs the following body of LEN instructions the number of times in RA, nesting to two levels. -/
  | repeatBody (t : Nat) (ra : Nat) (len : BitVec 9)
  /-- TILE_NOP (R529). The tile NOP does nothing. -/
  | tileNop (t : Nat)
  /-- RESERVED_INSTRUCTION (R100). An instruction of a reserved class or unlisted operation executes as NOP and sets TIL_STATUS.BADOP. -/
  | reservedInstruction (t : Nat)
  /-- HALT (R529). HALT is issued and the tile waits for its earlier instructions, sparse jobs and store-naming DMA records to end. -/
  | halt (t : Nat)
  /-- TILE_HALTED (R428). A tile's HALT takes effect once its work has ended; TIL_STATUS is sampled and a saved context or waiting launch may take the tile. -/
  | tileHalted (t : Nat)
  /-- RDSTAT (R529). RDSTAT writes the status or count selected by SEL to RD. -/
  | rdstat (t : Nat) (rd : Nat) (sel : BitVec 4)
  /-- PREEMPTION_POINT (R104). The tile sequencer reaches a pre-emption point, forced after TIL_GROUP_LIMIT cube instructions when a request waits, and a waiting pre-emption or test firing takes the tile. -/
  | preemptionPoint (t : Nat) (steps : List Nat)
  /-- TILE_SIGNAL (R441). A tile sync SIGNAL adds 1 to a sync object. -/
  | tileSignal (t : Nat) (obj : BitVec 13)
  /-- TILE_WAIT (R441). A tile sync WAIT holds the sequencer until the object satisfies the threshold in SA. -/
  | tileWait (t : Nat) (obj : BitVec 13) (sa : Nat)
  /-- TILE_ADD (R441). A tile sync ADD adds the low 32 bits of SA to a sync object. -/
  | tileAdd (t : Nat) (obj : BitVec 13) (sa : Nat)
  /-- FENCE_LS (R95). FENCE.LS holds the sequencer until every earlier load or store has written. -/
  | fenceLs (t : Nat)
  /-- FENCE_CUBE (R95). FENCE.CUBE holds the sequencer until every earlier cube instruction has read its operands. -/
  | fenceCube (t : Nat)
  /-- FENCE_ALL (R95). FENCE.ALL holds the sequencer until both fence conditions hold and every earlier cube instruction is visible. -/
  | fenceAll (t : Nat)
  /-- FENCE_RELEASE (R95). A held fence's condition is met and the sequencer resumes issue. -/
  | fenceRelease (t : Nat)
  /-- VADD (R109). VADD adds two FP32 registers element-wise. -/
  | vadd (t : Nat) (f : VecF)
  /-- VSUB (R109). VSUB subtracts two FP32 registers element-wise. -/
  | vsub (t : Nat) (f : VecF)
  /-- VMUL (R109). VMUL multiplies two FP32 registers element-wise. -/
  | vmul (t : Nat) (f : VecF)
  /-- VFMA (R109). VFMA computes va × vb + vc fused with one rounding. -/
  | vfma (t : Nat) (f : VecF)
  /-- VFMS (R109). VFMS computes va × vb − vc fused with one rounding. -/
  | vfms (t : Nat) (f : VecF)
  /-- VMIN (R109). VMIN takes the element-wise FP32 minimum. -/
  | vmin (t : Nat) (f : VecF)
  /-- VMAX (R109). VMAX takes the element-wise FP32 maximum. -/
  | vmax (t : Nat) (f : VecF)
  /-- VABS (R109). VABS takes the FP32 absolute value. -/
  | vabs (t : Nat) (f : VecF)
  /-- VNEG (R109). VNEG negates FP32 elements. -/
  | vneg (t : Nat) (f : VecF)
  /-- VADDS (R109). VADDS adds the FP32 scalar SA to each element. -/
  | vadds (t : Nat) (f : VecF)
  /-- VMULS (R109). VMULS multiplies each element by the FP32 scalar SA. -/
  | vmuls (t : Nat) (f : VecF)
  /-- VADD_H (R109). VADD.H adds 128 packed BF16 lanes. -/
  | vaddH (t : Nat) (f : VecF)
  /-- VMUL_H (R109). VMUL.H multiplies 128 packed BF16 lanes. -/
  | vmulH (t : Nat) (f : VecF)
  /-- VFMA_H (R109). VFMA.H multiply-adds 128 packed BF16 lanes. -/
  | vfmaH (t : Nat) (f : VecF)
  /-- VDOT2 (R109). VDOT2 forms an FP32 two-term BF16 dot product plus vc with one rounding. -/
  | vdot2 (t : Nat) (f : VecF)
  /-- VEXP (R111). VEXP returns the correctly rounded FP32 exponential on the quarter-rate unit. -/
  | vexp (t : Nat) (f : VecF)
  /-- VEXP2 (R111). VEXP2 returns the correctly rounded base-2 exponential. -/
  | vexp2 (t : Nat) (f : VecF)
  /-- VLOG (R111). VLOG returns the correctly rounded natural logarithm. -/
  | vlog (t : Nat) (f : VecF)
  /-- VLOG2 (R111). VLOG2 returns the correctly rounded base-2 logarithm. -/
  | vlog2 (t : Nat) (f : VecF)
  /-- VRCP (R111). VRCP returns the correctly rounded reciprocal. -/
  | vrcp (t : Nat) (f : VecF)
  /-- VSQRT (R111). VSQRT returns the correctly rounded square root. -/
  | vsqrt (t : Nat) (f : VecF)
  /-- VRSQRT (R111). VRSQRT returns the correctly rounded reciprocal square root. -/
  | vrsqrt (t : Nat) (f : VecF)
  /-- VTANH (R111). VTANH returns the correctly rounded hyperbolic tangent. -/
  | vtanh (t : Nat) (f : VecF)
  /-- VCMPEQ (R109). VCMPEQ writes an equality mask, as FP32 or signed INT32 by SUB. -/
  | vcmpeq (t : Nat) (f : VecF)
  /-- VCMPNE (R109). VCMPNE writes an inequality mask. -/
  | vcmpne (t : Nat) (f : VecF)
  /-- VCMPLT (R109). VCMPLT writes a less-than mask. -/
  | vcmplt (t : Nat) (f : VecF)
  /-- VCMPLE (R109). VCMPLE writes a less-or-equal mask. -/
  | vcmple (t : Nat) (f : VecF)
  /-- VCMPUN (R109). VCMPUN writes an unordered mask. -/
  | vcmpun (t : Nat) (f : VecF)
  /-- VSEL (R117). VSEL selects va where the mask vc is true and vb elsewhere. -/
  | vsel (t : Nat) (f : VecF)
  /-- VCLASS (R109). VCLASS writes the class code of each FP32 element. -/
  | vclass (t : Nat) (f : VecF)
  /-- VIADD (R109). VIADD adds INT32 elements modulo 2^32. -/
  | viadd (t : Nat) (f : VecF)
  /-- VISUB (R109). VISUB subtracts INT32 elements modulo 2^32. -/
  | visub (t : Nat) (f : VecF)
  /-- VIMUL (R109). VIMUL multiplies INT32 elements modulo 2^32. -/
  | vimul (t : Nat) (f : VecF)
  /-- VAND (R109). VAND takes the bitwise AND. -/
  | vand (t : Nat) (f : VecF)
  /-- VOR (R109). VOR takes the bitwise OR. -/
  | vor (t : Nat) (f : VecF)
  /-- VXOR (R109). VXOR takes the bitwise XOR. -/
  | vxor (t : Nat) (f : VecF)
  /-- VSHL (R109). VSHL shifts elements left by bits [4:0] of vb. -/
  | vshl (t : Nat) (f : VecF)
  /-- VSHR (R109). VSHR shifts elements right logically. -/
  | vshr (t : Nat) (f : VecF)
  /-- VSAR (R109). VSAR shifts elements right arithmetically. -/
  | vsar (t : Nat) (f : VecF)
  /-- VCVT_FI (R109). VCVT.FI converts FP32 to INT32 with a signed shift by Rule R58. -/
  | vcvtFi (t : Nat) (f : VecF)
  /-- VCVT_IF (R109). VCVT.IF converts INT32 to FP32 under RNE. -/
  | vcvtIf (t : Nat) (f : VecF)
  /-- VPACK_H (R109). VPACK.H narrows two FP32 registers into packed BF16 lanes. -/
  | vpackH (t : Nat) (f : VecF)
  /-- VUNPK_H (R109). VUNPK.H widens the even or odd BF16 lanes to FP32. -/
  | vunpkH (t : Nat) (f : VecF)
  /-- VREDSUM (R110). VREDSUM sums each row or column in the fixed tree and broadcasts the result. -/
  | vredsum (t : Nat) (f : VecF)
  /-- VREDMAX (R110). VREDMAX takes the maximum of each row or column in the fixed tree. -/
  | vredmax (t : Nat) (f : VecF)
  /-- VREDMIN (R110). VREDMIN takes the minimum of each row or column in the fixed tree. -/
  | vredmin (t : Nat) (f : VecF)
  /-- VTRANS (R109). VTRANS transposes a tile register. -/
  | vtrans (t : Nat) (f : VecF)
  /-- VBCAST (R109). VBCAST writes the low 32 bits of SA to every element. -/
  | vbcast (t : Nat) (f : VecF)
  /-- VEXT (R109). VEXT writes one zero-extended element to a scalar register. -/
  | vext (t : Nat) (f : VecF)
  /-- VMOV (R109). VMOV copies a tile register. -/
  | vmov (t : Nat) (f : VecF)
  /-- VDRAIN (R119). VDRAIN converts one quadrant of an accumulator tile to FP32 on duplicated logic, optionally releasing it. -/
  | vdrain (t : Nat) (f : VecF) (differ : Bool) (flips : List (Nat × Nat))
  /-- LDV (R127). LDV loads 8 rows from the tile store into a register with exact widening. -/
  | ldv (t : Nat) (f : LsF) (ecc : Ecc)
  /-- LDVB (R127). LDVB loads a block-format operand through a descriptor and widens it exactly to FP32. -/
  | ldvb (t : Nat) (f : LsF) (ecc : Ecc)
  /-- STV (R128). STV stores a register group through a converter to FP32, BF16 or INT32, updating the numeric watch. -/
  | stv (t : Nat) (f : LsF) (ecc : Ecc) (bad : List Nat)
  /-- STVB (R128). STVB narrows a register group to a block format through a converter, optionally packing 2:4. -/
  | stvb (t : Nat) (f : LsF) (ecc : Ecc) (bad : List Nat)
  /-- LDT (R129). LDT starts a move of whole 256-byte blocks from device memory to the tile store. -/
  | ldt (t : Nat) (f : LsF)
  /-- STT (R129). STT starts a move of whole 256-byte blocks from the tile store to device memory with new glaze. -/
  | stt (t : Nat) (f : LsF)
  /-- LDT_BLOCK_ARRIVAL (R151). An LDT block arrives, is glaze-checked, checked against the predicted zero map, recorded, or served as a Bisque load. -/
  | ldtBlockArrival (t : Nat) (k : Nat) (u : Upset) (us : List Upset)
  /-- STT_BLOCK_WRITE (R150). An STT block is written with glaze, records its zero-map bit, or is handled as a Bisque store. -/
  | sttBlockWrite (t : Nat) (k : Nat) (ecc : Ecc) (us : List Upset)
  /-- BSQ_CLOSE (R349). Writing 1 to TIL_BSQ_CTL.CLOSE marks the remaining map bits zero and sets NEXT to LEN. -/
  | bsqClose (t : Nat)
  /-- EXPAND24 (R143). A launched EXPAND24 job restores a 2:4 packed element plane to dense form. -/
  | expand24 (t : Nat) (ra : Nat) (ecc : Ecc)
  /-- MERGE (R145). A launched MERGE job intersects two sorted index streams into a pair list. -/
  | merge (t : Nat) (ra : Nat) (ecc : Ecc)
  /-- SPARSE_JOB_END (R140). A sparse job finishes, writes its progress fields and signals its sync object. -/
  | sparseJobEnd (t : Nat) (k : Nat) (ecc : Ecc)
  /-- DMA_COPY (R189). A DMA record of KIND COPY enters its die's DMA queue. -/
  | dmaCopy (t : Nat) (ra : Nat) (ecc : Ecc)
  /-- DMA_COPY2D (R189). A DMA record of KIND COPY2D enters its die's DMA queue. -/
  | dmaCopy2d (t : Nat) (ra : Nat) (ecc : Ecc)
  /-- DMA_FILL (R189). A DMA record of KIND FILL enters its die's DMA queue. -/
  | dmaFill (t : Nat) (ra : Nat) (ecc : Ecc)
  /-- DMA_BAD_KIND (R189). A launched record with an unlisted KIND completes at once with STATUS 4. -/
  | dmaBadKind (t : Nat) (ra : Nat) (ecc : Ecc)
  /-- DMA_RECORD_START (R192). A free DMA engine takes the highest-priority queued record and starts moving its blocks. -/
  | dmaRecordStart (d : Nat) (n : Nat) (u : Upset) (ecc : Ecc) (us : List Upset)
  /-- DMA_PREEMPT (R193). A lower-priority DMA record stops at a block boundary and returns to the head of its queue. -/
  | dmaPreempt (d : Nat)
  /-- DMA_RECORD_COMPLETE (R191). A DMA record's last block becomes visible and it signals its sync object. -/
  | dmaRecordComplete (d : Nat) (e : Nat) (u : Upset) (ecc : Ecc) (us : List Upset)
  /-- SORT (R246). A launched sort record of KIND 0x30 starts on the Wheel of the tile's die. -/
  | sort (t : Nat) (ra : Nat) (ecc : Ecc)
  /-- SORT_COMPLETE (R247). The sort unit finishes its two passes and counts in WHL_SORTS. -/
  | sortComplete (d : Nat) (us : List Upset)
  /-- CORRECTED_WRITE_BACK (R166). The controller writes back a corrected codeword unless a write reached it first. -/
  | correctedWriteBack (cw : Nat)
  /-- PATROL_SCRUB (R168). The patrol scrubber reads codewords at its paced rate and counts each completed pass. -/
  | patrolScrub (stack : Nat) (cw : Nat) (u : Upset) (passDone : Bool)
  /-- PARTIAL_BLOCK_WRITE (R177). A write of part of a block checks the old glaze, merges the bytes and writes a new or inverted glaze word. -/
  | partialBlockWrite (pa : Nat) (bytes : List Byte) (u : Upset)
  /-- SHELF_ADD64 (R173). A Shelf ADD64 atomic adds with clamping on a word inside an atomic window. -/
  | shelfAdd64 (pa : Nat) (v : BitVec 64) (u : Upset)
  /-- SHELF_ADD32 (R173). A Shelf ADD32 atomic adds with clamping on a word inside an atomic window. -/
  | shelfAdd32 (pa : Nat) (v : BitVec 32) (u : Upset)
  /-- SHELF_SADD32 (R173). A Shelf SADD32 atomic adds unsigned with saturation. -/
  | shelfSadd32 (pa : Nat) (v : BitVec 32) (u : Upset)
  /-- SHELF_UMAX32 (R173). A Shelf UMAX32 atomic takes the unsigned maximum. -/
  | shelfUmax32 (pa : Nat) (v : BitVec 32) (u : Upset)
  /-- TRANSLATION_FAULT (R194). An agent whose access faults parks at its resumable point, records progress and holds its peers. -/
  | translationFault (ag : Agent) (va : BitVec 64) (acc : Access) (us : List Upset)
  /-- FAULT_POST (R200). A parked agent posts its fault record, merging it into a matching pending record or waiting for a queue slot. -/
  | faultPost (ag : Agent)
  /-- STUDIO_FAULT_TAKE (R196). The Studio re-walks a posted fault and resumes the agent or sends the record to the owner's fault ring. -/
  | studioFaultTake (us : List Upset)
  /-- FAULT_EXPIRY (R201). A fault record still pending after FAULT_LIMIT_MS is treated as FAIL and counted. -/
  | faultExpiry (id : Nat)
  /-- HOLD_REFRESH (R202). A parked device repeats HOLD frames to the held exchange's peers every 2,000,000 cc. -/
  | holdRefresh (xid : BitVec 32)
  /-- HOLD_EXPIRY (R202). A peer that has seen no HOLD frame for 8,000,000 cycles restarts the exchange's timeout count. -/
  | holdExpiry (xid : BitVec 32)
  /-- CONTEXT_SAVE_DONE (R207). A tile's context save ends and the new stream's program starts on it. -/
  | contextSaveDone (t : Nat) (glazeOk : Bool) (ecc : Ecc) (us : List Upset)
  /-- CONTEXT_RESTORE_DONE (R209). A restore ends, the stream resumes and its suspended DMA records return to the queue. -/
  | contextRestoreDone (t : Nat) (glazeOk : Bool)
  /-- ROUTE (R212). ROUTE starts all eight Wheels on a validated layer descriptor. -/
  | route (h : CmdHdr) (desc : BitVec 64) (us : List Upset)
  /-- WHEEL_HALF_START (R230). On SYNC + 6 + h the Wheel ranks its half's tokens and starts the layer statistic or tally exchange. -/
  | wheelHalfStart (r : Nat) (d : Nat) (half : Nat) (us : List Upset)
  /-- LAYER_SKIP_DECISION (R244). On completion of the layer statistic reduce, every member decides whether to skip the layer. -/
  | layerSkipDecision (r : Nat) (us : List Upset)
  /-- TALLY_COMPLETE (R223). Once every tally vector has arrived, the member computes its grants and returns grant vectors. -/
  | tallyComplete (r : Nat) (half : Nat) (us : List Upset)
  /-- GRANT_COMPLETE (R224). Once grant vectors arrive, the device divides grants among its dies and either starts a spill round or writes lists and launches the dispatch. -/
  | grantComplete (r : Nat) (half : Nat) (us : List Upset)
  /-- DISPATCH_ROW_RECEIVE (R228). A holder receives a dispatched row with its send entry and writes the receive entry, signalling SYNC + h when the half is complete. -/
  | dispatchRowReceive (r : Nat) (half : Nat) (src : Nat) (num : Nat) (first : Nat) (us : List Upset)
  /-- RETURN_LAUNCH (R231). On SYNC + 4 or SYNC + 5, and after the earlier drain, the Wheel launches a half's return. -/
  | returnLaunch (r : Nat) (half : Nat) (us : List Upset)
  /-- COMBINE_CONTRIBUTION (R235). A returned row is gated, truncated at the token's anchor and added into the Shelf combine accumulators. -/
  | combineContribution (r : Nat) (half : Nat) (src : Nat) (num : Nat) (us : List Upset)
  /-- COMBINE_DRAIN (R236). After every row of a half is combined, the Wheel writes OUT rows in BF16, clears accumulators and signals SYNC + 2 + h. -/
  | combineDrain (r : Nat) (d : Nat) (half : Nat) (us : List Upset)
  /-- WINDOW_OPEN (R279). WINDOW_OPEN takes the lowest free Palette entry and raises its SEQ. -/
  | windowOpen (h : CmdHdr) (w : WindowP)
  /-- WINDOW_CLOSE (R279). WINDOW_CLOSE clears VALID once no exchange using the entry is in flight. -/
  | windowClose (h : CmdHdr) (index : Nat)
  /-- PORT_EN_WRITE (R530). Writing XCH_PORTn_CTL.EN 1 starts training and 0 turns the port off at once. -/
  | portEnWrite (path : Path) (p : Nat) (en : Bool)
  /-- PORT_TRAINED (R257). A port finishes training and node id exchange and enters UP, or DISABLED on a name clash. -/
  | portTrained (p : Nat) (node : Nat) (pport : Nat)
  /-- FRAME_TRANSMIT (R265). A frame is sent on a port once it holds enough credits and retransmission buffer room. -/
  | frameTransmit (p : Nat)
  /-- IDLE (R258). An IDLE flit fills the stream and is discarded by the receiver. -/
  | idle (p : Nat) (fec : FecIn)
  /-- HEAD (R260). A HEAD frame is accepted or NAKed, then forwarded or judged by epoch, generation and Palette and delivered. -/
  | head (p : Nat) (f : Frame)
  /-- RECV_PLAIN_WRITE (R288). An arriving block with XOP 0 replaces the destination block. -/
  | recvPlainWrite (k : Nat) (us : List Upset)
  /-- RECV_ADD32 (R288). An arriving block with XOP 1 is added as INT32 with clamping, residue-checked and written with new glaze. -/
  | recvAdd32 (k : Nat) (flips : List (Nat × Nat)) (us : List Upset)
  /-- RECV_ADD64 (R288). An arriving block with XOP 2 is added as INT64 with clamping. -/
  | recvAdd64 (k : Nat) (flips : List (Nat × Nat)) (us : List Upset)
  /-- RECV_UMAX32 (R288). An arriving block with XOP 3 takes the unsigned maximum. -/
  | recvUmax32 (k : Nat) (flips : List (Nat × Nat)) (us : List Upset)
  /-- LINK (R261). A LINK flit returns ACK and credits, and with NAK set starts a replay from NSEQ. -/
  | link (p : Nat) (l : LinkF)
  /-- REPLAY_TIMEOUT (R261). When ACK has not advanced for 2,048 link cycles, the sender replays from its oldest unacknowledged frame. -/
  | replayTimeout (p : Nat)
  /-- HOLD (R273). A HOLD flit stops the named exchange's timeout count at the peer. -/
  | hold (p : Nat) (f : Frame)
  /-- RESUME (R273). A RESUME flit restarts the named exchange's timeout count. -/
  | resume (p : Nat) (f : Frame)
  /-- BARRIER (R306). A BARRIER flit is counted for its round, in advance if need be, or discarded. -/
  | barrier (p : Nat) (f : Frame)
  /-- XCREDIT (R270). An XCREDIT flit returns stream credits to the sending exchange engine. -/
  | xcredit (p : Nat) (f : Frame) (us : List Upset)
  /-- REREAD (R263). A REREAD flit makes the sender re-read the block from its source, check it and send it again. -/
  | reread (p : Nat) (f : Frame) (u : Upset) (us : List Upset)
  /-- BAD_FLIT (R258). A flit with an unlisted KIND is discarded and counted. -/
  | badFlit (p : Nat) (kind : BitVec 8) (fec : FecIn)
  /-- ABORT_FLIT (R277). A received ABORT for a new epoch is recorded, forwarded on every other UP port and, for the device's own epoch, raises a job-fatal event. -/
  | abortFlit (p : Nat) (epoch : BitVec 16) (origin : BitVec 16) (cause : BitVec 8) (crcOk : Bool) (fec : FecIn)
  /-- LANE_SPARE_REQUEST (R274). A lane over threshold or out of alignment makes the receiver request its lowest free spare, or set NOSPARE when it has none. -/
  | laneSpareRequest (p : Nat) (lane : Nat) (aligned : Bool) (corr : Nat) (granted : Bool)
  /-- SPARE_REQUEST_RECEIVE (R275). The sending end answers a spare request with its own spare or a refusal, and both ends start training the spare pair. -/
  | spareRequestReceive (p : Nat) (lane : Nat) (spare : Nat) (aligned : Bool)
  /-- SPARE_LOCKED (R274). The spare pair is locked and deskewed, and lane ids are checked, with a miscabling taking the port DOWN. -/
  | spareLocked (p : Nat) (lane : Nat) (idsMatch : Bool)
  /-- LANE_SWITCH (R274). At the next alignment marker both ends move the lane's units to the spare and update LANEMAP. -/
  | laneSwitch (p : Nat) (lane : Nat)
  /-- EXCHANGE (R284). EXCHANGE names an exchange record with an ALL_GATHER, SEND, RECV, RING or BARRIER operation. -/
  | exchange (h : CmdHdr) (rec : BitVec 64) (us : List Upset)
  /-- REDUCE_INT (R284). REDUCE_INT names an exchange record with a REDUCE_SCATTER, ALL_REDUCE, GRAD or VERDICT operation. -/
  | reduceInt (h : CmdHdr) (rec : BitVec 64) (us : List Upset)
  /-- PERMUTE (R310). PERMUTE re-shards a region in place by rounds through a staging area. -/
  | permute (h : CmdHdr) (rec : BitVec 64) (us : List Upset)
  /-- ALLTOALL (R287). A Wheel-written ALLTOALL record runs one hop per level through STAGE. -/
  | alltoall (x : Nat) (us : List Upset)
  /-- REDUCE_SCATTER (R293). A REDUCE_SCATTER writes its own contribution and reduces each member's part, shared-scale for float sources. -/
  | reduceScatter (x : Nat) (us : List Upset)
  /-- ALL_GATHER (R287). An ALL_GATHER writes its own part and gathers every part. -/
  | allGather (x : Nat) (us : List Upset)
  /-- ALL_REDUCE (R293). An ALL_REDUCE reduces the whole region on every member, shared-scale for float sources. -/
  | allReduce (x : Nat) (us : List Upset)
  /-- SEND (R308). SEND sends BLOCKS blocks through a window to its peer. -/
  | send (x : Nat) (us : List Upset)
  /-- RECV (R308). RECV counts BLOCKS blocks from its peer into the window's local region. -/
  | recv (x : Nat) (us : List Upset)
  /-- RING (R309). RING passes blocks around a one-level group for COUNT steps through two buffers. -/
  | ring (x : Nat) (us : List Upset)
  /-- RING_STEP_ARRIVED (R309). A ring step's arrival completes, SYNC is signalled and the next step may be sent. -/
  | ringStepArrived (x : Nat) (us : List Upset)
  /-- BARRIER_OP (R305). A BARRIER operation enters round 0 and sends its first flit. -/
  | barrierOp (x : Nat) (us : List Upset)
  /-- BARRIER_ROUND_COMPLETE (R305). A barrier round completes; the next round is sent or the barrier releases, writing step slack and starting the release wave. -/
  | barrierRoundComplete (x : Nat) (us : List Upset)
  /-- GRAD (R296). A GRAD operation validates its bucket table and waits for the step barrier release. -/
  | grad (x : Nat) (us : List Upset)
  /-- GRAD_BUCKET_EMAX_DONE (R298). A bucket's exponent-maximum exchange completes, ending the phase with code 2 or starting the integer sum. -/
  | gradBucketEmaxDone (x : Nat) (us : List Upset)
  /-- GRAD_BUCKET_SUM_DONE (R299). A bucket's integer sum completes, RESULT is written and the next bucket or the norm starts. -/
  | gradBucketSumDone (x : Nat) (us : List Upset)
  /-- GRAD_NORM_DONE (R336). The norm's sumsq completes, UPD_NORM is written and the spike guard is applied. -/
  | gradNormDone (x : Nat)
  /-- VERDICT (R302). VERDICT starts the UMAX32 ALL_REDUCE of the local verdict codes. -/
  | verdict (x : Nat) (us : List Upset)
  /-- VERDICT_COMPLETE (R302). The job verdict is known; XCH_VERDICT, the digest-ring entry and XCH_GEN are written. -/
  | verdictComplete (x : Nat) (us : List Upset)
  /-- CONE_EVALUATION_DONE (R340). The Cone's evaluation ends, CONE_GRPn_ETA is latched, UPD_STEP rises and waiting updates may start. -/
  | coneEvaluationDone (us : List Upset)
  /-- REDUCTION_HOP_DONE (R287). Every block of a reduction hop has arrived and the member starts the next hop or completes. -/
  | reductionHopDone (x : Nat) (us : List Upset)
  /-- ONE_VALUE_EXCHANGE_DONE (R533). A one-value exchange level combines its peers' values in local storage and moves to the next level or completes. -/
  | oneValueExchangeDone (x : Nat) (us : List Upset)
  /-- PERMUTE_ROUND_END (R311). A permute round's send is credited and its shard arrived; the staging area is copied to DOFF and the next round starts. -/
  | permuteRoundEnd (x : Nat) (us : List Upset)
  /-- EXCHANGE_TIMEOUT (R291). An operation's timeout count reaches TIMEOUT × 1,024 and the outcome of Table 10.5 follows. -/
  | exchangeTimeout (x : Nat)
  /-- UPDATE (R332). UPDATE submits an update record to run on a range of tiles. -/
  | update (h : CmdHdr) (rec : BitVec 64) (tile0 : Nat) (ntiles : Nat) (us : List Upset)
  /-- UPDATE_RECORD_RUN (R330). The update engine starts a record, decides its outcome and applies the group's rule, Trim and view requantisation. -/
  | updateRecordRun (k : Nat) (us : List Upset)
  /-- UPDATE_RECORD_END (R330). A record's writes become visible, STEPDONE is written and its SYNC is signalled. -/
  | updateRecordEnd (k : Nat) (us : List Upset)
  /-- RETRY_COMPLETE (R365). A single retry after a residue, converter or glaze mismatch completes and passes or fails. -/
  | retryComplete (k : Nat) (pass : Bool) (u : Upset) (also : List (Nat × Upset)) (us : List Upset)
  /-- TEST_SWEEP_BOUNDARY (R377). At the end of a sweep the device records a clean sweep if every firing passed and starts the next sweep. -/
  | testSweepBoundary
  /-- TEST_FIRING_START (R371). At its group's offset in the sweep, a test firing requests both tiles of each pair. -/
  | testFiringStart (g : Nat)
  /-- TEST_FIRING_END (R374). After 120,000 cc the pair's signatures are compared, and a mismatch counts and starts referee retests. -/
  | testFiringEnd (ta : Nat) (sa : List (BitVec 64)) (sb : List (BitVec 64))
  /-- FIRING_RETEST (R374). A retest against the referee decides a transient or a failed retest for each tile. -/
  | firingRetest (t : Nat) (st : List (BitVec 64)) (sr : List (BitVec 64))
  /-- CRAZE_ENTRY_WRITE (R386). The Studio writes a queued entry to flash, erasing the next sector when it starts one. -/
  | crazeEntryWrite (ok : Bool)
  /-- POWER_SAMPLE (R392). Each 1 µs the input power is measured and the 4,800 W fast limit lowers D when needed. -/
  | powerSample (watts : Nat) (avg10 : Nat)
  /-- KILN_BIN (R391). At each 1 ms bin the Kiln manager sets the budget, the knobs and the setpoint. -/
  | kilnBin (watts : Nat)
  /-- EXCURSION_LIMIT (R392). An excursion above the cap that reaches 10 ms holds the budget at the cap. -/
  | excursionLimit
  /-- DUTY_WINDOW (R394). Each 256 cc issue window of a tile row starts at its phase and runs at ramp level q or q + 1. -/
  | dutyWindow (d : Nat) (row : Nat)
  /-- BUDGET_SHIFT_APPLY (R402). On completion of the pool ALL_REDUCE donors and takers adjust KLN_CAP_EFF. -/
  | budgetShiftApply
  /-- WAVE_ROW_RELEASE (R404). A wide release reaches a tile row after its die and row delay. -/
  | waveRowRelease (d : Nat) (row : Nat)
  /-- DROOP_DETECT (R407). A C-die core rail falling below its level starts a clock stretch on that die. -/
  | droopDetect (d mv : Nat)
  /-- DROOP_END (R407). After the rail stays above its level for 64 cc, the stretch ends. -/
  | droopEnd (d : Nat) (cycles : Nat)
  /-- VIN_WARNING (R408). The input falling below 42.0 V lowers D to at most 16, sets VINLOW and raises the supply event. -/
  | vinWarning (mv : Nat)
  /-- VIN_RECOVER (R409). The input returning above 42.5 V lifts the throttle through a release wave. -/
  | vinRecover (mv : Nat)
  /-- VIN_DEEP (R409). The input falling below 38.0 V starts the 2 µs reset timer. -/
  | vinDeep (mv : Nat)
  /-- VIN_DEEP_EXPIRY (R409). An input below 38.0 V for more than 2 µs causes a module reset. -/
  | vinDeepExpiry
  /-- VIN_HOLD_EXPIRY (R409). After a deep dip, the throttle lifts once the input has stayed above 42.5 V for 1 ms. -/
  | vinHoldExpiry
  /-- THERMAL_SAMPLE (R410). Every 100 µs the Kiln manager reads the junction and stack sensors and enters or leaves the thermal throttle. -/
  | thermalSample (tj : List Nat) (hbm : List Nat)
  /-- DB_CMD_TAIL (R418). A doorbell write of the command tail makes packets visible, or is ignored if it would exceed the ring size. -/
  | dbCmdTail (port : Nat) (ringNo : Nat) (v : BitVec 32)
  /-- DB_STS_HEAD (R419). A doorbell write reports the replies the host has consumed. -/
  | dbStsHead (port : Nat) (ringNo : Nat) (v : BitVec 32)
  /-- COMMAND_FETCH (R419). The Studio fetches a command once all its packets lie below the tail and a reply slot is free, then validates it. -/
  | commandFetch (port : Nat) (ringNo : Nat) (bytes : List Byte) (us : List Upset)
  /-- COMMAND_DISPATCH (R420). The Studio dispatches an accepted command once its ring order, wait, fence and agent allow it. -/
  | commandDispatch (port : Nat) (ringNo : Nat) (us : List Upset)
  /-- NOP (R427). The NOP command completes on dispatch. -/
  | nop (h : CmdHdr)
  /-- LAUNCH (R428). LAUNCH copies an image into a tile range and starts each tile, pre-empting lower-priority streams. -/
  | launch (h : CmdHdr) (l : LaunchP) (us : List Upset)
  /-- LAUNCH_TILE_START (R428). A tile of a launch that waited becomes free and starts at ENTRY with SQ1 and SQ2 set. -/
  | launchTileStart (t : Nat) (us : List Upset)
  /-- COPY (R429). COPY places its DMA record in the queue of the named C-die. -/
  | copy (h : CmdHdr) (die : Nat) (rec : List Byte)
  /-- SIGNAL (R436). The SIGNAL command adds 1 to each object of a range in increasing order. -/
  | signal (h : CmdHdr) (obj : Nat) (count : Nat)
  /-- WAIT (R444). The WAIT command is dispatched when every named object satisfies VALUE. -/
  | wait (h : CmdHdr) (obj : Nat) (count : Nat) (v : BitVec 32)
  /-- CMD_ADD (R436). The ADD command adds VALUE to each object of a range. -/
  | cmdAdd (h : CmdHdr) (obj : Nat) (count : Nat) (v : BitVec 32)
  /-- RESET (R436). The RESET command sets each object of a range to VALUE. -/
  | reset (h : CmdHdr) (obj : Nat) (count : Nat) (v : BitVec 32)
  /-- SYNC_WAITER_RELEASE (R439). An operation on a sync object releases every waiter whose threshold a count it takes satisfies. -/
  | syncWaiterRelease (k : Nat) (us : List Upset)
  /-- RING_OPEN (R416). RING_OPEN opens the lowest closed ring of the port for one stream at a priority. -/
  | ringOpen (h : CmdHdr) (o : RingOpenP)
  /-- RING_CLOSE (R427). RING_CLOSE closes a ring once every fetched command has completed and the tail equals the fetch count. -/
  | ringClose (h : CmdHdr) (ringNo : Nat)
  /-- TLB_INVAL (R188). TLB_INVAL purges cached translations over a range and replies once purged entries are unused. -/
  | tlbInval (h : CmdHdr) (va : BitVec 64) (len : BitVec 64)
  /-- FAULT_RESOLVE (R198). FAULT_RESOLVE replays the agents parked under a fault id, or raises a job-fatal event. -/
  | faultResolve (h : CmdHdr) (id : Nat) (fail : Bool)
  /-- JOB_START (R431). JOB_START writes the epoch, clears XCH_GEN and moves the job state to RUNNING. -/
  | jobStart (h : CmdHdr) (epoch : BitVec 16)
  /-- JOB_RESET (R431). JOB_RESET stops job agents, applies the job-reset effects, zeroes sync objects and runs the retests. -/
  | jobReset (h : CmdHdr) (failing : List HwUnit)
  /-- TILE_RESET (R432). TILE_RESET stops the named tiles, empties their state and slots and withdraws their fault records. -/
  | tileReset (h : CmdHdr) (tile0 : Nat) (ntiles : Nat)
  /-- ABORT (R276). The ABORT command sends the device's ABORT flood. -/
  | abort (h : CmdHdr)
  /-- TAKEOVER (R457). TAKEOVER samples the heartbeat age or RELEASE and, if granted, moves ownership to its port. -/
  | takeover (h : CmdHdr) (mode : Nat)
  /-- QUERY (R427). QUERY returns a sync count, the job state, a ring's state or the free Palette entries. -/
  | query (h : CmdHdr) (kind : Nat) (arg : Nat)
  /-- REG_READ (R430). REG_READ reads a register through the command path. -/
  | regRead (h : CmdHdr) (addr : BitVec 64)
  /-- REG_WRITE (R430). REG_WRITE writes a register through the command path. -/
  | regWrite (h : CmdHdr) (addr : BitVec 64) (v : BitVec 32)
  /-- HIF_ADMIN_CTL_WRITE (R442). A write to HIF_ADMINp_CTL enables, reconfigures or disables a port's admin ring. -/
  | hifAdminCtlWrite (path : Path) (p : Nat) (v : BitVec 32)
  /-- BAR2_READ (R447). A host BAR2 read reaches device physical memory with a glaze check, or reads a hole as all-ones. -/
  | bar2Read (port : Nat) (off : Nat) (len : Nat) (u : Upset)
  /-- BAR2_WRITE (R448). A host BAR2 write is cut at block boundaries and written with new glaze or merged, or discarded if poisoned. -/
  | bar2Write (port : Nat) (off : Nat) (bytes : List Byte) (poison : Bool) (us : List Upset)
  /-- MSIX_UNMASK (R450). Unmasking the vector sends one message if the request line is high and clears the pending bit. -/
  | msixUnmask (port : Nat)
  /-- BUS_MASTER_ENABLE_CHANGE (R451). Clearing Bus Master Enable or entering D3hot stops the port's requests, and restoring it lets held writes go. -/
  | busMasterEnableChange (port : Nat) (bme : Bool) (d3hot : Bool)
  /-- PERST_ASSERT (R452). PERST# or link loss closes the port's rings and clears its admin enable while state stays. -/
  | perstAssert (port : Nat)
  /-- RING_FETCH_FAILED (R452). A ring fetch ending in timeout or error closes that ring and raises an AER report. -/
  | ringFetchFailed (port : Nat) (ringNo : Nat) (kind : Nat)
  /-- HEARTBEAT_WRITE (R455). An owner write that changes HIF_HEARTBEAT restarts HIF_HB_AGE. -/
  | heartbeatWrite (port : Nat) (v : BitVec 32)
  /-- HIF_ABORT (R460). Writing 1 to HIF_ABORT raises the hardware ABORT with cause 2. -/
  | hifAbort (port : Nat)
  /-- GET_VERSION (R462). The SPDM responder answers GET_VERSION. -/
  | getVersion (port : Nat)
  /-- GET_CAPABILITIES (R462). The SPDM responder answers GET_CAPABILITIES. -/
  | getCapabilities (port : Nat)
  /-- NEGOTIATE_ALGORITHMS (R462). The SPDM responder settles SM2 and SM3 or answers with ERROR. -/
  | negotiateAlgorithms (port : Nat) (sm2 : Bool) (sm3 : Bool)
  /-- GET_DIGESTS (R462). The SPDM responder returns the certificate digests. -/
  | getDigests (port : Nat)
  /-- GET_CERTIFICATE (R462). The SPDM responder serves the slot 0 chain, or an error after IDFAIL. -/
  | getCertificate (port : Nat) (slot : Nat) (off : Nat) (len : Nat)
  /-- CHALLENGE (R491). The SPDM responder signs a CHALLENGE response with the identity key. -/
  | challenge (port : Nat) (slot : Nat) (nonce : List Byte)
  /-- GET_MEASUREMENTS (R492). The SPDM responder returns the signed measurement blocks. -/
  | getMeasurements (port : Nat) (index : Nat) (sign : Bool) (nonce : List Byte)
  /-- UNSUPPORTED_SPDM_REQUEST (R462). A request outside the supported set is answered with ERROR UnsupportedRequest. -/
  | unsupportedSpdmRequest (port : Nat) (code : BitVec 8)
  /-- DOE_ABORT (R461). DOE Abort resets the mailbox's exchange. -/
  | doeAbort (port : Nat)
  /-- EVC_CLAIM (R470). A read of EVC_CLAIM returns and clears the lowest pending source of the target and puts it in service. -/
  | evcClaim (tgt : Target) (ev : List Nat)
  /-- EVC_COMPLETE (R471). Writing EVC_COMPLETE.DONE ends service and re-raises the line if a source is pending. -/
  | evcComplete (tgt : Target)
  /-- EVC_HOLD (R472). Setting or clearing EVC_HOLD.HOLD holds or frees the target's request line. -/
  | evcHold (tgt : Target) (hold : Bool)
  /-- EVC_SET (R473). Writing 1 to EVC_SETi sets a source's pending bit as if it had fired. -/
  | evcSet (tgt : Target) (i : Nat) (v : BitVec 32)
  /-- EVC_PEND_CLEAR (R473). Writing 1 to EVC_PENDi clears a source's pending bit. -/
  | evcPendClear (tgt : Target) (i : Nat) (v : BitVec 32) (ev : List Nat)
  /-- EVC_TGT_WRITE (R467). Writing EVC_TGTs.TARGET moves a source to another target, moving its request line. -/
  | evcTgtWrite (tgt : Target) (src : Nat) (dst : BitVec 2)
  /-- STANDBY_RAIL_UP (R504). The input rising above 36.0 V starts the standby rail and a power-on reset. -/
  | standbyRailUp (straps : BitVec 3)
  /-- STANDBY_HOLD_EXPIRY (R494). An input below 38.0 V beyond the standby hold time stops the standby rail. -/
  | standbyHoldExpiry
  /-- MOD_EN_HIGH (R479). MOD_EN high with input above 42.5 V starts the rails in order. -/
  | modEnHigh (mv : Nat)
  /-- MOD_EN_LOW (R505). MOD_EN low removes every rail except standby and clears THERM. -/
  | modEnLow
  /-- RAIL_TIMEOUT (R479). A rail not in regulation within 10 ms removes every rail but standby and asserts ALERT_N. -/
  | railTimeout
  /-- MODULE_RESET (R493). MOD_RST_N low for at least 1 µs resets the whole device except the islands. -/
  | moduleReset
  /-- BOOT_START (R483). At t = 0 the boot ROM runs its fixed flow of image choice, verification, repair, training, zero fill, self-test and release. -/
  | bootStart (e : BootEnv)
  /-- BOOT_CONFIRM (R488). Writing 1 to BOOT_CTL.CONFIRM makes the Studio write a boot control copy with TRIAL clear. -/
  | bootConfirm
  /-- DORMANT_ENTER (R495). Writing 1 to BOOT_CTL.DORMANT enters the Dormant state, or is rejected with DORMREJ. -/
  | dormantEnter (path : Path)
  /-- DORMANT_WAKE (R497). An event raising a request line wakes the device, restoring the controller, HBM, tiles and Studio. -/
  | dormantWake
  /-- STATUS (R511). The mailbox STATUS request returns the status page and boot, alert and coolant registers. -/
  | status (tag : BitVec 8)
  /-- FLASH_READ (R511). The mailbox FLASH_READ returns bytes from any flash region, suspending any program or erase. -/
  | flashRead (tag : BitVec 8) (off : Nat) (len : Nat)
  /-- FLASH_WRITE (R512). The mailbox FLASH_WRITE programs and reads back bytes in a permitted region. -/
  | flashWrite (tag : BitVec 8) (off : Nat) (bytes : List Byte)
  /-- FLASH_ERASE (R512). The mailbox FLASH_ERASE erases a 64 KiB block in a permitted region. -/
  | flashErase (tag : BitVec 8) (off : Nat) (arg : BitVec 32)
  /-- ALERT_CLEAR (R511). The mailbox ALERT_CLEAR clears MOD_ALERT bits except THERM. -/
  | alertClear (tag : BitVec 8) (mask : BitVec 32)
  /-- MAILBOX_ABORT (R511). The mailbox ABORT raises the hardware ABORT with cause 2. -/
  | mailboxAbort (tag : BitVec 8)
  /-- MAILBOX_BAD_OP (R511). A mailbox request with an unlisted OP is answered BADOP. -/
  | mailboxBadOp (tag : BitVec 8) (op : BitVec 8)
  /-- MAILBOX_REQUEST_DISCARD (R510). A mailbox request with a wrong CRC or length is discarded and counted, or answered BUSY while a response is unread. -/
  | mailboxRequestDiscard (bytes : List Byte)
  /-- FLASH_OP_COMPLETE (R513). The flash write engine finishes a page program or block erase and takes the next in arrival order. -/
  | flashOpComplete (ok : Bool)
  /-- COOLANT_SAMPLE (R515). Every 100 ms the module measures coolant temperatures and sets COOLHOT at 65 °C or more. -/
  | coolantSample (inlet : BitVec 8) (outlet : BitVec 8)
  /-- PERST_DEASSERT (R481). PERST# going high, or a lost link returning, lets the port train its link to UP and again issue and answer requests. -/
  | perstDeassert (port : Nat) (gen : BitVec 4) (width : BitVec 5) (flit : Bool)
  /-- CONFIGURATION_REQUEST (R481). A PCI Express configuration request is answered with Request Retry Status until STAGE reaches DONE or FAILED, and normally after that. -/
  | configurationRequest (port : Nat)
  /-- DOE_DISCOVERY (R461). A DOE Discovery data object written to the mailbox is answered with the supported data object types. -/
  | doeDiscovery (port : Nat) (index : Nat)
  /-- DYNAMIC_ADDRESS_ASSIGNMENT (R509). The I3C controller assigns the mailbox target a dynamic address, which it then answers on. -/
  | dynamicAddressAssignment (addr : BitVec 7)
  /-- MAILBOX_RESPONSE_READ (R510). A private read of a ready response consumes it, so the next request is served instead of receiving BUSY. -/
  | mailboxResponseRead
  /-- RAIL_REGULATION_LOSS (R506). A rail that leaves regulation while MOD_EN is high drops PWR_GOOD and sets MOD_ALERT.RAILFAIL, asserting ALERT_N. -/
  | railRegulationLoss (rail : Nat)
  /-- HBM_LANE_FAILURE (R169). An HBM lane that fails after reset sets HBM_STATUS.DEGRADED, raises the memory-degraded event and counts as one failed retest of that pin. -/
  | hbmLaneFailure (stack : Nat) (channel : Nat) (pin : Nat)
deriving DecidableEq, Repr

end Sys2Proof
end

