-- ==== Sys2Proof/Decode.lean ====
section
/-!
DEFINITION. The command that a word spells by the bits of spec/opcode_table.json, which gives no row bits; and, beside it, the 64-bit words of a
tile program (R80, R100, R108, R126, R441, R529): the command that a word stands for, and the word of a command.
-/

namespace Sys2Proof

/-- No row of the table has bits, so no word spells a command: a command of this block is a register access, an instruction of a tile (whose words
`tileCommand` reads), a packet on a ring, a flit or an event. -/
def decodeTableWord (_nbits _w : Nat) : Option Instr := none

/-! ### The fields of a tile word -/

/-- A tile word cut at the fields of R100: class, OP, RD (or SD), RA (or SA), RB (or SB), and the class's own bits. -/
structure TileWord where
  cls : BitVec 4
  op  : BitVec 6
  rd  : BitVec 5
  ra  : BitVec 5
  rb  : BitVec 5
  low : BitVec 39
deriving DecidableEq, Repr

/-- The fields of a word. -/
def tileFields (w : BitVec 64) : TileWord :=
  { cls := w.extractLsb' 60 4, op := w.extractLsb' 54 6, rd := w.extractLsb' 49 5, ra := w.extractLsb' 44 5, rb := w.extractLsb' 39 5
    low := w.extractLsb' 0 39 }

/-- The word of some fields. -/
def TileWord.bits (x : TileWord) : BitVec 64 := x.cls ++ x.op ++ x.rd ++ x.ra ++ x.rb ++ x.low

/-- The fields of a cube instruction (Table 3.2). -/
def cubeFields (w : BitVec 64) : CubeInsn :=
  { mode := w.extractLsb' 57 3, adesc := w.extractLsb' 54 3, bdesc := w.extractLsb' 51 3, acc := w.extractLsb' 48 3, clr := w.getLsbD 47
    last := w.getLsbD 46, conj := w.getLsbD 45, arow := w.extractLsb' 40 5, kreg := w.extractLsb' 35 5, brow := w.extractLsb' 30 5
    kimm := w.extractLsb' 16 14, rmask := w.extractLsb' 8 8, cmask := w.extractLsb' 0 8 }

/-- The word of a cube instruction (Table 3.2). -/
def CubeInsn.bits (f : CubeInsn) : BitVec 64 :=
  1#4 ++ f.mode ++ f.adesc ++ f.bdesc ++ f.acc ++ BitVec.ofBool f.clr ++ BitVec.ofBool f.last ++ BitVec.ofBool f.conj ++ f.arow ++ f.kreg
    ++ f.brow ++ f.kimm ++ f.rmask ++ f.cmask

/-- The fields of a vector instruction (Table 4.1); SB is reserved. -/
def TileWord.vec (x : TileWord) : VecF :=
  { sd := x.rd, sa := x.ra, vd := x.low.extractLsb' 34 5, va := x.low.extractLsb' 29 5, vb := x.low.extractLsb' 24 5
    vc := x.low.extractLsb' 19 5, sub := x.low.extractLsb' 15 4, imm := x.low.extractLsb' 0 15 }

/-- The word of a vector instruction. -/
def vecWord (op : BitVec 6) (f : VecF) : TileWord :=
  { cls := 3, op := op, rd := f.sd, ra := f.sa, rb := 0, low := f.vd ++ f.va ++ f.vb ++ f.vc ++ f.sub ++ f.imm }

/-- The fields of a load/store instruction (Table 4.6). -/
def TileWord.ls (x : TileWord) : LsF :=
  { sa := x.ra, sb := x.rb, vr := x.low.extractLsb' 34 5, dsc := x.low.extractLsb' 31 3, cvt := x.low.extractLsb' 30 1
    lfmt := x.low.extractLsb' 27 3, len := x.low.extractLsb' 19 8 }

/-- The word of a load/store instruction. -/
def lsWord (op : BitVec 6) (f : LsF) : TileWord :=
  { cls := 4, op := op, rd := 0, ra := f.sa, rb := f.sb, low := f.vr ++ f.dsc ++ f.cvt ++ f.lfmt ++ f.len ++ 0#19 }

/-- The second operand of a scalar instruction (Table 3.19): bit 38 picks RB or the immediate. -/
def TileWord.opnd (x : TileWord) : Opnd := if x.low.getLsbD 38 then .imm (x.low.extractLsb' 0 32) else .reg x.rb.toNat

/-- The word of a scalar instruction. -/
def scalarWord (op : BitVec 6) (rd ra : Nat) : Opnd → TileWord
  | .reg rb => { cls := 0, op := op, rd := BitVec.ofNat 5 rd, ra := BitVec.ofNat 5 ra, rb := BitVec.ofNat 5 rb, low := 0 }
  | .imm v => { cls := 0, op := op, rd := BitVec.ofNat 5 rd, ra := BitVec.ofNat 5 ra, rb := 0, low := 1#1 ++ 0#6 ++ v }

/-! ### From words to commands -/

/-- Scalar class (Table 3.19). -/
def scalarCommand (t : Nat) (x : TileWord) : Instr :=
  let rd := x.rd.toNat
  let ra := x.ra.toNat
  match x.op.toNat with
  | 0 => .add t rd ra x.opnd
  | 1 => .sub t rd ra x.opnd
  | 2 => .and t rd ra x.opnd
  | 3 => .or t rd ra x.opnd
  | 4 => .xor t rd ra x.opnd
  | 5 => .shl t rd ra x.opnd
  | 6 => .shr t rd ra x.opnd
  | 7 => .sar t rd ra x.opnd
  | 8 => .mul t rd ra x.opnd
  | 9 => .cmp t rd ra x.opnd
  | 10 => .li t rd x.low
  | _ => .reservedInstruction t

/-- Cube-control class (Table 3.20). -/
def controlCommand (t : Nat) (x : TileWord) : Instr :=
  match x.op.toNat with
  | 0 => .cdesc t (x.low.extractLsb' 0 3).toNat x.ra.toNat x.rb.toNat
  | 1 => .cacc t (x.low.extractLsb' 16 3).toNat (x.low.extractLsb' 8 8) (x.low.extractLsb' 0 8)
  | _ => .reservedInstruction t

/-- Vector class (Table 4.2); a VDRAIN that no upset meets. -/
def vecCommand (t : Nat) (x : TileWord) : Instr :=
  let f := x.vec
  match x.op.toNat with
  | 0x0 => .vadd t f
  | 0x1 => .vsub t f
  | 0x2 => .vmul t f
  | 0x3 => .vfma t f
  | 0x4 => .vfms t f
  | 0x5 => .vmin t f
  | 0x6 => .vmax t f
  | 0x7 => .vabs t f
  | 0x8 => .vneg t f
  | 0x9 => .vadds t f
  | 0xa => .vmuls t f
  | 0x10 => .vaddH t f
  | 0x11 => .vmulH t f
  | 0x12 => .vfmaH t f
  | 0x13 => .vdot2 t f
  | 0x18 => .vexp t f
  | 0x19 => .vexp2 t f
  | 0x1a => .vlog t f
  | 0x1b => .vlog2 t f
  | 0x1c => .vrcp t f
  | 0x1d => .vsqrt t f
  | 0x1e => .vrsqrt t f
  | 0x1f => .vtanh t f
  | 0x20 => .vcmpeq t f
  | 0x21 => .vcmpne t f
  | 0x22 => .vcmplt t f
  | 0x23 => .vcmple t f
  | 0x24 => .vcmpun t f
  | 0x25 => .vsel t f
  | 0x26 => .vclass t f
  | 0x28 => .viadd t f
  | 0x29 => .visub t f
  | 0x2a => .vimul t f
  | 0x2b => .vand t f
  | 0x2c => .vor t f
  | 0x2d => .vxor t f
  | 0x2e => .vshl t f
  | 0x2f => .vshr t f
  | 0x30 => .vsar t f
  | 0x32 => .vcvtFi t f
  | 0x33 => .vcvtIf t f
  | 0x34 => .vpackH t f
  | 0x35 => .vunpkH t f
  | 0x38 => .vredsum t f
  | 0x39 => .vredmax t f
  | 0x3a => .vredmin t f
  | 0x3b => .vtrans t f
  | 0x3c => .vbcast t f
  | 0x3d => .vext t f
  | 0x3e => .vmov t f
  | 0x3f => .vdrain t f false []
  | _ => .reservedInstruction t

/-- Load/store class (Table 4.6), with no upset met. -/
def lsCommand (t : Nat) (x : TileWord) : Instr :=
  let f := x.ls
  match x.op.toNat with
  | 0 => .ldv t f .clean
  | 1 => .ldvb t f .clean
  | 2 => .stv t f .clean []
  | 3 => .stvb t f .clean []
  | 4 => .ldt t f
  | 5 => .stt t f
  | _ => .reservedInstruction t

/-- DMALAUNCH (Table 3.21): the KIND of the record that RA names picks what is launched (Tables 5.3, 7.5, 8.8). -/
def launchCommand (t ra kind : Nat) : Instr :=
  match kind with
  | 0x01 => .dmaCopy t ra .clean
  | 0x02 => .dmaCopy2d t ra .clean
  | 0x03 => .dmaFill t ra .clean
  | 0x20 => .expand24 t ra .clean
  | 0x21 => .merge t ra .clean
  | 0x30 => .sort t ra .clean
  | _ => .dmaBadKind t ra .clean

/-- Sync class (R441); bits [38:13] are reserved. -/
def syncCommand (t : Nat) (x : TileWord) : Instr :=
  let obj := x.low.extractLsb' 0 13
  match x.op.toNat with
  | 0x00 => .tileSignal t obj
  | 0x01 => .tileWait t obj x.ra.toNat
  | 0x02 => .tileAdd t obj x.ra.toNat
  | 0x10 => .fenceLs t
  | 0x11 => .fenceCube t
  | 0x12 => .fenceAll t
  | _ => .reservedInstruction t

/-- Branch class (Table 3.22). -/
def branchCommand (t : Nat) (x : TileWord) : Instr :=
  let off := x.low.extractLsb' 0 26
  let ra := x.ra.toNat
  match x.op.toNat with
  | 0 => .br t off
  | 1 => .beq t ra x.rb.toNat off
  | 2 => .bne t ra x.rb.toNat off
  | 3 => .blt t ra x.rb.toNat off
  | 4 => .call t x.rd.toNat off
  | 5 => .ret t ra
  | 6 => .repeatBody t ra (x.low.extractLsb' 0 9)
  | _ => .reservedInstruction t

/-- System class (Table 3.23). -/
def systemCommand (t : Nat) (x : TileWord) : Instr :=
  match x.op.toNat with
  | 0 => .tileNop t
  | 1 => .halt t
  | 2 => .rdstat t x.rd.toNat (x.low.extractLsb' 0 4)
  | _ => .reservedInstruction t

/-- The command of tile `t` that a word of its program stands for (R100, Table 3.11), with no upset met; `kind` is the KIND of the record that a
DMALAUNCH names. A reserved class or an OP that no table lists is RESERVED_INSTRUCTION. -/
def tileCommand (t kind : Nat) (w : BitVec 64) : Instr :=
  let x := tileFields w
  match x.cls.toNat with
  | 0x0 => scalarCommand t x
  | 0x1 => .cmm t (cubeFields w) .clean
  | 0x2 => controlCommand t x
  | 0x3 => vecCommand t x
  | 0x4 => lsCommand t x
  | 0x5 => if x.op = 0 then launchCommand t x.ra.toNat kind else .reservedInstruction t
  | 0x6 => syncCommand t x
  | 0x7 => branchCommand t x
  | 0x8 => systemCommand t x
  | _ => .reservedInstruction t

/-! ### From commands to words -/

/-- A word of the classes of R529 and R441 (fields that a table does not name are 0). -/
def plainWord (cls : BitVec 4) (op : BitVec 6) (rd ra rb : Nat) (low : BitVec 39) : BitVec 64 :=
  TileWord.bits { cls := cls, op := op, rd := BitVec.ofNat 5 rd, ra := BitVec.ofNat 5 ra, rb := BitVec.ofNat 5 rb, low := low }

/-- The tile and the word of a command that is an instruction of a tile program, met by no upset; none for every other command. A DMALAUNCH has
one word for every KIND, and RESERVED_INSTRUCTION has many words, none of them its own. -/
def tileWordOf : Instr → Option (Nat × BitVec 64)
  | .add t rd ra b => some (t, (scalarWord 0 rd ra b).bits)
  | .sub t rd ra b => some (t, (scalarWord 1 rd ra b).bits)
  | .and t rd ra b => some (t, (scalarWord 2 rd ra b).bits)
  | .or t rd ra b => some (t, (scalarWord 3 rd ra b).bits)
  | .xor t rd ra b => some (t, (scalarWord 4 rd ra b).bits)
  | .shl t rd ra b => some (t, (scalarWord 5 rd ra b).bits)
  | .shr t rd ra b => some (t, (scalarWord 6 rd ra b).bits)
  | .sar t rd ra b => some (t, (scalarWord 7 rd ra b).bits)
  | .mul t rd ra b => some (t, (scalarWord 8 rd ra b).bits)
  | .cmp t rd ra b => some (t, (scalarWord 9 rd ra b).bits)
  | .li t rd imm => some (t, plainWord 0 10 rd 0 0 imm)
  | .cmm t f .clean => some (t, f.bits)
  | .cdesc t dsc ra rb => some (t, plainWord 2 0 0 ra rb (0#36 ++ BitVec.ofNat 3 dsc))
  | .cacc t acc rm cm => some (t, plainWord 2 1 0 0 0 (0#20 ++ BitVec.ofNat 3 acc ++ rm ++ cm))
  | .vadd t f => some (t, (vecWord 0x0 f).bits)
  | .vsub t f => some (t, (vecWord 0x1 f).bits)
  | .vmul t f => some (t, (vecWord 0x2 f).bits)
  | .vfma t f => some (t, (vecWord 0x3 f).bits)
  | .vfms t f => some (t, (vecWord 0x4 f).bits)
  | .vmin t f => some (t, (vecWord 0x5 f).bits)
  | .vmax t f => some (t, (vecWord 0x6 f).bits)
  | .vabs t f => some (t, (vecWord 0x7 f).bits)
  | .vneg t f => some (t, (vecWord 0x8 f).bits)
  | .vadds t f => some (t, (vecWord 0x9 f).bits)
  | .vmuls t f => some (t, (vecWord 0xa f).bits)
  | .vaddH t f => some (t, (vecWord 0x10 f).bits)
  | .vmulH t f => some (t, (vecWord 0x11 f).bits)
  | .vfmaH t f => some (t, (vecWord 0x12 f).bits)
  | .vdot2 t f => some (t, (vecWord 0x13 f).bits)
  | .vexp t f => some (t, (vecWord 0x18 f).bits)
  | .vexp2 t f => some (t, (vecWord 0x19 f).bits)
  | .vlog t f => some (t, (vecWord 0x1a f).bits)
  | .vlog2 t f => some (t, (vecWord 0x1b f).bits)
  | .vrcp t f => some (t, (vecWord 0x1c f).bits)
  | .vsqrt t f => some (t, (vecWord 0x1d f).bits)
  | .vrsqrt t f => some (t, (vecWord 0x1e f).bits)
  | .vtanh t f => some (t, (vecWord 0x1f f).bits)
  | .vcmpeq t f => some (t, (vecWord 0x20 f).bits)
  | .vcmpne t f => some (t, (vecWord 0x21 f).bits)
  | .vcmplt t f => some (t, (vecWord 0x22 f).bits)
  | .vcmple t f => some (t, (vecWord 0x23 f).bits)
  | .vcmpun t f => some (t, (vecWord 0x24 f).bits)
  | .vsel t f => some (t, (vecWord 0x25 f).bits)
  | .vclass t f => some (t, (vecWord 0x26 f).bits)
  | .viadd t f => some (t, (vecWord 0x28 f).bits)
  | .visub t f => some (t, (vecWord 0x29 f).bits)
  | .vimul t f => some (t, (vecWord 0x2a f).bits)
  | .vand t f => some (t, (vecWord 0x2b f).bits)
  | .vor t f => some (t, (vecWord 0x2c f).bits)
  | .vxor t f => some (t, (vecWord 0x2d f).bits)
  | .vshl t f => some (t, (vecWord 0x2e f).bits)
  | .vshr t f => some (t, (vecWord 0x2f f).bits)
  | .vsar t f => some (t, (vecWord 0x30 f).bits)
  | .vcvtFi t f => some (t, (vecWord 0x32 f).bits)
  | .vcvtIf t f => some (t, (vecWord 0x33 f).bits)
  | .vpackH t f => some (t, (vecWord 0x34 f).bits)
  | .vunpkH t f => some (t, (vecWord 0x35 f).bits)
  | .vredsum t f => some (t, (vecWord 0x38 f).bits)
  | .vredmax t f => some (t, (vecWord 0x39 f).bits)
  | .vredmin t f => some (t, (vecWord 0x3a f).bits)
  | .vtrans t f => some (t, (vecWord 0x3b f).bits)
  | .vbcast t f => some (t, (vecWord 0x3c f).bits)
  | .vext t f => some (t, (vecWord 0x3d f).bits)
  | .vmov t f => some (t, (vecWord 0x3e f).bits)
  | .vdrain t f false [] => some (t, (vecWord 0x3f f).bits)
  | .ldv t f .clean => some (t, (lsWord 0 f).bits)
  | .ldvb t f .clean => some (t, (lsWord 1 f).bits)
  | .stv t f .clean [] => some (t, (lsWord 2 f).bits)
  | .stvb t f .clean [] => some (t, (lsWord 3 f).bits)
  | .ldt t f => some (t, (lsWord 4 f).bits)
  | .stt t f => some (t, (lsWord 5 f).bits)
  | .dmaCopy t ra .clean | .dmaCopy2d t ra .clean | .dmaFill t ra .clean | .dmaBadKind t ra .clean | .expand24 t ra .clean
  | .merge t ra .clean | .sort t ra .clean => some (t, plainWord 5 0 0 ra 0 0)
  | .tileSignal t obj => some (t, plainWord 6 0x00 0 0 0 (0#26 ++ obj))
  | .tileWait t obj sa => some (t, plainWord 6 0x01 0 sa 0 (0#26 ++ obj))
  | .tileAdd t obj sa => some (t, plainWord 6 0x02 0 sa 0 (0#26 ++ obj))
  | .fenceLs t => some (t, plainWord 6 0x10 0 0 0 0)
  | .fenceCube t => some (t, plainWord 6 0x11 0 0 0 0)
  | .fenceAll t => some (t, plainWord 6 0x12 0 0 0 0)
  | .br t off => some (t, plainWord 7 0 0 0 0 (0#13 ++ off))
  | .beq t ra rb off => some (t, plainWord 7 1 0 ra rb (0#13 ++ off))
  | .bne t ra rb off => some (t, plainWord 7 2 0 ra rb (0#13 ++ off))
  | .blt t ra rb off => some (t, plainWord 7 3 0 ra rb (0#13 ++ off))
  | .call t rd off => some (t, plainWord 7 4 rd 0 0 (0#13 ++ off))
  | .ret t ra => some (t, plainWord 7 5 0 ra 0 0)
  | .repeatBody t ra len => some (t, plainWord 7 6 0 ra 0 (0#30 ++ len))
  | .tileNop t => some (t, plainWord 8 0 0 0 0 0)
  | .halt t => some (t, plainWord 8 1 0 0 0 0)
  | .rdstat t rd sel => some (t, plainWord 8 2 rd 0 0 (0#35 ++ sel))
  | _ => none

/-- A KIND goes with a command: that of the record that the command launches, or any where it launches none. -/
def kindFits (kind : Nat) : Instr → Bool
  | .dmaCopy _ _ _ => kind == 0x01
  | .dmaCopy2d _ _ _ => kind == 0x02
  | .dmaFill _ _ _ => kind == 0x03
  | .expand24 _ _ _ => kind == 0x20
  | .merge _ _ _ => kind == 0x21
  | .sort _ _ _ => kind == 0x30
  | .dmaBadKind _ _ _ => !(kind == 0x01 || kind == 0x02 || kind == 0x03 || kind == 0x20 || kind == 0x21 || kind == 0x30)
  | _ => true

end Sys2Proof
end

