-- ==== Sys2Proof/Machine/Sparse.lean ====
section
/-!
DEFINITION. Sparse maps and sparse byte memories: lists sorted by key. A map's unlisted key reads as the default that the
reader gives. A memory is kept in ONE canonical form: addresses strictly rising and no listed byte equal to what an unlisted
address reads as.
-/

namespace Sys2Proof.Machine

/-- Read a sparse map: the listed value of a key, or the default. -/
def SMap.get {α : Type} (d : α) : SMap α → Nat → α
  | [], _ => d
  | (k, v) :: m, i => if i = k then v else SMap.get d m i

/-- Write a sparse map, keeping its keys in rising order. -/
def SMap.set {α : Type} : SMap α → Nat → α → SMap α
  | [], i, a => [(i, a)]
  | (k, v) :: m, i, a =>
    if i = k then (k, a) :: m else if i < k then (i, a) :: (k, v) :: m else (k, v) :: SMap.set m i a

/-- Drop a key, which then reads as the default. -/
def SMap.del {α : Type} : SMap α → Nat → SMap α
  | [], _ => []
  | (k, v) :: m, i => if i = k then SMap.del m i else (k, v) :: SMap.del m i

/-- A key is listed. -/
def SMap.has {α : Type} : SMap α → Nat → Bool
  | [], _ => false
  | (k, _) :: m, i => i == k || SMap.has m i

/-- A sparse byte memory. -/
abbrev Mem := List (Nat × BitVec 8)

/-- Read one byte; an unlisted address reads as `d`. -/
def Mem.get (d : Byte) : Mem → Nat → Byte
  | [], _ => d
  | (k, v) :: m, i => if i = k then v else Mem.get d m i

/-- Write one byte, keeping the canonical form for the unlisted byte `d`. -/
def Mem.set (d : Byte) : Mem → Nat → Byte → Mem
  | [], i, b => if b = d then [] else [(i, b)]
  | (k, v) :: m, i, b =>
    if i = k then (if b = d then m else (k, b) :: m)
    else if i < k then (if b = d then (k, v) :: m else (i, b) :: (k, v) :: m)
    else (k, v) :: Mem.set d m i b

/-- Every listed address lies above `lo`, addresses rise strictly, and no listed byte is `d`. -/
def Mem.wfFrom (d : Byte) : Nat → Mem → Bool
  | _, [] => true
  | lo, (k, v) :: m => decide (lo ≤ k) && decide (v ≠ d) && Mem.wfFrom d (k + 1) m

/-- The canonical form of a memory whose unlisted bytes read as `d`. -/
def Mem.wf (d : Byte) (m : Mem) : Bool := Mem.wfFrom d 0 m

/-- Read `n` bytes at rising addresses. -/
def Mem.bytes (d : Byte) (m : Mem) (a : Nat) : Nat → List Byte
  | 0 => []
  | n + 1 => Mem.get d m a :: Mem.bytes d m (a + 1) n

/-- Write bytes at rising addresses. -/
def Mem.write (d : Byte) : Mem → Nat → List Byte → Mem
  | m, _, [] => m
  | m, a, b :: bs => Mem.write d (Mem.set d m a b) (a + 1) bs

/-- Write bytes at rising addresses taken modulo `w` (a tile store wraps at 262,144, Table 4.8). -/
def Mem.writeMod (d : Byte) (w : Nat) : Mem → Nat → List Byte → Mem
  | m, _, [] => m
  | m, a, b :: bs => Mem.writeMod d w (Mem.set d m (a % w) b) (a + 1) bs

/-- Read `n` bytes at rising addresses taken modulo `w`. -/
def Mem.bytesMod (d : Byte) (w : Nat) (m : Mem) (a : Nat) : Nat → List Byte
  | 0 => []
  | n + 1 => Mem.get d m (a % w) :: Mem.bytesMod d w m (a + 1) n

/-- The `i`-th element of a list, or a default. -/
def nth {α : Type} (d : α) : List α → Nat → α
  | [], _ => d
  | a :: _, 0 => a
  | _ :: l, n + 1 => nth d l n

/-- Replace the `i`-th element of a list. -/
def setNth {α : Type} : List α → Nat → α → List α
  | [], _, _ => []
  | _ :: l, 0, a => a :: l
  | b :: l, n + 1, a => b :: setNth l n a

/-- Remove the `i`-th element of a list. -/
def delNth {α : Type} : List α → Nat → List α
  | [], _ => []
  | _ :: l, 0 => l
  | b :: l, n + 1 => b :: delNth l n

/-- Apply a step `n` times, with the index rising from `i`. -/
def iterFrom {σ : Type} (f : Nat → σ → σ) : Nat → Nat → σ → σ
  | 0, _, s => s
  | n + 1, i, s => iterFrom f n (i + 1) (f i s)

/-- Apply a step `n` times, with the index rising from 0. -/
def iter {σ : Type} (n : Nat) (f : Nat → σ → σ) (s : σ) : σ := iterFrom f n 0 s

/-- The first index below `n`, from `i`, that satisfies a test. -/
def findFrom (p : Nat → Bool) : Nat → Nat → Option Nat
  | 0, _ => none
  | n + 1, i => if p i then some i else findFrom p n (i + 1)

/-- Insert into a list sorted by a Boolean order, after equal elements. -/
def insertBy {α : Type} (lt : α → α → Bool) (a : α) : List α → List α
  | [] => [a]
  | b :: l => if lt a b then a :: b :: l else b :: insertBy lt a l

/-- Stable insertion sort. -/
def sortBy {α : Type} (lt : α → α → Bool) : List α → List α
  | [] => []
  | a :: l => insertBy (fun x y => lt x y || !lt y x) a (sortBy lt l)

/-- `n` rounded up to a multiple of `k`. -/
def roundUp (n k : Nat) : Nat := (n + k - 1) / k * k

/-- The least `n` with `2 ^ n` at least `p`; `ceilLog2 1 = 0`. -/
def ceilLog2 (p : Nat) : Nat := if p ≤ 1 then 0 else Nat.log2 (p - 1) + 1

end Sys2Proof.Machine
end

