-- ==== Sys2Proof/Machine/Bits.lean ====
section
/-!
DEFINITION. Byte order and check codes: least-significant-byte-first fields (R8), the CRC-32C glaze word (R174), the CRC-64
block digest (R303), residues modulo 15 (R363).
-/

namespace Sys2Proof.Machine

/-- A number from bytes, least-significant byte first (R8). -/
def leNat : List Byte → Nat
  | [] => 0
  | b :: bs => b.toNat + 256 * leNat bs

/-- The `n` low bytes of a number, least-significant byte first (R8). -/
def toLe : Nat → Nat → List Byte
  | 0, _ => []
  | n + 1, v => BitVec.ofNat 8 v :: toLe n (v / 256)

/-- Bytes `off` to `off + n - 1` of a record, as a number (R8). -/
def field (rec : List Byte) (off n : Nat) : Nat := leNat ((rec.drop off).take n)

/-- Replace bytes `off` onward of a record. -/
def putField (rec : List Byte) (off : Nat) (bs : List Byte) : List Byte :=
  rec.take off ++ bs ++ rec.drop (off + bs.length)

/-- A 256-byte block of zeros. -/
def zeroBlock : List Byte := List.replicate 256 0

/-- Every byte is zero (R149). -/
def allZero (bs : List Byte) : Bool := bs.all (· == 0)

/-- One bit step of the reflected CRC-32C (R174: Castagnoli polynomial). -/
def crc32cBit (c : Nat) : Nat := if c % 2 = 1 then Nat.xor (c / 2) 0x82F63B78 else c / 2

/-- One byte of the reflected CRC-32C. -/
def crc32cByte (c : Nat) (b : Byte) : Nat :=
  crc32cBit (crc32cBit (crc32cBit (crc32cBit (crc32cBit (crc32cBit (crc32cBit (crc32cBit (Nat.xor c b.toNat))))))))

/-- CRC-32C of bytes in increasing address order, with the standard initial value and final inversion (R174). -/
def crc32c (bs : List Byte) : Word := BitVec.ofNat 32 (Nat.xor (bs.foldl crc32cByte 0xFFFFFFFF) 0xFFFFFFFF)

/-- One bit step of CRC-64 with the ECMA-182 polynomial, most significant bit first (R303). -/
def crc64Bit (c : Nat) : Nat :=
  if 2 ^ 63 ≤ c then Nat.xor (c * 2 % 2 ^ 64) 0x42F0E1EBA9EA3693 else c * 2 % 2 ^ 64

/-- One byte of CRC-64. -/
def crc64Byte (c : Nat) (b : Byte) : Nat :=
  crc64Bit (crc64Bit (crc64Bit (crc64Bit (crc64Bit (crc64Bit (crc64Bit (crc64Bit (Nat.xor c (b.toNat * 2 ^ 56)))))))))

/-- CRC-64 with initial value 0, no reflection and no final inversion (R303). -/
def crc64 (bs : List Byte) : BitVec 64 := BitVec.ofNat 64 (bs.foldl crc64Byte 0)

/-- The residue of an integer, 0 to 14 (R363). -/
def residue15 (v : Int) : Nat := (v % 15).toNat

/-- The residue of a sign and magnitude (Table 13.1, first row). -/
def residueSM (neg : Bool) (m : Nat) : Nat := if neg && m % 15 != 0 then 15 - m % 15 else m % 15

/-- The residue of a product (Table 13.1). -/
def residueMul (a b : Nat) : Nat := a * b % 15

/-- The residue of a left shift by `n` (Table 13.1). -/
def residueShl (r n : Nat) : Nat := r * 2 ^ (n % 4) % 15

/-- The residue of a right shift toward zero by `n` that drops `low` from a value of the given sign (Table 13.1). -/
def residueShr (r : Nat) (neg : Bool) (low n : Nat) : Nat :=
  (r + 15 - residueSM neg low) % 15 * 8 ^ (n % 4) % 15

/-- The residue of a sum (Table 13.1). -/
def residueAdd (a b : Nat) : Nat := (a + b) % 15

/-- The residue of a subtracted term (Table 13.1). -/
def residueNeg (r : Nat) : Nat := (15 - r % 15) % 15

/-- The residue of a clamped value, at each of the three widths: the sign picks the bound (Table 13.1). -/
def residueClamp (neg : Bool) : Nat := if neg then 8 else 7

/-- The residue of `v * 2^n` toward zero, from the residue `r` of `v` and the bits dropped (Table 13.1). -/
def residueShift (r : Nat) (v n : Int) : Nat :=
  if 0 ≤ n then residueShl r n.toNat else residueShr r (decide (v < 0)) (v.natAbs % 2 ^ (-n).toNat) (-n).toNat

/-- A `w`-bit value of which an upset has flipped the bits of `m`. -/
def flipInt (w : Nat) (v : Int) (m : Nat) : Int := (BitVec.ofInt w v ^^^ BitVec.ofNat w m).toInt

/-- Bits `hi` down to `lo` of a word, as a number. -/
def bitsOf (v : Word) (hi lo : Nat) : Nat := v.toNat / 2 ^ lo % 2 ^ (hi + 1 - lo)

/-- Replace bits `hi` down to `lo` of a word. -/
def putBits (v : Word) (hi lo : Nat) (x : Nat) : Word :=
  let msk := 2 ^ (hi + 1 - lo) - 1
  BitVec.ofNat 32 (v.toNat - v.toNat / 2 ^ lo % (msk + 1) * 2 ^ lo + x % (msk + 1) * 2 ^ lo)

/-- A saturating 32-bit counter raised by `n` (R14). -/
def satAdd (c : Word) (n : Nat) : Word := if c.toNat + n ≥ 2 ^ 32 then BitVec.allOnes 32 else BitVec.ofNat 32 (c.toNat + n)

end Sys2Proof.Machine
end

