-- ==== Sys2Proof/Machine/Fp.lean ====
section
/-!
DEFINITION. Exact binary floating-point values, the one rounding function of the model, and FP32 and BF16 arithmetic with
the special results of Table 4.3 and the Underpainting arithmetic of Rule R72.
-/

namespace Sys2Proof.Machine

/-- A floating-point value: NaN, an infinity, or the exact number `(-1)^neg * m * 2^e` (zero keeps its sign). -/
inductive FVal where
  | nan
  | inf (neg : Bool)
  | fin (neg : Bool) (m : Nat) (e : Int)
deriving DecidableEq, Repr

/-- `x * 2^n` for a natural number, toward zero when `n` is negative. -/
def shiftNat (x : Nat) (n : Int) : Nat := if 0 ≤ n then x * 2 ^ n.toNat else x / 2 ^ (-n).toNat

/-- Decode a binary format whose significand has `p` bits and whose smallest positive value is `2^emin` (R49). -/
def fdecode (p : Nat) (emin : Int) (bits : Nat) : FVal :=
  let f := bits % 2 ^ (p - 1)
  let ex := bits / 2 ^ (p - 1) % 256
  let neg := decide (bits / 2 ^ (p + 7) % 2 = 1)
  if ex = 255 then (if f = 0 then .inf neg else .nan)
  else if ex = 0 then .fin neg f emin
  else .fin neg (f + 2 ^ (p - 1)) (emin + (ex : Int) - 1)

/-- The value of FP32 bits (R49). -/
def f32 (w : Word) : FVal := fdecode 24 (-149) w.toNat

/-- The value of BF16 bits (R49). -/
def bf16 (w : BitVec 16) : FVal := fdecode 8 (-133) w.toNat

/-- Magnitude bits of a rounding, with its overflow and underflow marks. -/
structure Rounded where
  mag : Nat
  ovf : Bool
  ufl : Bool
deriving DecidableEq, Repr

/-- The quotient of `m` by `2^sh`, rounded: mode 1 toward zero, else to nearest with ties to even (R52); `sticky` says that
a nonzero amount below one unit of `m` was dropped already. -/
def roundShift (mode : Nat) (m : Nat) (sh : Nat) (sticky : Bool) : Nat :=
  let q := m / 2 ^ sh
  let r2 := (m % 2 ^ sh) * 2
  if mode = 1 then q
  else if r2 > 2 ^ sh then q + 1
  else if r2 = 2 ^ sh then (if sticky || q % 2 == 1 then q + 1 else q)
  else q

/-- Round the positive number `m * 2^e` (plus a nonzero amount below one unit of `m` when `sticky`) to a format of `p`
significand bits and smallest positive value `2^emin` (R52, R57). -/
def roundMag (p : Nat) (emin : Int) (mode : Nat) (m : Nat) (e : Int) (sticky : Bool) : Rounded :=
  if m = 0 then ⟨0, false, sticky⟩
  else
    let u := max ((Nat.log2 m : Int) + e - ((p : Int) - 1)) emin
    let q := if u ≤ e then m * 2 ^ (e - u).toNat else roundShift mode m (u - e).toNat sticky
    let bits := (u - emin).toNat * 2 ^ (p - 1) + q
    if 255 * 2 ^ (p - 1) ≤ bits then ⟨255 * 2 ^ (p - 1) - (if mode = 1 then 1 else 0), true, false⟩
    else ⟨bits, false, decide (q = 0)⟩

/-- A result with the counts of Table 4.3: NaNs created, overflows, underflows. -/
structure FRes where
  bits : Nat
  nan : Nat := 0
  ovf : Nat := 0
  ufl : Nat := 0
deriving DecidableEq, Repr

/-- A binary format with its sign position: significand bits and exponent of the smallest value. -/
structure Fmt where
  p : Nat
  emin : Int
deriving DecidableEq, Repr

/-- FP32 (R49). -/
def fmt32 : Fmt := ⟨24, -149⟩

/-- BF16 (R49). -/
def fmt16 : Fmt := ⟨8, -133⟩

/-- The canonical NaN: positive and quiet natively (R49), negative and quiet in Underpainting mode (R72). -/
def canonNan (f : Fmt) (u : Bool) : Nat :=
  255 * 2 ^ (f.p - 1) + 2 ^ (f.p - 2) + (if u then 2 ^ (f.p + 7) else 0)

/-- Sign bit of a format. -/
def signBit (f : Fmt) (neg : Bool) : Nat := if neg then 2 ^ (f.p + 7) else 0

/-- Infinity bits. -/
def infBits (f : Fmt) (neg : Bool) : Nat := 255 * 2 ^ (f.p - 1) + signBit f neg

/-- A result below the smallest normal value. -/
def isSub (f : Fmt) (mag : Nat) : Bool := decide (mag < 2 ^ (f.p - 1))

/-- Encode an exact value under RNE; in Underpainting mode a subnormal result becomes zero of the same sign (R72). -/
def fencode (f : Fmt) (u : Bool) : FVal → FRes
  | .nan => { bits := canonNan f u }
  | .inf neg => { bits := infBits f neg }
  | .fin neg m e =>
    let r := roundMag f.p f.emin 0 m e false
    if u && isSub f r.mag then { bits := signBit f neg, ufl := if m = 0 then 0 else 1 }
    else { bits := signBit f neg + r.mag, ovf := if r.ovf then 1 else 0, ufl := if r.ufl then 1 else 0 }

/-- Decode an operand; in Underpainting mode a subnormal reads as zero of the same sign (R72). -/
def fin (f : Fmt) (u : Bool) (bits : Nat) : FVal :=
  match fdecode f.p f.emin bits with
  | .fin neg m e => if u && decide (m < 2 ^ (f.p - 1)) then .fin neg 0 e else .fin neg m e
  | v => v

/-- A NaN created from inputs that are not NaN (Table 4.3, VEC_NAN_GEN). -/
def genNan (f : Fmt) (u : Bool) : FRes := { bits := canonNan f u, nan := 1 }

/-- Exact sum of two finite values; a zero sum is `-0` only when both terms are negative zeros (IEEE 754, R114). -/
def addFin (n1 : Bool) (m1 : Nat) (e1 : Int) (n2 : Bool) (m2 : Nat) (e2 : Int) : FVal :=
  if m1 = 0 && m2 = 0 then .fin (n1 && n2) 0 e1
  else
    let e := min e1 e2
    let a : Int := (m1 * 2 ^ (e1 - e).toNat : Nat)
    let b : Int := (m2 * 2 ^ (e2 - e).toNat : Nat)
    let s := (if n1 then -a else a) + (if n2 then -b else b)
    .fin (decide (s < 0)) s.natAbs e

/-- Sum of two values; `none` marks a NaN created by the sum of opposite infinities. -/
def addVal : FVal → FVal → Option FVal
  | .nan, _ => some .nan
  | _, .nan => some .nan
  | .inf a, .inf b => if a = b then some (.inf a) else none
  | .inf a, .fin _ _ _ => some (.inf a)
  | .fin _ _ _, .inf b => some (.inf b)
  | .fin n1 m1 e1, .fin n2 m2 e2 => some (addFin n1 m1 e1 n2 m2 e2)

/-- Exact product; `none` marks a NaN created by zero times infinity. -/
def mulVal : FVal → FVal → Option FVal
  | .nan, _ => some .nan
  | _, .nan => some .nan
  | .inf a, .inf b => some (.inf (a != b))
  | .inf a, .fin n m _ => if m = 0 then none else some (.inf (a != n))
  | .fin n m _, .inf b => if m = 0 then none else some (.inf (n != b))
  | .fin n1 m1 e1, .fin n2 m2 e2 => some (.fin (n1 != n2) (m1 * m2) (e1 + e2))

/-- Negate a value. -/
def negVal : FVal → FVal
  | .nan => .nan
  | .inf n => .inf (!n)
  | .fin n m e => .fin (!n) m e

/-- A value is NaN. -/
def isNan : FVal → Bool
  | .nan => true
  | _ => false

/-- Encode an optional exact result; `none` is a NaN created here. -/
def fdone (f : Fmt) (u : Bool) : Option FVal → FRes
  | none => genNan f u
  | some v => fencode f u v

/-- Addition (Table 4.2). -/
def fadd (f : Fmt) (u : Bool) (a b : Nat) : FRes := fdone f u (addVal (fin f u a) (fin f u b))

/-- Subtraction. -/
def fsub (f : Fmt) (u : Bool) (a b : Nat) : FRes := fdone f u (addVal (fin f u a) (negVal (fin f u b)))

/-- Multiplication. -/
def fmul (f : Fmt) (u : Bool) (a b : Nat) : FRes := fdone f u (mulVal (fin f u a) (fin f u b))

/-- Join the counts of two steps of one element, keeping the second's bits: each counter counts the element once (R115). -/
def FRes.after (r : FRes) (s : FRes) : FRes :=
  { bits := s.bits, nan := max r.nan s.nan, ovf := max r.ovf s.ovf, ufl := max r.ufl s.ufl }

/-- A NaN that an input brought is passed on and not counted (R115). -/
def FRes.passOn (r : FRes) (nanIn : Bool) : FRes := if nanIn then { r with nan := 0 } else r

/-- Multiply-add with one rounding (R114), or rounded after the multiply and after the add in Underpainting mode (R71, R116). -/
def fma (f : Fmt) (u : Bool) (negC : Bool) (a b c : Nat) : FRes :=
  let vc := if negC then negVal (fin f u c) else fin f u c
  if u then
    let pr := fmul f u a b
    (pr.after (fdone f u (addVal (fin f u pr.bits) vc))).passOn (isNan (fin f u a) || isNan (fin f u b) || isNan vc)
  else if isNan vc then { bits := canonNan f u }
  else match mulVal (fin f u a) (fin f u b) with
    | none => genNan f u
    | some pv => fdone f u (addVal pv vc)

/-- Sum of three exact values; `none` when infinities of both signs meet. -/
def add3 (x y z : FVal) : Option FVal :=
  if isNan x || isNan y || isNan z then some .nan
  else match addVal x y with
    | none => none
    | some s => addVal s z

/-- VDOT2 of one element: `a0 b0 + a1 b1 + c` with exact products and one rounding (Table 4.2); in Underpainting mode the
products are rounded and added in increasing index order, one rounding each (R73). -/
def fdot2 (u : Bool) (a0 b0 a1 b1 : Nat) (c : Nat) : FRes :=
  let x0 := fin fmt16 u a0
  let y0 := fin fmt16 u b0
  let x1 := fin fmt16 u a1
  let y1 := fin fmt16 u b1
  if u then
    let p0 := fdone fmt32 u (mulVal x0 y0)
    let s0 := p0.after (fadd fmt32 u c p0.bits)
    let p1 := s0.after (fdone fmt32 u (mulVal x1 y1))
    (p1.after (fadd fmt32 u s0.bits p1.bits)).passOn
      (isNan x0 || isNan y0 || isNan x1 || isNan y1 || isNan (fin fmt32 u c))
  else if isNan x0 || isNan y0 || isNan x1 || isNan y1 || isNan (f32 (BitVec.ofNat 32 c)) then { bits := canonNan fmt32 u }
  else match mulVal x0 y0, mulVal x1 y1 with
    | some v0, some v1 => fdone fmt32 u (add3 v0 v1 (fin fmt32 u c))
    | _, _ => genNan fmt32 u

/-- A total order key for values that are not NaN: `-0` lies below `+0` (Table 4.3, VMIN and VMAX). -/
def fkey (f : Fmt) (u : Bool) (bits : Nat) : Int :=
  let mag : Nat := bits % 2 ^ (f.p + 7)
  let mg : Nat := if u && decide (mag < 2 ^ (f.p - 1)) then 0 else mag
  if bits / 2 ^ (f.p + 7) % 2 = 1 then -(mg : Int) - 1 else (mg : Int)

/-- Minimum or maximum (Table 4.3). -/
def fminmax (f : Fmt) (u : Bool) (wantMax : Bool) (a b : Nat) : FRes :=
  if isNan (fin f u a) || isNan (fin f u b) then { bits := canonNan f u }
  else
    let pick := if fkey f u a < fkey f u b then (if wantMax then b else a) else (if wantMax then a else b)
    { bits := (fencode f u (fin f u pick)).bits }

/-- Comparison of two values: `none` when unordered, else below, equal (zeros of both signs are equal), above. -/
def fcmp (f : Fmt) (u : Bool) (a b : Nat) : Option Int :=
  match fin f u a, fin f u b with
  | .nan, _ => none
  | _, .nan => none
  | .fin _ 0 _, .fin _ 0 _ => some 0
  | _, _ =>
    let x := fkey f u a
    let y := fkey f u b
    some (if x < y then -1 else if x = y then 0 else 1)

/-- Class code of an FP32 element (Table 4.4). -/
def fclass (bits : Nat) : Nat :=
  match fdecode 24 (-149) bits with
  | .nan => 8
  | .inf false => 2
  | .inf true => 3
  | .fin neg m _ =>
    if m = 0 then (if neg then 1 else 0)
    else if m < 2 ^ 23 then (if neg then 5 else 4) else (if neg then 7 else 6)

/-- Correctly rounded reciprocal (R111, Table 4.3). -/
def frcp (bits : Nat) : FRes :=
  match fdecode 24 (-149) bits with
  | .nan => { bits := canonNan fmt32 false }
  | .inf neg => { bits := signBit fmt32 neg }
  | .fin neg m e =>
    if m = 0 then { bits := infBits fmt32 neg }
    else
      let r := roundMag 24 (-149) 0 (2 ^ 64 / m) (-64 - e) (decide (2 ^ 64 % m ≠ 0))
      { bits := signBit fmt32 neg + r.mag, ovf := if r.ovf then 1 else 0, ufl := if r.ufl then 1 else 0 }

/-- One step of the bitwise integer square root: try bit `i`. -/
def isqrtStep (n : Nat) (i : Nat) (r : Nat) : Nat := if (r + 2 ^ i) * (r + 2 ^ i) ≤ n then r + 2 ^ i else r

/-- Integer square root by bits `k-1` down to 0. -/
def isqrtFrom (n : Nat) : Nat → Nat → Nat
  | 0, r => r
  | k + 1, r => isqrtFrom n k (isqrtStep n k r)

/-- Integer square root of a number below `2^256`. -/
def isqrt (n : Nat) : Nat := isqrtFrom n 128 0

/-- Square root of the positive number `m * 2^e`, as an integer and exponent with a sticky mark. -/
def sqrtParts (m : Nat) (e : Int) : Nat × Int × Bool :=
  let odd := e % 2 = 1
  let m' := (if odd then 2 * m else m) * 2 ^ 80
  let e' := (if odd then e - 1 else e) - 80
  let r := isqrt m'
  (r, e' / 2, decide (r * r ≠ m'))

/-- Correctly rounded square root (R111, Table 4.3). -/
def fsqrt (bits : Nat) : FRes :=
  match fdecode 24 (-149) bits with
  | .nan => { bits := canonNan fmt32 false }
  | .inf neg => if neg then genNan fmt32 false else { bits := infBits fmt32 false }
  | .fin neg m e =>
    if m = 0 then { bits := signBit fmt32 neg }
    else if neg then genNan fmt32 false
    else match sqrtParts m e with
      | (r, x, st) => { bits := (roundMag 24 (-149) 0 r x st).mag }

/-- Correctly rounded reciprocal square root (R111, Table 4.3): the floor of `2^80 / sqrt(m')` by an integer root of
`2^160 / m'`, with a sticky mark when it is not exact. -/
def frsqrt (bits : Nat) : FRes :=
  match fdecode 24 (-149) bits with
  | .nan => { bits := canonNan fmt32 false }
  | .inf neg => if neg then genNan fmt32 false else { bits := 0 }
  | .fin neg m e =>
    if m = 0 then { bits := infBits fmt32 neg }
    else if neg then genNan fmt32 false
    else
      let odd := e % 2 = 1
      let m' := if odd then 2 * m else m
      let e' := if odd then e - 1 else e
      let r := isqrt (2 ^ 160 / m')
      { bits := (roundMag 24 (-149) 0 r (-80 - e' / 2) (decide (r * r * m' ≠ 2 ^ 160))).mag }

/-- FP32 to BF16 (R57): rounded with the mode; overflow, and a nonzero value that becomes zero, are marked. Under RTZ a value above the largest
finite BF16 becomes that value and is marked as overflow (DEDUCED, log 62). In Underpainting mode R72 governs. -/
def toBf16 (u : Bool) (mode : Nat) (w : Nat) : FRes :=
  match fin fmt32 u w with
  | .nan => { bits := canonNan fmt16 u }
  | .inf neg => { bits := infBits fmt16 neg }
  | .fin neg m e =>
    let r := roundMag 8 (-133) (if u then 0 else mode) m e false
    if u && isSub fmt16 r.mag then { bits := signBit fmt16 neg, ufl := if m = 0 then 0 else 1 }
    else
      let cut := mode == 1 && !u && decide (0x7F7F0000 < w % 2 ^ 31)
      { bits := signBit fmt16 neg + r.mag, ovf := if r.ovf || cut then 1 else 0, ufl := if r.ufl then 1 else 0 }

/-- BF16 to FP32, exact; NaNs become canonical (R49, R72). -/
def ofBf16 (u : Bool) (h : Nat) : Nat := (fencode fmt32 u (fin fmt16 u h)).bits

/-- An FP32 word as a converter writes it unchanged: NaNs become canonical (R49). -/
def canon32 (u : Bool) (w : Nat) : Nat := if isNan (fdecode 24 (-149) w) then canonNan fmt32 u else w

/-- Result of a conversion to INT32 with its marks (R58). -/
structure IRes where
  v : Int
  ovf : Bool
  flush : Bool
  nonfin : Bool
deriving DecidableEq, Repr

/-- FP32 times `2^k` to INT32 (R58). -/
def toInt32 (mode : Nat) (k : Int) (w : Nat) : IRes :=
  match fdecode 24 (-149) w with
  | .nan => ⟨0, false, false, true⟩
  | .inf neg => ⟨if neg then -(2 ^ 31 - 1) else 2 ^ 31 - 1, false, false, true⟩
  | .fin neg m e =>
    let x := e + k
    let q := if 0 ≤ x then m * 2 ^ x.toNat else roundShift mode m (-x).toNat false
    let c := min q (2 ^ 31 - 1)
    ⟨if neg then -(c : Int) else (c : Int), decide (q > 2 ^ 31 - 1), decide (m ≠ 0) && decide (q = 0), false⟩

/-- A signed integer as a 32-bit word. -/
def wordOf (v : Int) : Word := BitVec.ofInt 32 v

/-- INT32 to FP32 under RNE (Table 4.2, VCVT.IF). -/
def ofInt32 (w : Word) : Nat :=
  (fencode fmt32 false (.fin (decide (w.toInt < 0)) w.toInt.natAbs 0)).bits

end Sys2Proof.Machine
end

