-- ==== Sys2Proof/Config.lean ====
section
/-!
DEFINITION. What the manual leaves open: free values with no body, so that no proof can see what they are, and the few
constants that an implementation fixes. Each is named in a row of notes/assumptions.
-/

namespace Sys2Proof.Config

/-- A fresh open 32-bit value, applied to the counter `State.free` (DESIGN CHOICE, log 12). -/
opaque freeWord : Nat → BitVec 32

/-- A fresh open byte (signature bytes, values the manual gives no formula for), applied to the counter `State.free` (DESIGN CHOICE, log 12). -/
opaque freeByte : Nat → BitVec 8

/-- The index at which a full translation cache drops an entry (R187 gives capacities and no replacement order; DESIGN CHOICE, log 21). -/
opaque evict : Nat → Nat

/-- The bit pattern that the Plynmo P3 produces by its table method (R71, Table 2.11): exponential, logarithm,
reciprocal and reciprocal square root. The manual does not print the tables (DESIGN CHOICE, log 13). -/
opaque p3Exp : BitVec 32 → BitVec 32

/-- See `p3Exp`. -/
opaque p3Log : BitVec 32 → BitVec 32

/-- See `p3Exp`. -/
opaque p3Rcp : BitVec 32 → BitVec 32

/-- See `p3Exp`. -/
opaque p3Rsqrt : BitVec 32 → BitVec 32

/-- The result of a quarter-rate function in the case, which never arises for binary32, that an enclosure of width below
2^-200 still straddles a rounding boundary (R111; DESIGN CHOICE, log 14). First argument: the function's operation code. -/
opaque elemOpen : Nat → BitVec 32 → BitVec 32

/-- SM3 digest of a byte string (R487, R490, R492 name the published algorithm and do not print it; DESIGN CHOICE, log 15). -/
opaque sm3 : List (BitVec 8) → List (BitVec 8)

/-- Contents of the mask boot ROM, measured as block 1 of Table 18.4 (DESIGN CHOICE, log 15). -/
opaque bootRom : List (BitVec 8)

/-- The device serial number that SEC_SERIAL reports, from the device certificate (R491, Table 18.9; DESIGN CHOICE, log 15). -/
opaque serial : BitVec 64

/-- The voltage table's core-rail millivolts for a C-die and a setpoint code (R399: measured for each chip; DESIGN CHOICE, log 16). -/
opaque tableMv : Nat → Nat → Nat

/-- The HBM row address that a stack offset falls in (R159: the mapping is fixed and not given; DESIGN CHOICE, log 17). -/
opaque hbmRow : Nat → Nat

/-- XID bits [23:0] of a Wheel's exchange, by its number (Table 10.1 leaves the XIDs of the Wheel's own records open; DESIGN CHOICE, log 24). -/
opaque wheelXid : Nat → Nat

/-- XID bits [23:0] of a budget shift's ALL_REDUCE (R402 does not give it; DESIGN CHOICE, log 24). -/
opaque shiftXid : Nat

/-- The 64 KiB pages (physical address over 65,536) that hold part of a row of a stack (R170; as `hbmRow`, DESIGN CHOICE, log 17). -/
opaque rowPages : Nat → Nat → List Nat

/-- The channel of a stack offset (R159: the mapping is fixed and not given; DESIGN CHOICE, log 17). -/
opaque hbmChannel : Nat → Nat

/-- The decoder of R490's fingerprint code, from 512 bytes to 32 (the manual gives its power and not the code; DESIGN CHOICE, log 15). -/
opaque eccDecode : List (BitVec 8) → List (BitVec 8)

/-- The SM2 public key of a private scalar, x then y (R491 names the published curve; DESIGN CHOICE, log 15). -/
opaque sm2Public : Nat → List (BitVec 8)

/-- The subject key of the device certificate in a chain (R491; the DER form is the published one, DESIGN CHOICE, log 15). -/
opaque certKey : List (BitVec 8) → List (BitVec 8)

/-- An SM2 signature over a message with a private scalar; the last argument picks its random number (R490; DESIGN CHOICE, log 15). -/
opaque sm2Sign : Nat → List (BitVec 8) → Nat → List (BitVec 8)

/-- An SM2 signature over a message checks under a public key, with the default signer identity of the published standard (R487; DESIGN CHOICE,
log 15). -/
opaque sm2Verify : List (BitVec 8) → List (BitVec 8) → List (BitVec 8) → Bool

/-- The digest of the vendor's public key in mask ROM (R487; DESIGN CHOICE, log 15). -/
opaque vendorDigest : List (BitVec 8)

/-- The voltage table's signature checks, and it holds codes 24 and 40 for every die (R483; the manual gives neither its layout nor the place of its
signature: DESIGN CHOICE, log 15). -/
opaque voltageOk : List (BitVec 8) → Bool

/-- A word of the hidden test state of a tile as a firing leaves it (R373), by the firing's free value: words 0 to 2,047 the ninth accumulator tiles,
2,048 to 2,303 the vector registers, 2,304 to 4,351 the test area. The test program is in mask ROM (log 48). -/
opaque hiddenWord : Nat → Nat → Word

end Sys2Proof.Config
end

