-- ==== Sys2Proof/Machine/Regs.lean ====
section
/-!
DEFINITION. The register window: one row per register of the manual's register tables, with its place (Table 20.2), its access
codes (Table 0.3) and its reset value; the address of each register by name; the lookup of a window offset.
-/

namespace Sys2Proof.Machine

/-- One register or array of registers: window offset of the first, block instances and their stride, inner instances and
their stride, the bits of each access code, and the reset value. `pair` is 1 for a _LO half and 2 for a _HI half (R10). -/
structure RegRow where
  base  : Nat
  bn    : Nat
  bs    : Nat
  n     : Nat
  st    : Nat
  rw    : Nat
  w1c   : Nat
  rc    : Nat
  rst   : Nat
  pair  : Nat
deriving DecidableEq, Repr

/-- The row lists the window offset. -/
def RegRow.hits (r : RegRow) (off : Nat) : Bool :=
  decide (r.base ≤ off) &&
    (let d := off - r.base
     let i := if r.bs = 0 then 0 else d / r.bs
     let x := if r.bs = 0 then d else d % r.bs
     decide (i < r.bn) && (if r.st = 0 then decide (x = 0) else decide (x % r.st = 0) && decide (x / r.st < r.n)))

/-- Window offset of TIL_CVTn_FMT (Table 2.7). -/
abbrev rTilCvtFmt (t n : Nat) : Nat := 0x1000400 + 0x1000 * t + 0x40 * n

/-- Window offset of TIL_CVTn_STATUS (Table 2.8). -/
abbrev rTilCvtStatus (t n : Nat) : Nat := 0x1000404 + 0x1000 * t + 0x40 * n

/-- Window offset of TIL_CVTn_RMAX (Table 2.9). -/
abbrev rTilCvtRmax (t n : Nat) : Nat := 0x1000408 + 0x1000 * t + 0x40 * n

/-- Window offset of TIL_CVTn_EMAX (Table 2.9). -/
abbrev rTilCvtEmax (t n : Nat) : Nat := 0x100040c + 0x1000 * t + 0x40 * n

/-- Window offset of TIL_CVTn_OVF (Table 2.9). -/
abbrev rTilCvtOvf (t n : Nat) : Nat := 0x1000410 + 0x1000 * t + 0x40 * n

/-- Window offset of TIL_CVTn_FLUSH (Table 2.9). -/
abbrev rTilCvtFlush (t n : Nat) : Nat := 0x1000414 + 0x1000 * t + 0x40 * n

/-- Window offset of TIL_CVTn_NONFIN (Table 2.9). -/
abbrev rTilCvtNonfin (t n : Nat) : Nat := 0x1000418 + 0x1000 * t + 0x40 * n

/-- Window offset of SWT_BASE (Table 2.10). -/
abbrev rSwtBase (d : Nat) : Nat := 0x101000 + 0x10000 * d

/-- Window offset of SWT_SLOTS (Table 2.10). -/
abbrev rSwtSlots (d : Nat) : Nat := 0x101004 + 0x10000 * d

/-- Window offset of SWT_DROPPED (Table 2.10). -/
abbrev rSwtDropped (d : Nat) : Nat := 0x101008 + 0x10000 * d

/-- Window offset of TIL_UPNT_STATUS (Table 2.12). -/
abbrev rTilUpntStatus (t : Nat) : Nat := 0x1000480 + 0x1000 * t

/-- Window offset of TIL_STATUS (Table 3.12). -/
abbrev rTilStatus (t : Nat) : Nat := 0x1000000 + 0x1000 * t

/-- Window offset of TIL_ACC_FLUSH (Table 3.13). -/
abbrev rTilAccFlush (t : Nat) : Nat := 0x1000004 + 0x1000 * t

/-- Window offset of TIL_ACC_SAT (Table 3.13). -/
abbrev rTilAccSat (t : Nat) : Nat := 0x1000008 + 0x1000 * t

/-- Window offset of TIL_ACC_NONFIN (Table 3.13). -/
abbrev rTilAccNonfin (t : Nat) : Nat := 0x100000c + 0x1000 * t

/-- Window offset of TIL_GROUP_LIMIT (Table 3.14). -/
abbrev rTilGroupLimit (t : Nat) : Nat := 0x1000010 + 0x1000 * t

/-- Window offset of TIL_GROUP_FORCED (Table 3.14). -/
abbrev rTilGroupForced (t : Nat) : Nat := 0x1000014 + 0x1000 * t

/-- Window offset of CUB_RAMP_HOLD (Table 3.15). -/
abbrev rCubRampHold (t : Nat) : Nat := 0x1000800 + 0x1000 * t

/-- Window offset of CUB_DEP_STALLS (Table 3.16). -/
abbrev rCubDepStalls (t : Nat) : Nat := 0x1000804 + 0x1000 * t

/-- Window offset of CUB_RAMP_LOST (Table 3.16). -/
abbrev rCubRampLost (t : Nat) : Nat := 0x1000808 + 0x1000 * t

/-- Window offset of CUB_ISSUED_LO (Table 3.16). -/
abbrev rCubIssuedLo (t : Nat) : Nat := 0x1000810 + 0x1000 * t

/-- Window offset of CUB_ISSUED_HI (Table 3.16). -/
abbrev rCubIssuedHi (t : Nat) : Nat := 0x1000814 + 0x1000 * t

/-- Window offset of TIL_LS_STATUS (Table 4.9). -/
abbrev rTilLsStatus (t : Nat) : Nat := 0x1000100 + 0x1000 * t

/-- Window offset of TIL_TS_CONFLICT (Table 4.9). -/
abbrev rTilTsConflict (t : Nat) : Nat := 0x1000104 + 0x1000 * t

/-- Window offset of TIL_TS_CORR (Table 4.9). -/
abbrev rTilTsCorr (t : Nat) : Nat := 0x1000108 + 0x1000 * t

/-- Window offset of VEC_NAN_GEN (Table 4.10). -/
abbrev rVecNanGen (t : Nat) : Nat := 0x1000900 + 0x1000 * t

/-- Window offset of VEC_OVF (Table 4.10). -/
abbrev rVecOvf (t : Nat) : Nat := 0x1000904 + 0x1000 * t

/-- Window offset of VEC_UFL (Table 4.10). -/
abbrev rVecUfl (t : Nat) : Nat := 0x1000908 + 0x1000 * t

/-- Window offset of VEC_DEP_STALLS (Table 4.10). -/
abbrev rVecDepStalls (t : Nat) : Nat := 0x100090c + 0x1000 * t

/-- Window offset of VEC_ISSUED_LO (Table 4.10). -/
abbrev rVecIssuedLo (t : Nat) : Nat := 0x1000910 + 0x1000 * t

/-- Window offset of VEC_ISSUED_HI (Table 4.10). -/
abbrev rVecIssuedHi (t : Nat) : Nat := 0x1000914 + 0x1000 * t

/-- Window offset of VEC_CVT_NONFIN (Table 4.10). -/
abbrev rVecCvtNonfin (t : Nat) : Nat := 0x1000918 + 0x1000 * t

/-- Window offset of TIL_CVTn_SPMETA (Table 5.6). -/
abbrev rTilCvtSpmeta (t n : Nat) : Nat := 0x100041c + 0x1000 * t + 0x40 * n

/-- Window offset of TIL_CVTn_SPPITCH (Table 5.7). -/
abbrev rTilCvtSppitch (t n : Nat) : Nat := 0x1000420 + 0x1000 * t + 0x40 * n

/-- Window offset of TIL_ZCTL (Table 5.8). -/
abbrev rTilZctl (t : Nat) : Nat := 0x1000200 + 0x1000 * t

/-- Window offset of TIL_ZBASE_LO (Table 5.9). -/
abbrev rTilZbaseLo (t : Nat) : Nat := 0x1000204 + 0x1000 * t

/-- Window offset of TIL_ZBASE_HI (Table 5.9). -/
abbrev rTilZbaseHi (t : Nat) : Nat := 0x1000208 + 0x1000 * t

/-- Window offset of TIL_ZLEN (Table 5.9). -/
abbrev rTilZlen (t : Nat) : Nat := 0x100020c + 0x1000 * t

/-- Window offset of TIL_ZMAP_TS (Table 5.9). -/
abbrev rTilZmapTs (t : Nat) : Nat := 0x1000210 + 0x1000 * t

/-- Window offset of TIL_ZPRED_TS (Table 5.9). -/
abbrev rTilZpredTs (t : Nat) : Nat := 0x1000214 + 0x1000 * t

/-- Window offset of TIL_ZCORR_TS (Table 5.9). -/
abbrev rTilZcorrTs (t : Nat) : Nat := 0x1000218 + 0x1000 * t

/-- Window offset of TIL_ZCORR_CAP (Table 5.9). -/
abbrev rTilZcorrCap (t : Nat) : Nat := 0x100021c + 0x1000 * t

/-- Window offset of TIL_ZCORR_FILL (Table 5.9). -/
abbrev rTilZcorrFill (t : Nat) : Nat := 0x1000220 + 0x1000 * t

/-- Window offset of TIL_ZMISS (Table 5.9). -/
abbrev rTilZmiss (t : Nat) : Nat := 0x1000224 + 0x1000 * t

/-- Window offset of TIL_ZEXTRA (Table 5.9). -/
abbrev rTilZextra (t : Nat) : Nat := 0x1000228 + 0x1000 * t

/-- Window offset of TIL_OVERFULL_GROUPS (Table 5.9). -/
abbrev rTilOverfullGroups (t : Nat) : Nat := 0x1000230 + 0x1000 * t

/-- Window offset of TIL_BAD_INDEX (Table 5.9). -/
abbrev rTilBadIndex (t : Nat) : Nat := 0x1000234 + 0x1000 * t

/-- Window offset of TIL_MERGE_UNSORTED (Table 5.9). -/
abbrev rTilMergeUnsorted (t : Nat) : Nat := 0x1000238 + 0x1000 * t

/-- Window offset of HBM_CTL (Table 6.6). -/
abbrev rHbmCtl (k : Nat) : Nat := 0x104000 + 0x10000 * (k / 2) + 0x1000 * (k % 2)

/-- Window offset of HBM_STATUS (Table 6.6). -/
abbrev rHbmStatus (k : Nat) : Nat := 0x104004 + 0x10000 * (k / 2) + 0x1000 * (k % 2)

/-- Window offset of HBM_CORR (Table 6.6). -/
abbrev rHbmCorr (k : Nat) : Nat := 0x104008 + 0x10000 * (k / 2) + 0x1000 * (k % 2)

/-- Window offset of HBM_UNCORR (Table 6.6). -/
abbrev rHbmUncorr (k : Nat) : Nat := 0x10400c + 0x10000 * (k / 2) + 0x1000 * (k % 2)

/-- Window offset of HBM_CORR_ADDR_LO (Table 6.6). -/
abbrev rHbmCorrAddrLo (k : Nat) : Nat := 0x104010 + 0x10000 * (k / 2) + 0x1000 * (k % 2)

/-- Window offset of HBM_CORR_ADDR_HI (Table 6.6). -/
abbrev rHbmCorrAddrHi (k : Nat) : Nat := 0x104014 + 0x10000 * (k / 2) + 0x1000 * (k % 2)

/-- Window offset of HBM_UNCORR_ADDR_LO (Table 6.6). -/
abbrev rHbmUncorrAddrLo (k : Nat) : Nat := 0x104018 + 0x10000 * (k / 2) + 0x1000 * (k % 2)

/-- Window offset of HBM_UNCORR_ADDR_HI (Table 6.6). -/
abbrev rHbmUncorrAddrHi (k : Nat) : Nat := 0x10401c + 0x10000 * (k / 2) + 0x1000 * (k % 2)

/-- Window offset of HBM_SCRUB_PASSES (Table 6.6). -/
abbrev rHbmScrubPasses (k : Nat) : Nat := 0x104020 + 0x10000 * (k / 2) + 0x1000 * (k % 2)

/-- Window offset of HBM_SPARES (Table 6.6). -/
abbrev rHbmSpares (k : Nat) : Nat := 0x104024 + 0x10000 * (k / 2) + 0x1000 * (k % 2)

/-- Window offset of HBM_GLAZE_PARTIAL_BAD (Table 6.6). -/
abbrev rHbmGlazePartialBad (k : Nat) : Nat := 0x104028 + 0x10000 * (k / 2) + 0x1000 * (k % 2)

/-- Window offset of HBM_DECODE_ERR (Table 6.6). -/
abbrev rHbmDecodeErr (k : Nat) : Nat := 0x10402c + 0x10000 * (k / 2) + 0x1000 * (k % 2)

/-- Window offset of HBM_TEMP (Table 6.6). -/
abbrev rHbmTemp (k : Nat) : Nat := 0x104030 + 0x10000 * (k / 2) + 0x1000 * (k % 2)

/-- Window offset of SHF_ATOMWINn_BASE (Table 6.7). -/
abbrev rShfAtomwinBase (d n : Nat) : Nat := 0x100000 + 0x10000 * d + 0x8 * n

/-- Window offset of SHF_ATOMWINn_LEN (Table 6.7). -/
abbrev rShfAtomwinLen (d n : Nat) : Nat := 0x100004 + 0x10000 * d + 0x8 * n

/-- Window offset of SHF_CORR (Table 6.7). -/
abbrev rShfCorr (d : Nat) : Nat := 0x100020 + 0x10000 * d

/-- Window offset of SHF_UNCORR (Table 6.7). -/
abbrev rShfUncorr (d : Nat) : Nat := 0x100024 + 0x10000 * d

/-- Window offset of SHF_ATOM_REJECT (Table 6.7). -/
abbrev rShfAtomReject (d : Nat) : Nat := 0x100028 + 0x10000 * d

/-- Window offset of SHF_ATOM_SAT (Table 6.7). -/
abbrev rShfAtomSat (d : Nat) : Nat := 0x10002c + 0x10000 * d

/-- Window offset of SHF_GLAZE_PARTIAL_BAD (Table 6.7). -/
abbrev rShfGlazePartialBad (d : Nat) : Nat := 0x100030 + 0x10000 * d

/-- Window offset of MMU_CTL (Table 7.11). -/
abbrev rMmuCtl : Nat := 0x7000

/-- Window offset of MMU_ROOT_LO (Table 7.11). -/
abbrev rMmuRootLo : Nat := 0x7004

/-- Window offset of MMU_ROOT_HI (Table 7.11). -/
abbrev rMmuRootHi : Nat := 0x7008

/-- Window offset of MMU_STATUS (Table 7.11). -/
abbrev rMmuStatus : Nat := 0x700c

/-- Window offset of MMU_FAULTS (Table 7.11). -/
abbrev rMmuFaults : Nat := 0x7010

/-- Window offset of MMU_TLB_MISS (Table 7.11). -/
abbrev rMmuTlbMiss : Nat := 0x7014

/-- Window offset of MMU_WALKS (Table 7.11). -/
abbrev rMmuWalks : Nat := 0x7018

/-- Window offset of MMU_FAULTQ_FULL (Table 7.11). -/
abbrev rMmuFaultqFull : Nat := 0x701c

/-- Window offset of MMU_FAULT_EXPIRED (Table 7.11). -/
abbrev rMmuFaultExpired : Nat := 0x7020

/-- Window offset of DMA_STATUS (Table 7.12). -/
abbrev rDmaStatus (d : Nat) : Nat := 0x103000 + 0x10000 * d

/-- Window offset of DMA_BLOCKS_LO (Table 7.12). -/
abbrev rDmaBlocksLo (d : Nat) : Nat := 0x103004 + 0x10000 * d

/-- Window offset of DMA_BLOCKS_HI (Table 7.12). -/
abbrev rDmaBlocksHi (d : Nat) : Nat := 0x103008 + 0x10000 * d

/-- Window offset of DMA_PREEMPTS (Table 7.12). -/
abbrev rDmaPreempts (d : Nat) : Nat := 0x10300c + 0x10000 * d

/-- Window offset of DMA_PARKED (Table 7.12). -/
abbrev rDmaParked (d : Nat) : Nat := 0x103010 + 0x10000 * d

/-- Window offset of TIL_CTX_STATUS (Table 7.13). -/
abbrev rTilCtxStatus (t : Nat) : Nat := 0x1000300 + 0x1000 * t

/-- Window offset of TIL_CTX_SAVES (Table 7.13). -/
abbrev rTilCtxSaves (t : Nat) : Nat := 0x1000304 + 0x1000 * t

/-- Window offset of WHL_STATUS (Table 8.12). -/
abbrev rWhlStatus (d : Nat) : Nat := 0x102000 + 0x10000 * d

/-- Window offset of WHL_PROG_LAYER (Table 8.12). -/
abbrev rWhlProgLayer (d : Nat) : Nat := 0x102004 + 0x10000 * d

/-- Window offset of WHL_PROG_ENTRY (Table 8.12). -/
abbrev rWhlProgEntry (d : Nat) : Nat := 0x102008 + 0x10000 * d

/-- Window offset of WHL_PAIRS (Table 8.12). -/
abbrev rWhlPairs (d : Nat) : Nat := 0x10200c + 0x10000 * d

/-- Window offset of WHL_DROPS (Table 8.12). -/
abbrev rWhlDrops (d : Nat) : Nat := 0x102010 + 0x10000 * d

/-- Window offset of WHL_SPILLS (Table 8.12). -/
abbrev rWhlSpills (d : Nat) : Nat := 0x102014 + 0x10000 * d

/-- Window offset of WHL_BULGED (Table 8.12). -/
abbrev rWhlBulged (d : Nat) : Nat := 0x102018 + 0x10000 * d

/-- Window offset of WHL_TOKEN_SKIPS (Table 8.12). -/
abbrev rWhlTokenSkips (d : Nat) : Nat := 0x10201c + 0x10000 * d

/-- Window offset of WHL_LAYER_SKIPS (Table 8.12). -/
abbrev rWhlLayerSkips (d : Nat) : Nat := 0x102020 + 0x10000 * d

/-- Window offset of WHL_TIES (Table 8.12). -/
abbrev rWhlTies (d : Nat) : Nat := 0x102024 + 0x10000 * d

/-- Window offset of WHL_CHOICE_NONFIN (Table 8.12). -/
abbrev rWhlChoiceNonfin (d : Nat) : Nat := 0x102028 + 0x10000 * d

/-- Window offset of WHL_BAD_TABLE (Table 8.12). -/
abbrev rWhlBadTable (d : Nat) : Nat := 0x10202c + 0x10000 * d

/-- Window offset of WHL_CMB_FLUSH (Table 8.12). -/
abbrev rWhlCmbFlush (d : Nat) : Nat := 0x102030 + 0x10000 * d

/-- Window offset of WHL_CMB_NONFIN (Table 8.12). -/
abbrev rWhlCmbNonfin (d : Nat) : Nat := 0x102034 + 0x10000 * d

/-- Window offset of WHL_SORTS (Table 8.12). -/
abbrev rWhlSorts (d : Nat) : Nat := 0x102038 + 0x10000 * d

/-- Window offset of WHL_PARKS (Table 8.12). -/
abbrev rWhlParks (d : Nat) : Nat := 0x10203c + 0x10000 * d

/-- Window offset of XCH_NODE (Table 9.8). -/
abbrev rXchNode : Nat := 0x40000

/-- Window offset of XCH_EPOCH (Table 9.8). -/
abbrev rXchEpoch : Nat := 0x40004

/-- Window offset of XCH_CFG (Table 9.8). -/
abbrev rXchCfg : Nat := 0x40008

/-- Window offset of XCH_ABORT_LAST (Table 9.8). -/
abbrev rXchAbortLast : Nat := 0x4000c

/-- Window offset of XCH_HOPLIMIT_DROPS (Table 9.8). -/
abbrev rXchHoplimitDrops : Nat := 0x40010

/-- Window offset of XCH_NOROUTE_DROPS (Table 9.8). -/
abbrev rXchNorouteDrops : Nat := 0x40014

/-- Window offset of XCH_EPOCH_DROPS (Table 9.8). -/
abbrev rXchEpochDrops : Nat := 0x40018

/-- Window offset of XCH_WIN_REJECT (Table 9.8). -/
abbrev rXchWinReject : Nat := 0x4001c

/-- Window offset of XCH_PORTDOWN_LOST (Table 9.8). -/
abbrev rXchPortdownLost : Nat := 0x40020

/-- Window offset of XCH_HOLD_UNKNOWN (Table 9.8). -/
abbrev rXchHoldUnknown : Nat := 0x40024

/-- Window offset of XCH_ABORTS_SEEN (Table 9.8). -/
abbrev rXchAbortsSeen : Nat := 0x40028

/-- Window offset of XCH_SPAREn (Table 9.8). -/
abbrev rXchSpare (n : Nat) : Nat := 0x40040 + 0x4 * n

/-- Window offset of XCH_PORTn_CTL (Table 9.9). -/
abbrev rXchPortCtl (n : Nat) : Nat := 0x41000 + 0x40 * n

/-- Window offset of XCH_PORTn_STATUS (Table 9.9). -/
abbrev rXchPortStatus (n : Nat) : Nat := 0x41004 + 0x40 * n

/-- Window offset of XCH_PORTn_PEER (Table 9.9). -/
abbrev rXchPortPeer (n : Nat) : Nat := 0x41008 + 0x40 * n

/-- Window offset of XCH_PORTn_LANEMAP (Table 9.9). -/
abbrev rXchPortLanemap (n : Nat) : Nat := 0x4100c + 0x40 * n

/-- Window offset of XCH_PORTn_FEC_CORR (Table 9.9). -/
abbrev rXchPortFecCorr (n : Nat) : Nat := 0x41010 + 0x40 * n

/-- Window offset of XCH_PORTn_FEC_UNCORR (Table 9.9). -/
abbrev rXchPortFecUncorr (n : Nat) : Nat := 0x41014 + 0x40 * n

/-- Window offset of XCH_PORTn_REPLAYS (Table 9.9). -/
abbrev rXchPortReplays (n : Nat) : Nat := 0x41018 + 0x40 * n

/-- Window offset of XCH_PORTn_HCRC_BAD (Table 9.9). -/
abbrev rXchPortHcrcBad (n : Nat) : Nat := 0x4101c + 0x40 * n

/-- Window offset of XCH_PORTn_GLAZE_BAD (Table 9.9). -/
abbrev rXchPortGlazeBad (n : Nat) : Nat := 0x41020 + 0x40 * n

/-- Window offset of XCH_PORTn_BADFLIT (Table 9.9). -/
abbrev rXchPortBadflit (n : Nat) : Nat := 0x41024 + 0x40 * n

/-- Window offset of XCH_PORTn_PARKFULL (Table 9.9). -/
abbrev rXchPortParkfull (n : Nat) : Nat := 0x41028 + 0x40 * n

/-- Window offset of XCH_PORTn_SPARES (Table 9.9). -/
abbrev rXchPortSpares (n : Nat) : Nat := 0x4102c + 0x40 * n

/-- Window offset of XCH_ROUTEn (Table 9.10). -/
abbrev rXchRoute (n : Nat) : Nat := 0x50000 + 0x4 * n

/-- Window offset of PAL_ENTRYn_PEER (Table 9.11). -/
abbrev rPalEntryPeer (n : Nat) : Nat := 0xb000 + 0x20 * n

/-- Window offset of PAL_ENTRYn_SEQ (Table 9.11). -/
abbrev rPalEntrySeq (n : Nat) : Nat := 0xb004 + 0x20 * n

/-- Window offset of PAL_ENTRYn_RBASE_LO (Table 9.11). -/
abbrev rPalEntryRbaseLo (n : Nat) : Nat := 0xb008 + 0x20 * n

/-- Window offset of PAL_ENTRYn_RBASE_HI (Table 9.11). -/
abbrev rPalEntryRbaseHi (n : Nat) : Nat := 0xb00c + 0x20 * n

/-- Window offset of PAL_ENTRYn_RLEN (Table 9.11). -/
abbrev rPalEntryRlen (n : Nat) : Nat := 0xb010 + 0x20 * n

/-- Window offset of PAL_ENTRYn_LLEN (Table 9.11). -/
abbrev rPalEntryLlen (n : Nat) : Nat := 0xb014 + 0x20 * n

/-- Window offset of PAL_ENTRYn_LBASE_LO (Table 9.11). -/
abbrev rPalEntryLbaseLo (n : Nat) : Nat := 0xb018 + 0x20 * n

/-- Window offset of PAL_ENTRYn_LBASE_HI (Table 9.11). -/
abbrev rPalEntryLbaseHi (n : Nat) : Nat := 0xb01c + 0x20 * n

/-- Window offset of PAL_COUNT (Table 9.11). -/
abbrev rPalCount : Nat := 0xb800

/-- Window offset of XCH_COLL_STATUS (Table 10.13). -/
abbrev rXchCollStatus : Nat := 0x42000

/-- Window offset of XCH_GROUP_BASE_LO (Table 10.13). -/
abbrev rXchGroupBaseLo : Nat := 0x42004

/-- Window offset of XCH_GROUP_BASE_HI (Table 10.13). -/
abbrev rXchGroupBaseHi : Nat := 0x42008

/-- Window offset of XCH_DIGEST_BASE_LO (Table 10.13). -/
abbrev rXchDigestBaseLo : Nat := 0x4200c

/-- Window offset of XCH_DIGEST_BASE_HI (Table 10.13). -/
abbrev rXchDigestBaseHi : Nat := 0x42010

/-- Window offset of XCH_DIGEST_HEAD (Table 10.13). -/
abbrev rXchDigestHead : Nat := 0x42014

/-- Window offset of XCH_GEN (Table 10.13). -/
abbrev rXchGen : Nat := 0x42018

/-- Window offset of XCH_VERDICT (Table 10.13). -/
abbrev rXchVerdict : Nat := 0x4201c

/-- Window offset of XCH_NONFIN_ENTRY (Table 10.13). -/
abbrev rXchNonfinEntry : Nat := 0x42020

/-- Window offset of XCH_SLACK_LO (Table 10.13). -/
abbrev rXchSlackLo : Nat := 0x42024

/-- Window offset of XCH_SLACK_HI (Table 10.13). -/
abbrev rXchSlackHi : Nat := 0x42028

/-- Window offset of XCH_TIMEOUTS (Table 10.13). -/
abbrev rXchTimeouts : Nat := 0x4202c

/-- Window offset of XCH_RED_FLUSH (Table 10.13). -/
abbrev rXchRedFlush : Nat := 0x42030

/-- Window offset of XCH_RED_SAT (Table 10.13). -/
abbrev rXchRedSat : Nat := 0x42034

/-- Window offset of XCH_RED_NONFIN (Table 10.13). -/
abbrev rXchRedNonfin : Nat := 0x42038

/-- Window offset of XCH_STALE_DROPS (Table 10.13). -/
abbrev rXchStaleDrops : Nat := 0x4203c

/-- Window offset of XCH_BARRIER_REJECT (Table 10.13). -/
abbrev rXchBarrierReject : Nat := 0x42040

/-- Window offset of UPD_STATUS (Table 11.5). -/
abbrev rUpdStatus : Nat := 0x10000

/-- Window offset of UPD_STEP_LO (Table 11.5). -/
abbrev rUpdStepLo : Nat := 0x10004

/-- Window offset of UPD_STEP_HI (Table 11.5). -/
abbrev rUpdStepHi : Nat := 0x10008

/-- Window offset of UPD_SEED_LO (Table 11.5). -/
abbrev rUpdSeedLo : Nat := 0x1000c

/-- Window offset of UPD_SEED_HI (Table 11.5). -/
abbrev rUpdSeedHi : Nat := 0x10010

/-- Window offset of UPD_NORM_CFG (Table 11.5). -/
abbrev rUpdNormCfg : Nat := 0x10014

/-- Window offset of UPD_NORM (Table 11.5). -/
abbrev rUpdNorm : Nat := 0x10018

/-- Window offset of UPD_NORM_MEAN (Table 11.5). -/
abbrev rUpdNormMean : Nat := 0x1001c

/-- Window offset of UPD_SPIKE_MULT (Table 11.5). -/
abbrev rUpdSpikeMult : Nat := 0x10020

/-- Window offset of UPD_SPIKE_CTL (Table 11.5). -/
abbrev rUpdSpikeCtl : Nat := 0x10024

/-- Window offset of UPD_SPIKE_SEEN (Table 11.5). -/
abbrev rUpdSpikeSeen : Nat := 0x10028

/-- Window offset of UPD_FROZEN_SKIPS (Table 11.5). -/
abbrev rUpdFrozenSkips : Nat := 0x10040

/-- Window offset of UPD_STARVED_SKIPS (Table 11.5). -/
abbrev rUpdStarvedSkips : Nat := 0x10044

/-- Window offset of UPD_DUP_SKIPS (Table 11.5). -/
abbrev rUpdDupSkips : Nat := 0x10048

/-- Window offset of UPD_NOTCOMMIT_SKIPS (Table 11.5). -/
abbrev rUpdNotcommitSkips : Nat := 0x1004c

/-- Window offset of UPD_WHITEN_FALLBACK (Table 11.5). -/
abbrev rUpdWhitenFallback : Nat := 0x10050

/-- Window offset of UPD_EPS_RAISED (Table 11.5). -/
abbrev rUpdEpsRaised : Nat := 0x10054

/-- Window offset of UPD_TRIM_SAT (Table 11.5). -/
abbrev rUpdTrimSat : Nat := 0x10058

/-- Window offset of UPD_MASTER_SAT (Table 11.5). -/
abbrev rUpdMasterSat : Nat := 0x1005c

/-- Window offset of UPD_NORM_FLUSH (Table 11.5). -/
abbrev rUpdNormFlush : Nat := 0x10060

/-- Window offset of UPD_SPIKES (Table 11.5). -/
abbrev rUpdSpikes : Nat := 0x10064

/-- Window offset of UPD_VIEW_OVF (Table 11.5). -/
abbrev rUpdViewOvf : Nat := 0x10068

/-- Window offset of UPD_VIEW_FLUSH (Table 11.5). -/
abbrev rUpdViewFlush : Nat := 0x1006c

/-- Window offset of UPD_MASTER_NONFIN (Table 11.5). -/
abbrev rUpdMasterNonfin : Nat := 0x10070

/-- Window offset of UPD_GRPn_CTL (Table 11.6). -/
abbrev rUpdGrpCtl (n : Nat) : Nat := 0x11000 + 0x20 * n

/-- Window offset of UPD_GRPn_LAMBDA (Table 11.6). -/
abbrev rUpdGrpLambda (n : Nat) : Nat := 0x11004 + 0x20 * n

/-- Window offset of UPD_GRPn_FLOOR (Table 11.6). -/
abbrev rUpdGrpFloor (n : Nat) : Nat := 0x11008 + 0x20 * n

/-- Window offset of UPD_GRPn_EPS (Table 11.6). -/
abbrev rUpdGrpEps (n : Nat) : Nat := 0x1100c + 0x20 * n

/-- Window offset of UPD_GRPn_TOL (Table 11.6). -/
abbrev rUpdGrpTol (n : Nat) : Nat := 0x11010 + 0x20 * n

/-- Window offset of CONE_GRPn_PEAK (Table 11.7). -/
abbrev rConeGrpPeak (n : Nat) : Nat := 0x20000 + 0x20 * n

/-- Window offset of CONE_GRPn_ETAMIN (Table 11.7). -/
abbrev rConeGrpEtamin (n : Nat) : Nat := 0x20004 + 0x20 * n

/-- Window offset of CONE_GRPn_WARMUP (Table 11.7). -/
abbrev rConeGrpWarmup (n : Nat) : Nat := 0x20008 + 0x20 * n

/-- Window offset of CONE_GRPn_CYCLE (Table 11.7). -/
abbrev rConeGrpCycle (n : Nat) : Nat := 0x2000c + 0x20 * n

/-- Window offset of CONE_GRPn_CTL (Table 11.7). -/
abbrev rConeGrpCtl (n : Nat) : Nat := 0x20010 + 0x20 * n

/-- Window offset of CONE_GRPn_ETA (Table 11.7). -/
abbrev rConeGrpEta (n : Nat) : Nat := 0x20014 + 0x20 * n

/-- Window offset of CONE_STATUS (Table 11.7). -/
abbrev rConeStatus : Nat := 0x20800

/-- Window offset of TIL_BSQ_CTL (Table 12.5). -/
abbrev rTilBsqCtl (t : Nat) : Nat := 0x1000500 + 0x1000 * t

/-- Window offset of TIL_BSQ_STATUS (Table 12.5). -/
abbrev rTilBsqStatus (t : Nat) : Nat := 0x1000504 + 0x1000 * t

/-- Window offset of TIL_BSQ_LBASE_LO (Table 12.5). -/
abbrev rTilBsqLbaseLo (t : Nat) : Nat := 0x1000508 + 0x1000 * t

/-- Window offset of TIL_BSQ_LBASE_HI (Table 12.5). -/
abbrev rTilBsqLbaseHi (t : Nat) : Nat := 0x100050c + 0x1000 * t

/-- Window offset of TIL_BSQ_PBASE_LO (Table 12.5). -/
abbrev rTilBsqPbaseLo (t : Nat) : Nat := 0x1000510 + 0x1000 * t

/-- Window offset of TIL_BSQ_PBASE_HI (Table 12.5). -/
abbrev rTilBsqPbaseHi (t : Nat) : Nat := 0x1000514 + 0x1000 * t

/-- Window offset of TIL_BSQ_LEN (Table 12.5). -/
abbrev rTilBsqLen (t : Nat) : Nat := 0x1000518 + 0x1000 * t

/-- Window offset of TIL_BSQ_MAP_TS (Table 12.5). -/
abbrev rTilBsqMapTs (t : Nat) : Nat := 0x100051c + 0x1000 * t

/-- Window offset of TIL_BSQ_NEXT (Table 12.5). -/
abbrev rTilBsqNext (t : Nat) : Nat := 0x1000520 + 0x1000 * t

/-- Window offset of TIL_BSQ_WFILL (Table 12.5). -/
abbrev rTilBsqWfill (t : Nat) : Nat := 0x1000524 + 0x1000 * t

/-- Window offset of TIL_BSQ_ELIDED (Table 12.5). -/
abbrev rTilBsqElided (t : Nat) : Nat := 0x1000528 + 0x1000 * t

/-- Window offset of TIL_BSQ_ZFILLED (Table 12.5). -/
abbrev rTilBsqZfilled (t : Nat) : Nat := 0x100052c + 0x1000 * t

/-- Window offset of TST_CTL (Table 13.10). -/
abbrev rTstCtl : Nat := 0x9000

/-- Window offset of TST_STATUS (Table 13.10). -/
abbrev rTstStatus : Nat := 0x9004

/-- Window offset of TST_SEED_LO (Table 13.10). -/
abbrev rTstSeedLo : Nat := 0x9008

/-- Window offset of TST_SEED_HI (Table 13.10). -/
abbrev rTstSeedHi : Nat := 0x900c

/-- Window offset of TST_SWEEP_LO (Table 13.10). -/
abbrev rTstSweepLo : Nat := 0x9010

/-- Window offset of TST_SWEEP_HI (Table 13.10). -/
abbrev rTstSweepHi : Nat := 0x9014

/-- Window offset of TST_CLEAN_EPOCH (Table 13.10). -/
abbrev rTstCleanEpoch : Nat := 0x9018

/-- Window offset of TST_CLEAN_STEP_LO (Table 13.10). -/
abbrev rTstCleanStepLo : Nat := 0x901c

/-- Window offset of TST_CLEAN_STEP_HI (Table 13.10). -/
abbrev rTstCleanStepHi : Nat := 0x9020

/-- Window offset of TST_MISMATCHES (Table 13.10). -/
abbrev rTstMismatches : Nat := 0x9024

/-- Window offset of TST_TRANSIENTS (Table 13.10). -/
abbrev rTstTransients : Nat := 0x9028

/-- Window offset of TST_FAULTS (Table 13.10). -/
abbrev rTstFaults : Nat := 0x902c

/-- Window offset of TST_QUAR_COUNT (Table 13.10). -/
abbrev rTstQuarCount : Nat := 0x9030

/-- Window offset of TST_ABSENTn (Table 13.10). -/
abbrev rTstAbsent (n : Nat) : Nat := 0x9040 + 0x4 * n

/-- Window offset of CRZ_HEAD (Table 13.11). -/
abbrev rCrzHead : Nat := 0xa000

/-- Window offset of CRZ_SEQ (Table 13.11). -/
abbrev rCrzSeq : Nat := 0xa004

/-- Window offset of CRZ_QUEUE (Table 13.11). -/
abbrev rCrzQueue : Nat := 0xa008

/-- Window offset of CRZ_DROPPED (Table 13.11). -/
abbrev rCrzDropped : Nat := 0xa00c

/-- Window offset of CRZ_STATUS (Table 13.11). -/
abbrev rCrzStatus : Nat := 0xa010

/-- Window offset of KLN_CTL (Table 14.5). -/
abbrev rKlnCtl : Nat := 0x8000

/-- Window offset of KLN_CAP (Table 14.5). -/
abbrev rKlnCap : Nat := 0x8004

/-- Window offset of KLN_WINDOW (Table 14.5). -/
abbrev rKlnWindow : Nat := 0x8008

/-- Window offset of KLN_FREQ (Table 14.5). -/
abbrev rKlnFreq : Nat := 0x800c

/-- Window offset of KLN_STATUS (Table 14.5). -/
abbrev rKlnStatus : Nat := 0x8010

/-- Window offset of KLN_SETPOINT (Table 14.5). -/
abbrev rKlnSetpoint : Nat := 0x8014

/-- Window offset of KLN_KNOBS (Table 14.5). -/
abbrev rKlnKnobs : Nat := 0x8018

/-- Window offset of KLN_CAP_EFF (Table 14.5). -/
abbrev rKlnCapEff : Nat := 0x801c

/-- Window offset of KLN_PIN (Table 14.5). -/
abbrev rKlnPin : Nat := 0x8020

/-- Window offset of KLN_PAVG (Table 14.5). -/
abbrev rKlnPavg : Nat := 0x8024

/-- Window offset of KLN_VIN (Table 14.5). -/
abbrev rKlnVin : Nat := 0x8028

/-- Window offset of KLN_VIN_MIN (Table 14.5). -/
abbrev rKlnVinMin : Nat := 0x802c

/-- Window offset of KLN_TJ (Table 14.5). -/
abbrev rKlnTj : Nat := 0x8030

/-- Window offset of KLN_POOL (Table 14.5). -/
abbrev rKlnPool : Nat := 0x8034

/-- Window offset of KLN_SHIFT_W (Table 14.5). -/
abbrev rKlnShiftW : Nat := 0x8038

/-- Window offset of KLN_SHIFT_HI (Table 14.5). -/
abbrev rKlnShiftHi : Nat := 0x803c

/-- Window offset of KLN_SHIFT_LO (Table 14.5). -/
abbrev rKlnShiftLo : Nat := 0x8040

/-- Window offset of KLN_SHIFT_MIN (Table 14.5). -/
abbrev rKlnShiftMin : Nat := 0x8044

/-- Window offset of KLN_VIN_WARN (Table 14.5). -/
abbrev rKlnVinWarn : Nat := 0x8060

/-- Window offset of KLN_VIN_DEEP (Table 14.5). -/
abbrev rKlnVinDeep : Nat := 0x8064

/-- Window offset of KLN_THERM_THROTTLES (Table 14.5). -/
abbrev rKlnThermThrottles : Nat := 0x8068

/-- Window offset of KLN_EXCURSIONS (Table 14.5). -/
abbrev rKlnExcursions : Nat := 0x806c

/-- Window offset of KLN_FAST_LIMITS (Table 14.5). -/
abbrev rKlnFastLimits : Nat := 0x8070

/-- Window offset of KLN_SHIFTS (Table 14.5). -/
abbrev rKlnShifts : Nat := 0x8074

/-- Window offset of KLN_DROOP_CFG (Table 14.5). -/
abbrev rKlnDroopCfg : Nat := 0x80f0

/-- Window offset of KLN_DROOPd_EVENTS (Table 14.5). -/
abbrev rKlnDroopEvents (n : Nat) : Nat := 0x8100 + 0x8 * n

/-- Window offset of KLN_DROOPd_CYCLES (Table 14.5). -/
abbrev rKlnDroopCycles (n : Nat) : Nat := 0x8104 + 0x8 * n

/-- Window offset of HIF_ADMINp_CTL (Table 15.11). -/
abbrev rHifAdminCtl (n : Nat) : Nat := 0x1200 + 0x40 * n

/-- Window offset of HIF_ADMINp_CBASE_LO (Table 15.11). -/
abbrev rHifAdminCbaseLo (n : Nat) : Nat := 0x1204 + 0x40 * n

/-- Window offset of HIF_ADMINp_CBASE_HI (Table 15.11). -/
abbrev rHifAdminCbaseHi (n : Nat) : Nat := 0x1208 + 0x40 * n

/-- Window offset of HIF_ADMINp_SBASE_LO (Table 15.11). -/
abbrev rHifAdminSbaseLo (n : Nat) : Nat := 0x120c + 0x40 * n

/-- Window offset of HIF_ADMINp_SBASE_HI (Table 15.11). -/
abbrev rHifAdminSbaseHi (n : Nat) : Nat := 0x1210 + 0x40 * n

/-- Window offset of HIF_ADMINp_HEAD (Table 15.11). -/
abbrev rHifAdminHead (n : Nat) : Nat := 0x1214 + 0x40 * n

/-- Window offset of HIF_CMD_REJECTSp (Table 15.11). -/
abbrev rHifCmdRejects (n : Nat) : Nat := 0x1218 + 0x40 * n

/-- Window offset of HIF_DB_IGNOREDp (Table 15.11). -/
abbrev rHifDbIgnored (n : Nat) : Nat := 0x121c + 0x40 * n

/-- Window offset of STU_JOB (Table 15.11). -/
abbrev rStuJob : Nat := 0x10

/-- Window offset of HIF_ID (Table 16.7). -/
abbrev rHifId (p : Nat) : Nat := 0x1000 + 0x1000 * p

/-- Window offset of HIF_HWSTAT (Table 16.7). -/
abbrev rHifHwstat : Nat := 0x1004

/-- Window offset of HIF_STUDIO_TICK (Table 16.7). -/
abbrev rHifStudioTick : Nat := 0x1008

/-- Window offset of HIF_OWNER (Table 16.7). -/
abbrev rHifOwner : Nat := 0x100c

/-- Window offset of HIF_HEARTBEAT (Table 16.7). -/
abbrev rHifHeartbeat : Nat := 0x1010

/-- Window offset of HIF_HB_AGE (Table 16.7). -/
abbrev rHifHbAge : Nat := 0x1014

/-- Window offset of HIF_HB_LIMIT (Table 16.7). -/
abbrev rHifHbLimit : Nat := 0x1018

/-- Window offset of HIF_TAKEOVERS (Table 16.7). -/
abbrev rHifTakeovers : Nat := 0x101c

/-- Window offset of HIF_ABORT (Table 16.7). -/
abbrev rHifAbort : Nat := 0x1020

/-- Window offset of HIF_STBY_DROPS (Table 16.7). -/
abbrev rHifStbyDrops : Nat := 0x1024

/-- Window offset of HIF_NARROW (Table 16.7). -/
abbrev rHifNarrow : Nat := 0x1028

/-- Window offset of HIF_REPLY_DROPS (Table 16.7). -/
abbrev rHifReplyDrops : Nat := 0x102c

/-- Window offset of HIF_BAR2_BASE_LO (Table 16.7). -/
abbrev rHifBar2BaseLo (p : Nat) : Nat := 0x1030 + 0x1000 * p

/-- Window offset of HIF_BAR2_BASE_HI (Table 16.7). -/
abbrev rHifBar2BaseHi (p : Nat) : Nat := 0x1034 + 0x1000 * p

/-- Window offset of HIF_BAR2_POISON (Table 16.7). -/
abbrev rHifBar2Poison (p : Nat) : Nat := 0x1038 + 0x1000 * p

/-- Window offset of HIF_BAR2_HOLE (Table 16.7). -/
abbrev rHifBar2Hole (p : Nat) : Nat := 0x103c + 0x1000 * p

/-- Window offset of HIF_LINK (Table 16.7). -/
abbrev rHifLink (p : Nat) : Nat := 0x1040 + 0x1000 * p

/-- Window offset of EVC_CLAIM (Table 17.5). -/
abbrev rEvcClaim : Nat := 0x3000

/-- Window offset of EVC_COMPLETE (Table 17.5). -/
abbrev rEvcComplete : Nat := 0x3004

/-- Window offset of EVC_HOLD (Table 17.5). -/
abbrev rEvcHold : Nat := 0x3008

/-- Window offset of EVC_TSTAT (Table 17.5). -/
abbrev rEvcTstat : Nat := 0x300c

/-- Window offset of EVC_PENDi (Table 17.5). -/
abbrev rEvcPend (n : Nat) : Nat := 0x3040 + 0x4 * n

/-- Window offset of EVC_SETi (Table 17.5). -/
abbrev rEvcSet (n : Nat) : Nat := 0x3080 + 0x4 * n

/-- Window offset of EVC_TGTs (Table 17.5). -/
abbrev rEvcTgt (n : Nat) : Nat := 0x3100 + 0x4 * n

/-- Window offset of BOOT_STATUS (Table 18.8). -/
abbrev rBootStatus : Nat := 0x4000

/-- Window offset of BOOT_CAUSE (Table 18.8). -/
abbrev rBootCause : Nat := 0x4004

/-- Window offset of BOOT_POWERON (Table 18.8). -/
abbrev rBootPoweron : Nat := 0x4008

/-- Window offset of BOOT_TIME (Table 18.8). -/
abbrev rBootTime : Nat := 0x400c

/-- Window offset of BOOT_CTL (Table 18.8). -/
abbrev rBootCtl : Nat := 0x4010

/-- Window offset of BOOT_IMG_VERSION (Table 18.8). -/
abbrev rBootImgVersion : Nat := 0x4014

/-- Window offset of BOOT_IMG_SVN (Table 18.8). -/
abbrev rBootImgSvn : Nat := 0x4018

/-- Window offset of BOOT_DORM_DROPS (Table 18.8). -/
abbrev rBootDormDrops : Nat := 0x401c

/-- Window offset of SEC_STATUS (Table 18.9). -/
abbrev rSecStatus : Nat := 0x5000

/-- Window offset of SEC_SERIAL_LO (Table 18.9). -/
abbrev rSecSerialLo : Nat := 0x5008

/-- Window offset of SEC_SERIAL_HI (Table 18.9). -/
abbrev rSecSerialHi : Nat := 0x500c

/-- Window offset of SEC_MEASm_w (Table 18.9). -/
abbrev rSecMeasW (m n : Nat) : Nat := 0x5060 + 0x20 * (m - 1) + 0x4 * n

/-- Window offset of MOD_ALERT (Table 19.10). -/
abbrev rModAlert : Nat := 0x6000

/-- Window offset of MOD_COOLANT (Table 19.10). -/
abbrev rModCoolant : Nat := 0x6004

/-- Window offset of MOD_ADDR (Table 19.10). -/
abbrev rModAddr : Nat := 0x6008

/-- Window offset of MOD_MBX_ERRS (Table 19.10). -/
abbrev rModMbxErrs : Nat := 0x600c

/-- Registers with prefix TIL_ (Table 20.2): TIL_CVTn_FMT, TIL_CVTn_STATUS, TIL_CVTn_RMAX, TIL_CVTn_EMAX, TIL_CVTn_OVF, TIL_CVTn_FLUSH, TIL_CVTn_NONFIN, TIL_UPNT_STATUS, TIL_STATUS, TIL_ACC_FLUSH, TIL_ACC_SAT, TIL_ACC_NONFIN, TIL_GROUP_LIMIT, TIL_GROUP_FORCED, TIL_LS_STATUS, TIL_TS_CONFLICT, TIL_TS_CORR, TIL_CVTn_SPMETA, TIL_CVTn_SPPITCH, TIL_ZCTL, TIL_ZBASE_LO, TIL_ZBASE_HI, TIL_ZLEN, TIL_ZMAP_TS, TIL_ZPRED_TS, TIL_ZCORR_TS, TIL_ZCORR_CAP, TIL_ZCORR_FILL, TIL_ZMISS, TIL_ZEXTRA, TIL_OVERFULL_GROUPS, TIL_BAD_INDEX, TIL_MERGE_UNSORTED, TIL_CTX_STATUS, TIL_CTX_SAVES, TIL_BSQ_CTL, TIL_BSQ_STATUS, TIL_BSQ_LBASE_LO, TIL_BSQ_LBASE_HI, TIL_BSQ_PBASE_LO, TIL_BSQ_PBASE_HI, TIL_BSQ_LEN, TIL_BSQ_MAP_TS, TIL_BSQ_NEXT, TIL_BSQ_WFILL, TIL_BSQ_ELIDED, TIL_BSQ_ZFILLED. -/
def rowsTil : List RegRow := [
  ⟨0x1000400, 4800, 0x1000, 2, 0x40, 0xff0fff37, 0x0, 0x0, 0x0, 0⟩,
  ⟨0x1000404, 4800, 0x1000, 2, 0x40, 0x0, 0x3, 0x0, 0x0, 0⟩,
  ⟨0x1000408, 4800, 0x1000, 2, 0x40, 0x0, 0x0, 0x0, 0x0, 0⟩,
  ⟨0x100040c, 4800, 0x1000, 2, 0x40, 0x0, 0x0, 0x0, 0x0, 0⟩,
  ⟨0x1000410, 4800, 0x1000, 2, 0x40, 0x0, 0x0, 0xffffffff, 0x0, 0⟩,
  ⟨0x1000414, 4800, 0x1000, 2, 0x40, 0x0, 0x0, 0xffffffff, 0x0, 0⟩,
  ⟨0x1000418, 4800, 0x1000, 2, 0x40, 0x0, 0x0, 0xffffffff, 0x0, 0⟩,
  ⟨0x1000480, 4800, 0x1000, 1, 0x0, 0x0, 0x2, 0x0, 0x0, 0⟩,
  ⟨0x1000000, 4800, 0x1000, 1, 0x0, 0x0, 0x1f, 0x0, 0x0, 0⟩,
  ⟨0x1000004, 4800, 0x1000, 1, 0x0, 0x0, 0x0, 0xffffffff, 0x0, 0⟩,
  ⟨0x1000008, 4800, 0x1000, 1, 0x0, 0x0, 0x0, 0xffffffff, 0x0, 0⟩,
  ⟨0x100000c, 4800, 0x1000, 1, 0x0, 0x0, 0x0, 0xffffffff, 0x0, 0⟩,
  ⟨0x1000010, 4800, 0x1000, 1, 0x0, 0xffff, 0x0, 0x0, 0x2000, 0⟩,
  ⟨0x1000014, 4800, 0x1000, 1, 0x0, 0x0, 0x0, 0xffffffff, 0x0, 0⟩,
  ⟨0x1000100, 4800, 0x1000, 1, 0x0, 0x0, 0x7, 0x0, 0x0, 0⟩,
  ⟨0x1000104, 4800, 0x1000, 1, 0x0, 0x0, 0x0, 0xffffffff, 0x0, 0⟩,
  ⟨0x1000108, 4800, 0x1000, 1, 0x0, 0x0, 0x0, 0xffffffff, 0x0, 0⟩,
  ⟨0x100041c, 4800, 0x1000, 2, 0x40, 0x8003ffff, 0x0, 0x0, 0x0, 0⟩,
  ⟨0x1000420, 4800, 0x1000, 2, 0x40, 0xffff, 0x0, 0x0, 0x0, 0⟩,
  ⟨0x1000200, 4800, 0x1000, 1, 0x0, 0x7, 0x8, 0x0, 0x0, 0⟩,
  ⟨0x1000204, 4800, 0x1000, 1, 0x0, 0xffffff00, 0x0, 0x0, 0x0, 1⟩,
  ⟨0x1000208, 4800, 0x1000, 1, 0x0, 0xfffff, 0x0, 0x0, 0x0, 2⟩,
  ⟨0x100020c, 4800, 0x1000, 1, 0x0, 0x1ffff, 0x0, 0x0, 0x0, 0⟩,
  ⟨0x1000210, 4800, 0x1000, 1, 0x0, 0x3ffff, 0x0, 0x0, 0x0, 0⟩,
  ⟨0x1000214, 4800, 0x1000, 1, 0x0, 0x3ffff, 0x0, 0x0, 0x0, 0⟩,
  ⟨0x1000218, 4800, 0x1000, 1, 0x0, 0x3ffff, 0x0, 0x0, 0x0, 0⟩,
  ⟨0x100021c, 4800, 0x1000, 1, 0x0, 0xffff, 0x0, 0x0, 0x0, 0⟩,
  ⟨0x1000220, 4800, 0x1000, 1, 0x0, 0xffff, 0x0, 0x0, 0x0, 0⟩,
  ⟨0x1000224, 4800, 0x1000, 1, 0x0, 0x0, 0x0, 0xffffffff, 0x0, 0⟩,
  ⟨0x1000228, 4800, 0x1000, 1, 0x0, 0x0, 0x0, 0xffffffff, 0x0, 0⟩,
  ⟨0x1000230, 4800, 0x1000, 1, 0x0, 0x0, 0x0, 0xffffffff, 0x0, 0⟩,
  ⟨0x1000234, 4800, 0x1000, 1, 0x0, 0x0, 0x0, 0xffffffff, 0x0, 0⟩,
  ⟨0x1000238, 4800, 0x1000, 1, 0x0, 0x0, 0x0, 0xffffffff, 0x0, 0⟩,
  ⟨0x1000300, 4800, 0x1000, 1, 0x0, 0x0, 0x0, 0x0, 0x0, 0⟩,
  ⟨0x1000304, 4800, 0x1000, 1, 0x0, 0x0, 0x0, 0xffffffff, 0x0, 0⟩,
  ⟨0x1000500, 4800, 0x1000, 1, 0x0, 0x3, 0x0, 0x0, 0x0, 0⟩,
  ⟨0x1000504, 4800, 0x1000, 1, 0x0, 0x0, 0x1, 0x0, 0x0, 0⟩,
  ⟨0x1000508, 4800, 0x1000, 1, 0x0, 0xffffff00, 0x0, 0x0, 0x0, 1⟩,
  ⟨0x100050c, 4800, 0x1000, 1, 0x0, 0xfffff, 0x0, 0x0, 0x0, 2⟩,
  ⟨0x1000510, 4800, 0x1000, 1, 0x0, 0xffffff00, 0x0, 0x0, 0x0, 1⟩,
  ⟨0x1000514, 4800, 0x1000, 1, 0x0, 0xfffff, 0x0, 0x0, 0x0, 2⟩,
  ⟨0x1000518, 4800, 0x1000, 1, 0x0, 0x1ffff, 0x0, 0x0, 0x0, 0⟩,
  ⟨0x100051c, 4800, 0x1000, 1, 0x0, 0x3ffff, 0x0, 0x0, 0x0, 0⟩,
  ⟨0x1000520, 4800, 0x1000, 1, 0x0, 0x1ffff, 0x0, 0x0, 0x0, 0⟩,
  ⟨0x1000524, 4800, 0x1000, 1, 0x0, 0x1ffff, 0x0, 0x0, 0x0, 0⟩,
  ⟨0x1000528, 4800, 0x1000, 1, 0x0, 0x0, 0x0, 0xffffffff, 0x0, 0⟩,
  ⟨0x100052c, 4800, 0x1000, 1, 0x0, 0x0, 0x0, 0xffffffff, 0x0, 0⟩]

/-- Registers with prefix SWT_ (Table 20.2): SWT_BASE, SWT_SLOTS, SWT_DROPPED. -/
def rowsSwt : List RegRow := [
  ⟨0x101000, 8, 0x10000, 1, 0x0, 0x3ffff00, 0x0, 0x0, 0x0, 0⟩,
  ⟨0x101004, 8, 0x10000, 1, 0x0, 0x1fff, 0x0, 0x0, 0x0, 0⟩,
  ⟨0x101008, 8, 0x10000, 1, 0x0, 0x0, 0x0, 0xffffffff, 0x0, 0⟩]

/-- Registers with prefix CUB_ (Table 20.2): CUB_RAMP_HOLD, CUB_DEP_STALLS, CUB_RAMP_LOST, CUB_ISSUED_LO, CUB_ISSUED_HI. -/
def rowsCub : List RegRow := [
  ⟨0x1000800, 4800, 0x1000, 1, 0x0, 0xffff, 0x0, 0x0, 0x100, 0⟩,
  ⟨0x1000804, 4800, 0x1000, 1, 0x0, 0x0, 0x0, 0xffffffff, 0x0, 0⟩,
  ⟨0x1000808, 4800, 0x1000, 1, 0x0, 0x0, 0x0, 0xffffffff, 0x0, 0⟩,
  ⟨0x1000810, 4800, 0x1000, 1, 0x0, 0x0, 0x0, 0x0, 0x0, 1⟩,
  ⟨0x1000814, 4800, 0x1000, 1, 0x0, 0x0, 0x0, 0x0, 0x0, 2⟩]

/-- Registers with prefix VEC_ (Table 20.2): VEC_NAN_GEN, VEC_OVF, VEC_UFL, VEC_DEP_STALLS, VEC_ISSUED_LO, VEC_ISSUED_HI, VEC_CVT_NONFIN. -/
def rowsVec : List RegRow := [
  ⟨0x1000900, 4800, 0x1000, 1, 0x0, 0x0, 0x0, 0xffffffff, 0x0, 0⟩,
  ⟨0x1000904, 4800, 0x1000, 1, 0x0, 0x0, 0x0, 0xffffffff, 0x0, 0⟩,
  ⟨0x1000908, 4800, 0x1000, 1, 0x0, 0x0, 0x0, 0xffffffff, 0x0, 0⟩,
  ⟨0x100090c, 4800, 0x1000, 1, 0x0, 0x0, 0x0, 0xffffffff, 0x0, 0⟩,
  ⟨0x1000910, 4800, 0x1000, 1, 0x0, 0x0, 0x0, 0x0, 0x0, 1⟩,
  ⟨0x1000914, 4800, 0x1000, 1, 0x0, 0x0, 0x0, 0x0, 0x0, 2⟩,
  ⟨0x1000918, 4800, 0x1000, 1, 0x0, 0x0, 0x0, 0xffffffff, 0x0, 0⟩]

/-- Registers with prefix HBM_ (Table 20.2): HBM_CTL, HBM_STATUS, HBM_CORR, HBM_UNCORR, HBM_CORR_ADDR_LO, HBM_CORR_ADDR_HI, HBM_UNCORR_ADDR_LO, HBM_UNCORR_ADDR_HI, HBM_SCRUB_PASSES, HBM_SPARES, HBM_GLAZE_PARTIAL_BAD, HBM_DECODE_ERR, HBM_TEMP. -/
def rowsHbm : List RegRow := [
  ⟨0x104000, 8, 0x10000, 2, 0x1000, 0xff01, 0x0, 0x0, 0xc01, 0⟩,
  ⟨0x104004, 8, 0x10000, 2, 0x1000, 0x0, 0x6, 0x0, 0x0, 0⟩,
  ⟨0x104008, 8, 0x10000, 2, 0x1000, 0x0, 0x0, 0xffffffff, 0x0, 0⟩,
  ⟨0x10400c, 8, 0x10000, 2, 0x1000, 0x0, 0x0, 0xffffffff, 0x0, 0⟩,
  ⟨0x104010, 8, 0x10000, 2, 0x1000, 0x0, 0x0, 0x0, 0x0, 1⟩,
  ⟨0x104014, 8, 0x10000, 2, 0x1000, 0x0, 0x0, 0x0, 0x0, 2⟩,
  ⟨0x104018, 8, 0x10000, 2, 0x1000, 0x0, 0x0, 0x0, 0x0, 1⟩,
  ⟨0x10401c, 8, 0x10000, 2, 0x1000, 0x0, 0x0, 0x0, 0x0, 2⟩,
  ⟨0x104020, 8, 0x10000, 2, 0x1000, 0x0, 0x0, 0xffffffff, 0x0, 0⟩,
  ⟨0x104024, 8, 0x10000, 2, 0x1000, 0x0, 0x0, 0x0, 0x0, 0⟩,
  ⟨0x104028, 8, 0x10000, 2, 0x1000, 0x0, 0x0, 0xffffffff, 0x0, 0⟩,
  ⟨0x10402c, 8, 0x10000, 2, 0x1000, 0x0, 0x0, 0xffffffff, 0x0, 0⟩,
  ⟨0x104030, 8, 0x10000, 2, 0x1000, 0x0, 0x0, 0x0, 0x0, 0⟩]

/-- Registers with prefix SHF_ (Table 20.2): SHF_ATOMWINn_BASE, SHF_ATOMWINn_LEN, SHF_CORR, SHF_UNCORR, SHF_ATOM_REJECT, SHF_ATOM_SAT, SHF_GLAZE_PARTIAL_BAD. -/
def rowsShf : List RegRow := [
  ⟨0x100000, 8, 0x10000, 4, 0x8, 0x3ffff00, 0x0, 0x0, 0x0, 0⟩,
  ⟨0x100004, 8, 0x10000, 4, 0x8, 0x7ffff, 0x0, 0x0, 0x0, 0⟩,
  ⟨0x100020, 8, 0x10000, 1, 0x0, 0x0, 0x0, 0xffffffff, 0x0, 0⟩,
  ⟨0x100024, 8, 0x10000, 1, 0x0, 0x0, 0x0, 0xffffffff, 0x0, 0⟩,
  ⟨0x100028, 8, 0x10000, 1, 0x0, 0x0, 0x0, 0xffffffff, 0x0, 0⟩,
  ⟨0x10002c, 8, 0x10000, 1, 0x0, 0x0, 0x0, 0xffffffff, 0x0, 0⟩,
  ⟨0x100030, 8, 0x10000, 1, 0x0, 0x0, 0x0, 0xffffffff, 0x0, 0⟩]

/-- Registers with prefix MMU_ (Table 20.2): MMU_CTL, MMU_ROOT_LO, MMU_ROOT_HI, MMU_STATUS, MMU_FAULTS, MMU_TLB_MISS, MMU_WALKS, MMU_FAULTQ_FULL, MMU_FAULT_EXPIRED. -/
def rowsMmu : List RegRow := [
  ⟨0x7000, 1, 0x0, 1, 0x0, 0xffff0001, 0x0, 0x0, 0x3e80000, 0⟩,
  ⟨0x7004, 1, 0x0, 1, 0x0, 0xffff0000, 0x0, 0x0, 0x0, 1⟩,
  ⟨0x7008, 1, 0x0, 1, 0x0, 0xffff, 0x0, 0x0, 0x0, 2⟩,
  ⟨0x700c, 1, 0x0, 1, 0x0, 0x0, 0x0, 0x0, 0x0, 0⟩,
  ⟨0x7010, 1, 0x0, 1, 0x0, 0x0, 0x0, 0xffffffff, 0x0, 0⟩,
  ⟨0x7014, 1, 0x0, 1, 0x0, 0x0, 0x0, 0xffffffff, 0x0, 0⟩,
  ⟨0x7018, 1, 0x0, 1, 0x0, 0x0, 0x0, 0xffffffff, 0x0, 0⟩,
  ⟨0x701c, 1, 0x0, 1, 0x0, 0x0, 0x0, 0xffffffff, 0x0, 0⟩,
  ⟨0x7020, 1, 0x0, 1, 0x0, 0x0, 0x0, 0xffffffff, 0x0, 0⟩]

/-- Registers with prefix DMA_ (Table 20.2): DMA_STATUS, DMA_BLOCKS_LO, DMA_BLOCKS_HI, DMA_PREEMPTS, DMA_PARKED. -/
def rowsDma : List RegRow := [
  ⟨0x103000, 8, 0x10000, 1, 0x0, 0x0, 0x10000, 0x0, 0x0, 0⟩,
  ⟨0x103004, 8, 0x10000, 1, 0x0, 0x0, 0x0, 0x0, 0x0, 1⟩,
  ⟨0x103008, 8, 0x10000, 1, 0x0, 0x0, 0x0, 0x0, 0x0, 2⟩,
  ⟨0x10300c, 8, 0x10000, 1, 0x0, 0x0, 0x0, 0xffffffff, 0x0, 0⟩,
  ⟨0x103010, 8, 0x10000, 1, 0x0, 0x0, 0x0, 0xffffffff, 0x0, 0⟩]

/-- Registers with prefix WHL_ (Table 20.2): WHL_STATUS, WHL_PROG_LAYER, WHL_PROG_ENTRY, WHL_PAIRS, WHL_DROPS, WHL_SPILLS, WHL_BULGED, WHL_TOKEN_SKIPS, WHL_LAYER_SKIPS, WHL_TIES, WHL_CHOICE_NONFIN, WHL_BAD_TABLE, WHL_CMB_FLUSH, WHL_CMB_NONFIN, WHL_SORTS, WHL_PARKS. -/
def rowsWhl : List RegRow := [
  ⟨0x102000, 8, 0x10000, 1, 0x0, 0x0, 0x4, 0x0, 0x0, 0⟩,
  ⟨0x102004, 8, 0x10000, 1, 0x0, 0x0, 0x0, 0x0, 0x0, 0⟩,
  ⟨0x102008, 8, 0x10000, 1, 0x0, 0x0, 0x0, 0x0, 0x0, 0⟩,
  ⟨0x10200c, 8, 0x10000, 1, 0x0, 0x0, 0x0, 0xffffffff, 0x0, 0⟩,
  ⟨0x102010, 8, 0x10000, 1, 0x0, 0x0, 0x0, 0xffffffff, 0x0, 0⟩,
  ⟨0x102014, 8, 0x10000, 1, 0x0, 0x0, 0x0, 0xffffffff, 0x0, 0⟩,
  ⟨0x102018, 8, 0x10000, 1, 0x0, 0x0, 0x0, 0xffffffff, 0x0, 0⟩,
  ⟨0x10201c, 8, 0x10000, 1, 0x0, 0x0, 0x0, 0xffffffff, 0x0, 0⟩,
  ⟨0x102020, 8, 0x10000, 1, 0x0, 0x0, 0x0, 0xffffffff, 0x0, 0⟩,
  ⟨0x102024, 8, 0x10000, 1, 0x0, 0x0, 0x0, 0xffffffff, 0x0, 0⟩,
  ⟨0x102028, 8, 0x10000, 1, 0x0, 0x0, 0x0, 0xffffffff, 0x0, 0⟩,
  ⟨0x10202c, 8, 0x10000, 1, 0x0, 0x0, 0x0, 0xffffffff, 0x0, 0⟩,
  ⟨0x102030, 8, 0x10000, 1, 0x0, 0x0, 0x0, 0xffffffff, 0x0, 0⟩,
  ⟨0x102034, 8, 0x10000, 1, 0x0, 0x0, 0x0, 0xffffffff, 0x0, 0⟩,
  ⟨0x102038, 8, 0x10000, 1, 0x0, 0x0, 0x0, 0xffffffff, 0x0, 0⟩,
  ⟨0x10203c, 8, 0x10000, 1, 0x0, 0x0, 0x0, 0xffffffff, 0x0, 0⟩]

/-- Registers with prefix XCH_ (Table 20.2): XCH_NODE, XCH_EPOCH, XCH_CFG, XCH_ABORT_LAST, XCH_HOPLIMIT_DROPS, XCH_NOROUTE_DROPS, XCH_EPOCH_DROPS, XCH_WIN_REJECT, XCH_PORTDOWN_LOST, XCH_HOLD_UNKNOWN, XCH_ABORTS_SEEN, XCH_SPAREn, XCH_PORTn_CTL, XCH_PORTn_STATUS, XCH_PORTn_PEER, XCH_PORTn_LANEMAP, XCH_PORTn_FEC_CORR, XCH_PORTn_FEC_UNCORR, XCH_PORTn_REPLAYS, XCH_PORTn_HCRC_BAD, XCH_PORTn_GLAZE_BAD, XCH_PORTn_BADFLIT, XCH_PORTn_PARKFULL, XCH_PORTn_SPARES, XCH_ROUTEn, XCH_COLL_STATUS, XCH_GROUP_BASE_LO, XCH_GROUP_BASE_HI, XCH_DIGEST_BASE_LO, XCH_DIGEST_BASE_HI, XCH_DIGEST_HEAD, XCH_GEN, XCH_VERDICT, XCH_NONFIN_ENTRY, XCH_SLACK_LO, XCH_SLACK_HI, XCH_TIMEOUTS, XCH_RED_FLUSH, XCH_RED_SAT, XCH_RED_NONFIN, XCH_STALE_DROPS, XCH_BARRIER_REJECT. -/
def rowsXch : List RegRow := [
  ⟨0x40000, 1, 0x0, 1, 0x0, 0x3fff, 0x0, 0x0, 0x0, 0⟩,
  ⟨0x40004, 1, 0x0, 1, 0x0, 0xffff, 0x0, 0x0, 0x0, 0⟩,
  ⟨0x40008, 1, 0x0, 1, 0x0, 0xfffff000, 0x0, 0x0, 0x10203000, 0⟩,
  ⟨0x4000c, 1, 0x0, 1, 0x0, 0x0, 0x0, 0x0, 0x0, 0⟩,
  ⟨0x40010, 1, 0x0, 1, 0x0, 0x0, 0x0, 0xffffffff, 0x0, 0⟩,
  ⟨0x40014, 1, 0x0, 1, 0x0, 0x0, 0x0, 0xffffffff, 0x0, 0⟩,
  ⟨0x40018, 1, 0x0, 1, 0x0, 0x0, 0x0, 0xffffffff, 0x0, 0⟩,
  ⟨0x4001c, 1, 0x0, 1, 0x0, 0x0, 0x0, 0xffffffff, 0x0, 0⟩,
  ⟨0x40020, 1, 0x0, 1, 0x0, 0x0, 0x0, 0xffffffff, 0x0, 0⟩,
  ⟨0x40024, 1, 0x0, 1, 0x0, 0x0, 0x0, 0xffffffff, 0x0, 0⟩,
  ⟨0x40028, 1, 0x0, 1, 0x0, 0x0, 0x0, 0xffffffff, 0x0, 0⟩,
  ⟨0x40040, 1, 0x0, 16, 0x4, 0x3f, 0x0, 0x0, 0xff0000, 0⟩,
  ⟨0x41000, 1, 0x0, 32, 0x40, 0x1, 0x0, 0x0, 0x0, 0⟩,
  ⟨0x41004, 1, 0x0, 32, 0x40, 0x0, 0x300, 0x0, 0x0, 0⟩,
  ⟨0x41008, 1, 0x0, 32, 0x40, 0x0, 0x0, 0x0, 0x0, 0⟩,
  ⟨0x4100c, 1, 0x0, 32, 0x40, 0x0, 0x0, 0x0, 0x0, 0⟩,
  ⟨0x41010, 1, 0x0, 32, 0x40, 0x0, 0x0, 0xffffffff, 0x0, 0⟩,
  ⟨0x41014, 1, 0x0, 32, 0x40, 0x0, 0x0, 0xffffffff, 0x0, 0⟩,
  ⟨0x41018, 1, 0x0, 32, 0x40, 0x0, 0x0, 0xffffffff, 0x0, 0⟩,
  ⟨0x4101c, 1, 0x0, 32, 0x40, 0x0, 0x0, 0xffffffff, 0x0, 0⟩,
  ⟨0x41020, 1, 0x0, 32, 0x40, 0x0, 0x0, 0xffffffff, 0x0, 0⟩,
  ⟨0x41024, 1, 0x0, 32, 0x40, 0x0, 0x0, 0xffffffff, 0x0, 0⟩,
  ⟨0x41028, 1, 0x0, 32, 0x40, 0x0, 0x0, 0xffffffff, 0x0, 0⟩,
  ⟨0x4102c, 1, 0x0, 32, 0x40, 0x0, 0x0, 0xffffffff, 0x0, 0⟩,
  ⟨0x50000, 1, 0x0, 16384, 0x4, 0x80001f1f, 0x0, 0x0, 0x0, 0⟩,
  ⟨0x42000, 1, 0x0, 1, 0x0, 0x0, 0x0, 0x0, 0x0, 0⟩,
  ⟨0x42004, 1, 0x0, 1, 0x0, 0xffffff00, 0x0, 0x0, 0x0, 1⟩,
  ⟨0x42008, 1, 0x0, 1, 0x0, 0xfffff, 0x0, 0x0, 0x0, 2⟩,
  ⟨0x4200c, 1, 0x0, 1, 0x0, 0xffffff00, 0x0, 0x0, 0x0, 1⟩,
  ⟨0x42010, 1, 0x0, 1, 0x0, 0xfffff, 0x0, 0x0, 0x0, 2⟩,
  ⟨0x42014, 1, 0x0, 1, 0x0, 0x0, 0x0, 0x0, 0x0, 0⟩,
  ⟨0x42018, 1, 0x0, 1, 0x0, 0x0, 0x0, 0x0, 0x0, 0⟩,
  ⟨0x4201c, 1, 0x0, 1, 0x0, 0x0, 0x0, 0x0, 0x0, 0⟩,
  ⟨0x42020, 1, 0x0, 1, 0x0, 0x0, 0x0, 0x0, 0x0, 0⟩,
  ⟨0x42024, 1, 0x0, 1, 0x0, 0x0, 0x0, 0x0, 0x0, 1⟩,
  ⟨0x42028, 1, 0x0, 1, 0x0, 0x0, 0x0, 0x0, 0x0, 2⟩,
  ⟨0x4202c, 1, 0x0, 1, 0x0, 0x0, 0x0, 0xffffffff, 0x0, 0⟩,
  ⟨0x42030, 1, 0x0, 1, 0x0, 0x0, 0x0, 0xffffffff, 0x0, 0⟩,
  ⟨0x42034, 1, 0x0, 1, 0x0, 0x0, 0x0, 0xffffffff, 0x0, 0⟩,
  ⟨0x42038, 1, 0x0, 1, 0x0, 0x0, 0x0, 0xffffffff, 0x0, 0⟩,
  ⟨0x4203c, 1, 0x0, 1, 0x0, 0x0, 0x0, 0xffffffff, 0x0, 0⟩,
  ⟨0x42040, 1, 0x0, 1, 0x0, 0x0, 0x0, 0xffffffff, 0x0, 0⟩]

/-- Registers with prefix PAL_ (Table 20.2): PAL_ENTRYn_PEER, PAL_ENTRYn_SEQ, PAL_ENTRYn_RBASE_LO, PAL_ENTRYn_RBASE_HI, PAL_ENTRYn_RLEN, PAL_ENTRYn_LLEN, PAL_ENTRYn_LBASE_LO, PAL_ENTRYn_LBASE_HI, PAL_COUNT. -/
def rowsPal : List RegRow := [
  ⟨0xb000, 1, 0x0, 64, 0x20, 0x0, 0x0, 0x0, 0x0, 0⟩,
  ⟨0xb004, 1, 0x0, 64, 0x20, 0x0, 0x0, 0x0, 0x0, 0⟩,
  ⟨0xb008, 1, 0x0, 64, 0x20, 0x0, 0x0, 0x0, 0x0, 1⟩,
  ⟨0xb00c, 1, 0x0, 64, 0x20, 0x0, 0x0, 0x0, 0x0, 2⟩,
  ⟨0xb010, 1, 0x0, 64, 0x20, 0x0, 0x0, 0x0, 0x0, 0⟩,
  ⟨0xb014, 1, 0x0, 64, 0x20, 0x0, 0x0, 0x0, 0x0, 0⟩,
  ⟨0xb018, 1, 0x0, 64, 0x20, 0x0, 0x0, 0x0, 0x0, 1⟩,
  ⟨0xb01c, 1, 0x0, 64, 0x20, 0x0, 0x0, 0x0, 0x0, 2⟩,
  ⟨0xb800, 1, 0x0, 1, 0x0, 0x0, 0x0, 0x0, 0x0, 0⟩]

/-- Registers with prefix UPD_ (Table 20.2): UPD_STATUS, UPD_STEP_LO, UPD_STEP_HI, UPD_SEED_LO, UPD_SEED_HI, UPD_NORM_CFG, UPD_NORM, UPD_NORM_MEAN, UPD_SPIKE_MULT, UPD_SPIKE_CTL, UPD_SPIKE_SEEN, UPD_FROZEN_SKIPS, UPD_STARVED_SKIPS, UPD_DUP_SKIPS, UPD_NOTCOMMIT_SKIPS, UPD_WHITEN_FALLBACK, UPD_EPS_RAISED, UPD_TRIM_SAT, UPD_MASTER_SAT, UPD_NORM_FLUSH, UPD_SPIKES, UPD_VIEW_OVF, UPD_VIEW_FLUSH, UPD_MASTER_NONFIN, UPD_GRPn_CTL, UPD_GRPn_LAMBDA, UPD_GRPn_FLOOR, UPD_GRPn_EPS, UPD_GRPn_TOL. -/
def rowsUpd : List RegRow := [
  ⟨0x10000, 1, 0x0, 1, 0x0, 0x0, 0x1a, 0x0, 0x0, 0⟩,
  ⟨0x10004, 1, 0x0, 1, 0x0, 0xffffffff, 0x0, 0x0, 0x0, 1⟩,
  ⟨0x10008, 1, 0x0, 1, 0x0, 0xffffffff, 0x0, 0x0, 0x0, 2⟩,
  ⟨0x1000c, 1, 0x0, 1, 0x0, 0xffffffff, 0x0, 0x0, 0x0, 1⟩,
  ⟨0x10010, 1, 0x0, 1, 0x0, 0xffffffff, 0x0, 0x0, 0x0, 2⟩,
  ⟨0x10014, 1, 0x0, 1, 0x0, 0xfff003f, 0x0, 0x0, 0x2e, 0⟩,
  ⟨0x10018, 1, 0x0, 1, 0x0, 0x0, 0x0, 0x0, 0x0, 0⟩,
  ⟨0x1001c, 1, 0x0, 1, 0x0, 0xffffffff, 0x0, 0x0, 0x0, 0⟩,
  ⟨0x10020, 1, 0x0, 1, 0x0, 0xffffffff, 0x0, 0x0, 0x40400000, 0⟩,
  ⟨0x10024, 1, 0x0, 1, 0x0, 0x800fffff, 0x0, 0x0, 0x50064, 0⟩,
  ⟨0x10028, 1, 0x0, 1, 0x0, 0xffffffff, 0x0, 0x0, 0x0, 0⟩,
  ⟨0x10040, 1, 0x0, 1, 0x0, 0x0, 0x0, 0xffffffff, 0x0, 0⟩,
  ⟨0x10044, 1, 0x0, 1, 0x0, 0x0, 0x0, 0xffffffff, 0x0, 0⟩,
  ⟨0x10048, 1, 0x0, 1, 0x0, 0x0, 0x0, 0xffffffff, 0x0, 0⟩,
  ⟨0x1004c, 1, 0x0, 1, 0x0, 0x0, 0x0, 0xffffffff, 0x0, 0⟩,
  ⟨0x10050, 1, 0x0, 1, 0x0, 0x0, 0x0, 0xffffffff, 0x0, 0⟩,
  ⟨0x10054, 1, 0x0, 1, 0x0, 0x0, 0x0, 0xffffffff, 0x0, 0⟩,
  ⟨0x10058, 1, 0x0, 1, 0x0, 0x0, 0x0, 0xffffffff, 0x0, 0⟩,
  ⟨0x1005c, 1, 0x0, 1, 0x0, 0x0, 0x0, 0xffffffff, 0x0, 0⟩,
  ⟨0x10060, 1, 0x0, 1, 0x0, 0x0, 0x0, 0xffffffff, 0x0, 0⟩,
  ⟨0x10064, 1, 0x0, 1, 0x0, 0x0, 0x0, 0xffffffff, 0x0, 0⟩,
  ⟨0x10068, 1, 0x0, 1, 0x0, 0x0, 0x0, 0xffffffff, 0x0, 0⟩,
  ⟨0x1006c, 1, 0x0, 1, 0x0, 0x0, 0x0, 0xffffffff, 0x0, 0⟩,
  ⟨0x10070, 1, 0x0, 1, 0x0, 0x0, 0x0, 0xffffffff, 0x0, 0⟩,
  ⟨0x11000, 1, 0x0, 64, 0x20, 0xeff8ffff, 0x0, 0x0, 0x8a00001, 0⟩,
  ⟨0x11004, 1, 0x0, 64, 0x20, 0xffffffff, 0x0, 0x0, 0x0, 0⟩,
  ⟨0x11008, 1, 0x0, 64, 0x20, 0xffffffff, 0x0, 0x0, 0x3a800000, 0⟩,
  ⟨0x1100c, 1, 0x0, 64, 0x20, 0xffffffff, 0x0, 0x0, 0x0, 0⟩,
  ⟨0x11010, 1, 0x0, 64, 0x20, 0xffffffff, 0x0, 0x0, 0x3a800000, 0⟩]

/-- Registers with prefix CONE_ (Table 20.2): CONE_GRPn_PEAK, CONE_GRPn_ETAMIN, CONE_GRPn_WARMUP, CONE_GRPn_CYCLE, CONE_GRPn_CTL, CONE_GRPn_ETA, CONE_STATUS. -/
def rowsCone : List RegRow := [
  ⟨0x20000, 1, 0x0, 64, 0x20, 0xffffffff, 0x0, 0x0, 0x0, 0⟩,
  ⟨0x20004, 1, 0x0, 64, 0x20, 0xffffffff, 0x0, 0x0, 0x0, 0⟩,
  ⟨0x20008, 1, 0x0, 64, 0x20, 0xffffffff, 0x0, 0x0, 0x0, 0⟩,
  ⟨0x2000c, 1, 0x0, 64, 0x20, 0xffffffff, 0x0, 0x0, 0x1, 0⟩,
  ⟨0x20010, 1, 0x0, 64, 0x20, 0x3ff, 0x0, 0x0, 0x0, 0⟩,
  ⟨0x20014, 1, 0x0, 64, 0x20, 0x0, 0x0, 0x0, 0x0, 0⟩,
  ⟨0x20800, 1, 0x0, 1, 0x0, 0x0, 0x2, 0x0, 0x0, 0⟩]

/-- Registers with prefix TST_ (Table 20.2): TST_CTL, TST_STATUS, TST_SEED_LO, TST_SEED_HI, TST_SWEEP_LO, TST_SWEEP_HI, TST_CLEAN_EPOCH, TST_CLEAN_STEP_LO, TST_CLEAN_STEP_HI, TST_MISMATCHES, TST_TRANSIENTS, TST_FAULTS, TST_QUAR_COUNT, TST_ABSENTn. -/
def rowsTst : List RegRow := [
  ⟨0x9000, 1, 0x0, 1, 0x0, 0x800001ff, 0x0, 0x0, 0x80000014, 0⟩,
  ⟨0x9004, 1, 0x0, 1, 0x0, 0x0, 0x0, 0x0, 0x0, 0⟩,
  ⟨0x9008, 1, 0x0, 1, 0x0, 0xffffffff, 0x0, 0x0, 0x0, 1⟩,
  ⟨0x900c, 1, 0x0, 1, 0x0, 0xffffffff, 0x0, 0x0, 0x0, 2⟩,
  ⟨0x9010, 1, 0x0, 1, 0x0, 0x0, 0x0, 0x0, 0x0, 1⟩,
  ⟨0x9014, 1, 0x0, 1, 0x0, 0x0, 0x0, 0x0, 0x0, 2⟩,
  ⟨0x9018, 1, 0x0, 1, 0x0, 0x0, 0x0, 0x0, 0x0, 0⟩,
  ⟨0x901c, 1, 0x0, 1, 0x0, 0x0, 0x0, 0x0, 0x0, 1⟩,
  ⟨0x9020, 1, 0x0, 1, 0x0, 0x0, 0x0, 0x0, 0x0, 2⟩,
  ⟨0x9024, 1, 0x0, 1, 0x0, 0x0, 0x0, 0xffffffff, 0x0, 0⟩,
  ⟨0x9028, 1, 0x0, 1, 0x0, 0x0, 0x0, 0xffffffff, 0x0, 0⟩,
  ⟨0x902c, 1, 0x0, 1, 0x0, 0x0, 0x0, 0xffffffff, 0x0, 0⟩,
  ⟨0x9030, 1, 0x0, 1, 0x0, 0x0, 0x0, 0x0, 0x0, 0⟩,
  ⟨0x9040, 1, 0x0, 150, 0x4, 0x0, 0x0, 0x0, 0x0, 0⟩]

/-- Registers with prefix CRZ_ (Table 20.2): CRZ_HEAD, CRZ_SEQ, CRZ_QUEUE, CRZ_DROPPED, CRZ_STATUS. -/
def rowsCrz : List RegRow := [
  ⟨0xa000, 1, 0x0, 1, 0x0, 0x0, 0x0, 0x0, 0x0, 0⟩,
  ⟨0xa004, 1, 0x0, 1, 0x0, 0x0, 0x0, 0x0, 0x0, 0⟩,
  ⟨0xa008, 1, 0x0, 1, 0x0, 0x0, 0x0, 0x0, 0x0, 0⟩,
  ⟨0xa00c, 1, 0x0, 1, 0x0, 0x0, 0x0, 0xffffffff, 0x0, 0⟩,
  ⟨0xa010, 1, 0x0, 1, 0x0, 0x0, 0x2, 0x0, 0x0, 0⟩]

/-- Registers with prefix KLN_ (Table 20.2): KLN_CTL, KLN_CAP, KLN_WINDOW, KLN_FREQ, KLN_STATUS, KLN_SETPOINT, KLN_KNOBS, KLN_CAP_EFF, KLN_PIN, KLN_PAVG, KLN_VIN, KLN_VIN_MIN, KLN_TJ, KLN_POOL, KLN_SHIFT_W, KLN_SHIFT_HI, KLN_SHIFT_LO, KLN_SHIFT_MIN, KLN_VIN_WARN, KLN_VIN_DEEP, KLN_THERM_THROTTLES, KLN_EXCURSIONS, KLN_FAST_LIMITS, KLN_SHIFTS, KLN_DROOP_CFG, KLN_DROOPd_EVENTS, KLN_DROOPd_CYCLES. -/
def rowsKln : List RegRow := [
  ⟨0x8000, 1, 0x0, 1, 0x0, 0x3f1, 0x0, 0x0, 0x240, 0⟩,
  ⟨0x8004, 1, 0x0, 1, 0x0, 0xfff, 0x0, 0x0, 0xfa0, 0⟩,
  ⟨0x8008, 1, 0x0, 1, 0x0, 0x1fff, 0x0, 0x0, 0x7d0, 0⟩,
  ⟨0x800c, 1, 0x0, 1, 0x0, 0xffff, 0x0, 0x0, 0x2e18, 0⟩,
  ⟨0x8010, 1, 0x0, 1, 0x0, 0x0, 0x1c0, 0x0, 0x0, 0⟩,
  ⟨0x8014, 1, 0x0, 1, 0x0, 0x0, 0x0, 0x0, 0x28, 0⟩,
  ⟨0x8018, 1, 0x0, 1, 0x0, 0x0, 0x0, 0x0, 0x40101000, 0⟩,
  ⟨0x801c, 1, 0x0, 1, 0x0, 0x0, 0x0, 0x0, 0xfa0, 0⟩,
  ⟨0x8020, 1, 0x0, 1, 0x0, 0x0, 0x0, 0x0, 0x0, 0⟩,
  ⟨0x8024, 1, 0x0, 1, 0x0, 0x0, 0x0, 0x0, 0x0, 0⟩,
  ⟨0x8028, 1, 0x0, 1, 0x0, 0x0, 0x0, 0x0, 0x0, 0⟩,
  ⟨0x802c, 1, 0x0, 1, 0x0, 0x0, 0x0, 0x0, 0x0, 0⟩,
  ⟨0x8030, 1, 0x0, 1, 0x0, 0x0, 0x0, 0x0, 0x0, 0⟩,
  ⟨0x8034, 1, 0x0, 1, 0x0, 0x8fffffff, 0x0, 0x0, 0x64, 0⟩,
  ⟨0x8038, 1, 0x0, 1, 0x0, 0xfff, 0x0, 0x0, 0x19, 0⟩,
  ⟨0x803c, 1, 0x0, 1, 0x0, 0xffffffff, 0x0, 0x0, 0x186a0, 0⟩,
  ⟨0x8040, 1, 0x0, 1, 0x0, 0xffffffff, 0x0, 0x0, 0x7d0, 0⟩,
  ⟨0x8044, 1, 0x0, 1, 0x0, 0xfff, 0x0, 0x0, 0x5dc, 0⟩,
  ⟨0x8060, 1, 0x0, 1, 0x0, 0x0, 0x0, 0xffffffff, 0x0, 0⟩,
  ⟨0x8064, 1, 0x0, 1, 0x0, 0x0, 0x0, 0xffffffff, 0x0, 0⟩,
  ⟨0x8068, 1, 0x0, 1, 0x0, 0x0, 0x0, 0xffffffff, 0x0, 0⟩,
  ⟨0x806c, 1, 0x0, 1, 0x0, 0x0, 0x0, 0xffffffff, 0x0, 0⟩,
  ⟨0x8070, 1, 0x0, 1, 0x0, 0x0, 0x0, 0xffffffff, 0x0, 0⟩,
  ⟨0x8074, 1, 0x0, 1, 0x0, 0x0, 0x0, 0xffffffff, 0x0, 0⟩,
  ⟨0x80f0, 1, 0x0, 1, 0x0, 0xff, 0x0, 0x0, 0x1e, 0⟩,
  ⟨0x8100, 1, 0x0, 8, 0x8, 0x0, 0x0, 0xffffffff, 0x0, 0⟩,
  ⟨0x8104, 1, 0x0, 8, 0x8, 0x0, 0x0, 0xffffffff, 0x0, 0⟩]

/-- Registers with prefix HIF_ (Table 20.2): HIF_ADMINp_CTL, HIF_ADMINp_CBASE_LO, HIF_ADMINp_CBASE_HI, HIF_ADMINp_SBASE_LO, HIF_ADMINp_SBASE_HI, HIF_ADMINp_HEAD, HIF_CMD_REJECTSp, HIF_DB_IGNOREDp, HIF_ID, HIF_HWSTAT, HIF_STUDIO_TICK, HIF_OWNER, HIF_HEARTBEAT, HIF_HB_AGE, HIF_HB_LIMIT, HIF_TAKEOVERS, HIF_ABORT, HIF_STBY_DROPS, HIF_NARROW, HIF_REPLY_DROPS, HIF_BAR2_BASE_LO, HIF_BAR2_BASE_HI, HIF_BAR2_POISON, HIF_BAR2_HOLE, HIF_LINK. -/
def rowsHif : List RegRow := [
  ⟨0x1200, 1, 0x0, 2, 0x40, 0x803f039f, 0x0, 0x0, 0x3e0308, 0⟩,
  ⟨0x1204, 1, 0x0, 2, 0x40, 0xfffff000, 0x0, 0x0, 0x0, 1⟩,
  ⟨0x1208, 1, 0x0, 2, 0x40, 0xffffffff, 0x0, 0x0, 0x0, 2⟩,
  ⟨0x120c, 1, 0x0, 2, 0x40, 0xfffff000, 0x0, 0x0, 0x0, 1⟩,
  ⟨0x1210, 1, 0x0, 2, 0x40, 0xffffffff, 0x0, 0x0, 0x0, 2⟩,
  ⟨0x1214, 1, 0x0, 2, 0x40, 0x0, 0x0, 0x0, 0x0, 0⟩,
  ⟨0x1218, 1, 0x0, 2, 0x40, 0x0, 0x0, 0xffffffff, 0x0, 0⟩,
  ⟨0x121c, 1, 0x0, 2, 0x40, 0x0, 0x0, 0xffffffff, 0x0, 0⟩,
  ⟨0x1000, 1, 0x0, 1, 0x0, 0x0, 0x0, 0x0, 0x16b000, 0⟩,
  ⟨0x1004, 1, 0x0, 1, 0x0, 0x0, 0x0, 0x0, 0x0, 0⟩,
  ⟨0x1008, 1, 0x0, 1, 0x0, 0x0, 0x0, 0x0, 0x0, 0⟩,
  ⟨0x100c, 1, 0x0, 1, 0x0, 0x100, 0x0, 0x0, 0x0, 0⟩,
  ⟨0x1010, 1, 0x0, 1, 0x0, 0xffffffff, 0x0, 0x0, 0x0, 0⟩,
  ⟨0x1014, 1, 0x0, 1, 0x0, 0x0, 0x0, 0x0, 0x0, 0⟩,
  ⟨0x1018, 1, 0x0, 1, 0x0, 0xffffffff, 0x0, 0x0, 0x1e8480, 0⟩,
  ⟨0x101c, 1, 0x0, 1, 0x0, 0x0, 0x0, 0xffffffff, 0x0, 0⟩,
  ⟨0x1020, 1, 0x0, 1, 0x0, 0x0, 0x0, 0x0, 0x0, 0⟩,
  ⟨0x1024, 1, 0x0, 1, 0x0, 0x0, 0x0, 0xffffffff, 0x0, 0⟩,
  ⟨0x1028, 1, 0x0, 1, 0x0, 0x0, 0x0, 0xffffffff, 0x0, 0⟩,
  ⟨0x102c, 1, 0x0, 1, 0x0, 0x0, 0x0, 0xffffffff, 0x0, 0⟩,
  ⟨0x1030, 1, 0x0, 1, 0x0, 0xffffffff, 0x0, 0x0, 0x0, 1⟩,
  ⟨0x1034, 1, 0x0, 1, 0x0, 0xffff, 0x0, 0x0, 0x0, 2⟩,
  ⟨0x1038, 1, 0x0, 1, 0x0, 0x0, 0x0, 0xffffffff, 0x0, 0⟩,
  ⟨0x103c, 1, 0x0, 1, 0x0, 0x0, 0x0, 0xffffffff, 0x0, 0⟩,
  ⟨0x1040, 1, 0x0, 1, 0x0, 0x0, 0x0, 0x0, 0x0, 0⟩]

/-- Registers with prefix STU_ (Table 20.2): STU_JOB. -/
def rowsStu : List RegRow := [
  ⟨0x10, 1, 0x0, 1, 0x0, 0x0, 0x0, 0x0, 0x0, 0⟩]

/-- Registers with prefix EVC_ (Table 20.2): EVC_CLAIM, EVC_COMPLETE, EVC_HOLD, EVC_TSTAT, EVC_PENDi, EVC_SETi, EVC_TGTs. -/
def rowsEvc : List RegRow := [
  ⟨0x3000, 1, 0x0, 1, 0x0, 0x0, 0x0, 0x0, 0x0, 0⟩,
  ⟨0x3004, 1, 0x0, 1, 0x0, 0x0, 0x0, 0x0, 0x0, 0⟩,
  ⟨0x3008, 1, 0x0, 1, 0x0, 0x1, 0x0, 0x0, 0x0, 0⟩,
  ⟨0x300c, 1, 0x0, 1, 0x0, 0x0, 0x0, 0x0, 0x0, 0⟩,
  ⟨0x3040, 1, 0x0, 8, 0x4, 0x0, 0xffffffff, 0x0, 0x0, 0⟩,
  ⟨0x3080, 1, 0x0, 8, 0x4, 0x0, 0x0, 0x0, 0x0, 0⟩,
  ⟨0x3100, 1, 0x0, 256, 0x4, 0x3, 0x0, 0x0, 0x0, 0⟩]

/-- Registers with prefix BOOT_ (Table 20.2): BOOT_STATUS, BOOT_CAUSE, BOOT_POWERON, BOOT_TIME, BOOT_CTL, BOOT_IMG_VERSION, BOOT_IMG_SVN, BOOT_DORM_DROPS. -/
def rowsBoot : List RegRow := [
  ⟨0x4000, 1, 0x0, 1, 0x0, 0x0, 0x20, 0x0, 0x0, 0⟩,
  ⟨0x4004, 1, 0x0, 1, 0x0, 0x0, 0x0, 0x0, 0x0, 0⟩,
  ⟨0x4008, 1, 0x0, 1, 0x0, 0x0, 0x0, 0x0, 0x0, 0⟩,
  ⟨0x400c, 1, 0x0, 1, 0x0, 0x0, 0x0, 0x0, 0x0, 0⟩,
  ⟨0x4010, 1, 0x0, 1, 0x0, 0x0, 0x0, 0x0, 0x0, 0⟩,
  ⟨0x4014, 1, 0x0, 1, 0x0, 0x0, 0x0, 0x0, 0x0, 0⟩,
  ⟨0x4018, 1, 0x0, 1, 0x0, 0x0, 0x0, 0x0, 0x0, 0⟩,
  ⟨0x401c, 1, 0x0, 1, 0x0, 0x0, 0x0, 0xffffffff, 0x0, 0⟩]

/-- Registers with prefix SEC_ (Table 20.2): SEC_STATUS, SEC_SERIAL_LO, SEC_SERIAL_HI, SEC_MEASm_w. -/
def rowsSec : List RegRow := [
  ⟨0x5000, 1, 0x0, 1, 0x0, 0x0, 0x0, 0x0, 0x0, 0⟩,
  ⟨0x5008, 1, 0x0, 1, 0x0, 0x0, 0x0, 0x0, 0x0, 1⟩,
  ⟨0x500c, 1, 0x0, 1, 0x0, 0x0, 0x0, 0x0, 0x0, 2⟩,
  ⟨0x5060, 5, 0x20, 8, 0x4, 0x0, 0x0, 0x0, 0x0, 0⟩]

/-- Registers with prefix MOD_ (Table 20.2): MOD_ALERT, MOD_COOLANT, MOD_ADDR, MOD_MBX_ERRS. -/
def rowsMod : List RegRow := [
  ⟨0x6000, 1, 0x0, 1, 0x0, 0x0, 0xe, 0x0, 0x0, 0⟩,
  ⟨0x6004, 1, 0x0, 1, 0x0, 0x0, 0x0, 0x0, 0x0, 0⟩,
  ⟨0x6008, 1, 0x0, 1, 0x0, 0x0, 0x0, 0x0, 0x0, 0⟩,
  ⟨0x600c, 1, 0x0, 1, 0x0, 0x0, 0x0, 0xffffffff, 0x0, 0⟩]

/-- The rows whose block may hold a window offset: the tile pages, the per-die blocks, or the blocks of the device (Table 20.2). -/
def regRows (off : Nat) : List RegRow :=
  if 0x1000000 ≤ off then rowsTil ++ rowsCub ++ rowsVec
  else if 0x100000 ≤ off then rowsShf ++ rowsSwt ++ rowsWhl ++ rowsDma ++ rowsHbm
  else if 0x40000 ≤ off then rowsXch
  else if 0x20000 ≤ off then rowsCone
  else if 0x10000 ≤ off then rowsUpd
  else rowsStu ++ rowsHif ++ rowsEvc ++ rowsBoot ++ rowsSec ++ rowsMod ++ rowsMmu ++ rowsKln ++ rowsTst ++ rowsCrz ++ rowsPal

/-- First row that lists an offset. -/
def findRow (off : Nat) : List RegRow → Option RegRow
  | [] => none
  | r :: rs => if r.hits off then some r else findRow off rs

/-- The offset a HIF_ register is stored under: port 1's view of a shared register shows port 0's (R523). -/
def canonOff (off : Nat) : Nat :=
  if 0x2000 ≤ off && decide (off < 0x3000) && !(decide (off = 0x2000) || (decide (0x2030 ≤ off) && decide (off < 0x2044))) then off - 0x1000 else off

/-- The per-port HIF_ registers of port 1's view have the rows of port 0's (R523). -/
def rowOff (off : Nat) : Nat := if 0x2000 ≤ off && decide (off < 0x3000) then off - 0x1000 else off

/-- The register that a window offset names (R521). -/
def regRow (off : Nat) : Option RegRow := findRow (rowOff off) (regRows (rowOff off))

/-- Reset value of a register: the Reset column, with the values that a table gives by instance: EVC_TGTs from Table 17.1, the
admin streams 62 + p (Table 15.11), the lane maps (R252). -/
def resetVal (off : Nat) : Word :=
  if 0x3100 ≤ off && decide (off < 0x3500) then
    (let s := (off - 0x3100) / 4
     BitVec.ofNat 32 (if s = 7 || s = 9 then 2 else if s ≤ 10 then 1 else if s ≤ 15 then 3 else if s ≤ 21 then 0 else 3))
  else if off = 0x1240 then 0x003F0308#32
  else if 0x41000 ≤ off && decide (off < 0x41800) && decide (off % 64 = 0xC) then
    (let p := (off - 0x41000) / 64
     let b := 72 * (p / 16) + 4 * (p % 16)
     BitVec.ofNat 32 (b + (b + 1) * 0x100 + (b + 2) * 0x10000 + (b + 3) * 0x1000000))
  else if off = 0x802C then 0xFFFF#32
  else match regRow off with
    | some r => BitVec.ofNat 32 r.rst
    | none => 0

end Sys2Proof.Machine
end

