-- ==== Sys2Proof/Machine/State.lean ====
section
/-!
DEFINITION. The state of the ON-16 as plain data, block by block, and the state after reset. Every register of the register
window lives in `Dev.regs`, keyed by its window offset (R521), and reads its reset value where it is not listed.
-/

namespace Sys2Proof.Machine

/-- Reasons to stop with a fault. The manual stops the device for none: an access that is refused is counted and is job-fatal
(R164, R519), which is a next state. -/
inductive Fault where
deriving DecidableEq, Repr

/-- Reasons to refuse a command. -/
inductive Refusal where
  /-- The command has no meaning in the model yet. Raised by `exec`; safe. -/
  | notModelled (mnemonic : String)
  /-- The command names a tile, die, cube, port, ring or target that the device does not have (Table 0.2). Raised by the
  range check of a meaning; safe, since nothing can send it. -/
  | noSuchUnit
deriving DecidableEq, Repr

/-- Who waits on a sync object: a tile's WAIT, running or saved; slot `i` of a command (0 its WSYNC, `i + 1` object `i` of a
WAIT); the Wheels of a ROUTE, by its command and the object's place in its range (R230, R231); a RING, by its own number and step (R309). -/
inductive WaitWho where
  | tile (t : Nat)
  | saved (t slot : Nat)
  | cmd (id slot : Nat)
  | wheel (cmd place : Nat)
  | ring (uid step : Nat)
deriving DecidableEq, Repr

/-- A waiter on a sync object, with the mark of R439 that a count the object took satisfied it. -/
structure Waiter where
  who      : WaitWho
  obj      : Nat
  thr      : Word
  released : Bool
deriving DecidableEq, Repr

/-- A cached translation (R187): page number of its size, level of the leaf, physical page, permissions. -/
structure TlbEntry where
  level : Nat
  page  : Nat
  pa    : Nat
  rd    : Bool
  wr    : Bool
deriving DecidableEq, Repr

/-- A pending fault record (Table 7.7): whether the Studio has taken it, whether it was sent to the owner's fault ring, and the millisecond at
which it expires (R201). -/
structure FaultRec where
  id     : Nat
  agent  : Agent
  cause  : Nat
  va     : Nat
  access : Access
  level  : Nat
  stream : Nat
  epoch  : Nat
  entry  : BitVec 64
  taken  : Bool
  sent   : Bool
  limit  : Nat
deriving DecidableEq, Repr

/-- An agent parked on a fault (R194): its access, the record it is parked under once posted, and the mark that the fault was
resolved with RETRY while its tile was saved (R210). -/
structure Park where
  agent    : Agent
  va       : Nat
  access   : Access
  cause    : Nat
  level    : Nat
  stream   : Nat
  entry    : BitVec 64
  fault    : Option Nat
  waited   : Bool
  resolved : Bool
deriving DecidableEq, Repr

/-- Who launched a DMA record: a tile, with the record's offset in its store, or a COPY command. -/
inductive DmaFrom where
  | tile (t off : Nat)
  | cmd (id : Nat)
deriving DecidableEq, Repr

/-- A DMA record in the queue or on an engine (Table 7.5). -/
structure DmaRec where
  orig   : DmaFrom
  kind   : Nat
  ends   : Nat
  sync   : Nat
  src    : Nat
  dst    : Nat
  blocks : Nat
  rows   : Nat
  spitch : Nat
  dpitch : Nat
  pat    : Word
  donE   : Nat
  drows  : Nat
  stream : Nat
  prio   : Nat
  seq    : Nat
  parked : Bool
deriving DecidableEq, Repr

/-- The DMA complex of one C-die: waiting records in service order within a priority, records on engines, records suspended with
their tile (STATUS 5). -/
structure DmaDie where
  queue   : List DmaRec := []
  engines : SMap DmaRec := []
  susp    : List DmaRec := []
deriving DecidableEq, Repr

/-- An accumulator tile of a cube (R84): 16 elements of 48-bit fixed point with one anchor, a class tag per element (0 finite,
1 NaN, 2 +infinity, 3 -infinity), a live flag, and the residue carried with each element (R363). -/
structure Acc where
  anchored : Bool := false
  live     : Bool := false
  x        : Int := 0
  v        : List Int := List.replicate 16 0
  tag      : List Nat := List.replicate 16 0
  res      : List Nat := List.replicate 16 0
deriving DecidableEq, Repr

/-- What a pass brings to one accumulator element: nothing, a non-finite tag (Table 3.5), or a pass sum with its exponent and its carried
residue (R363). -/
inductive Contrib where
  | idle
  | nonfin (tag : Nat)
  | sum (s : Int) (p : Int) (r : Nat)
deriving DecidableEq, Repr

/-- A pass in flight: operand slices latched at issue, as the contributions they make, by cube (R86, R91). -/
structure Pass where
  acc   : Nat
  clr   : Bool
  cells : List (Nat × List Contrib)
deriving DecidableEq, Repr

/-- A cube instruction in the issue queue, with the scalar registers it read when placed (R81) and what the tile-store word code will find
in its operands (R125). -/
structure CubeQ where
  f   : CubeInsn
  mA  : Nat
  k0  : Nat
  nB  : Nat
  ecc : Ecc := .clean
deriving DecidableEq, Repr

/-- Current ramp of a cube (R96 to R99): its ramp level in quarters, the cycle its present step began, one more than the last cycle in which an
instruction named it (0: none), whether it is stepping down, and the cap level it has reached with the cycle that level began. -/
structure Ramp where
  level : Nat := 0
  base  : Nat := 0
  seen  : Nat := 0
  down  : Bool := false
  cap   : Nat := 4
  cbase : Nat := 0
deriving DecidableEq, Repr

/-- An LDT or STT in the load/store queue: blocks moved so far, and blocks of an LDT that have arrived and wait to be written to the tile store
in program order (R131). -/
structure Xfer where
  load : Bool
  va   : Nat
  ts   : Nat
  len  : Nat
  donE : Nat
  held : List (List Byte) := []
deriving DecidableEq, Repr

/-- The load/store operations between the tile store and the vector registers (Table 4.7). -/
inductive LsOp where
  | ldv
  | ldvb
  | stv
  | stvb
deriving DecidableEq, Repr

/-- An LDV, LDVB, STV or STVB in the load/store queue (R126): scalar sources and descriptor as read at entry, the instruction's position, what the
tile-store word code finds (R125), the rows in which the converter copies will differ (R362), rows written so far. -/
structure LsInst where
  op  : LsOp
  f   : LsF
  a   : Nat
  b   : Nat
  dsc : BitVec 128
  pc  : Nat
  ecc : Ecc
  bad : List Nat
  row : Nat := 0
deriving DecidableEq, Repr

/-- An entry of the load/store queue (R131): a block transfer, a register transfer, or a close that waits for the stores ahead of it: of a
converter's Swatch slot (R65), or of the Bisque segment (R349). -/
inductive LsQ where
  | xfer (x : Xfer)
  | inst (i : LsInst)
  | cvtClose (n slot : Nat)
  | bsqClose
deriving DecidableEq, Repr

/-- A sparse job of a tile (Table 5.3): offset of its record, the record as read at launch or as a context save left it, last valid index of each
stream of a MERGE (R145). -/
structure SparseJob where
  off : Nat
  img : List Byte
  la  : Int := -1
  lb  : Int := -1
deriving DecidableEq, Repr

/-- A REPEAT in progress (R102): first instruction, address after the last, passes still to run. -/
structure Loop where
  first : Nat
  stop  : Nat
  left  : Nat
deriving DecidableEq, Repr

/-- Run state of a tile's sequencer. -/
inductive Run where
  /-- No program. -/
  | idle
  /-- Issuing. -/
  | running
  /-- Held by a WAIT (R441). -/
  | waiting
  /-- Held by a fence: 0 LS, 1 CUBE, 2 ALL (Table 3.9). -/
  | fenced (kind : Nat)
  /-- HALT issued, not yet in effect (Table 3.23). -/
  | halting
  /-- Held by a single retry (R365). -/
  | retrying
  /-- Working for the update engine (R332). -/
  | updating
  /-- Stopped by a job-fatal event (R426) or a job reset. -/
  | stopped
deriving DecidableEq, Repr

/-- What a request to take a tile is for (R104): a pre-emption by a command, or a test firing. -/
structure TakeReq where
  firing : Bool
  cmd    : Nat
deriving DecidableEq, Repr

/-- The context of a tile's stream: what a pre-emption saves (R104, R205). -/
structure Ctx where
  run    : Run := .idle
  stream : Nat := 0
  prio   : Nat := 0
  cmd    : Option Nat := none
  pc     : Nat := 0
  sq     : SMap (BitVec 64) := []
  loops  : List Loop := []
  dsc    : SMap (BitVec 128) := []
  vt     : SMap (List Word) := []
  store  : Mem := []
  acc    : SMap Acc := []
  sw     : SMap Word := []
  lsq    : List LsQ := []
  jobs   : List SparseJob := []
deriving DecidableEq, Repr

/-- A saved context, with the values of the context's registers (converter sets, sparse and Bisque registers), and whether its last cube
instruction had END set (R104). -/
structure Saved where
  ctx    : Ctx
  regs   : SMap Word
  endSet : Bool
deriving DecidableEq, Repr

/-- What occupies a tile's save path: nothing, a save into a slot, a restore from a slot, or a test firing. -/
inductive Busy where
  | none
  | saving (slot : Nat)
  | restoring (slot : Nat)
  | firing (partner : Nat)
deriving DecidableEq, Repr

/-- Issue times of the vector queue of a tile, in core cycles: the earliest next issue, when the quarter-rate unit is free, when each tile
register is visible, and when each instruction in the queue issues (R112). -/
structure VTimes where
  next  : Nat := 0
  quart : Nat := 0
  ready : SMap Nat := []
  pend  : List Nat := []
deriving DecidableEq, Repr

/-- A tile: its running context, the cube unit, what waits for it, and its hidden test state (R373): a ninth accumulator tile per cube, four vector
registers and an 8 KiB test area, as the firing whose free value is numbered so left it (`Tile.hiddenWord`), or all 0 before the first. -/
structure Tile where
  ctx     : Ctx := {}
  cq      : List CubeQ := []
  passes  : List Pass := []
  ramps   : SMap Ramp := []
  endSet  : Bool := true
  group   : Nat := 0
  accLast : SMap Nat := []
  qFree   : Nat := 0
  vt      : VTimes := {}
  slots   : SMap Saved := []
  busy    : Busy := .none
  reqs    : List TakeReq := []
  hidden  : Option Nat := none
deriving DecidableEq, Repr

/-- A group record (Table 10.2). -/
structure Grp where
  n        : Nat
  self     : Nat
  levels   : Nat
  dims     : List Nat
  stage    : Nat
  stagelen : Nat
  members  : List Nat
deriving DecidableEq, Repr

/-- A parsed command (Table 15.4). A command that names a record holds the record, and its group and table, as read at validation
(R424). -/
inductive CmdOp where
  | nop
  | launch (l : LaunchP)
  | copy (die : Nat) (rec : List Byte)
  | signal (obj count : Nat)
  | wait (obj count : Nat) (v : Word)
  | add (obj count : Nat) (v : Word)
  | reset (obj count : Nat) (v : Word)
  | ringOpen (o : RingOpenP)
  | ringClose (ringNo : Nat)
  | route (desc : BitVec 64) (img : List Byte) (grp : Grp) (head : List Byte)
  | exch (opc : Nat) (rec : BitVec 64) (img : List Byte) (grp : Grp) (tbl : List Byte)
  | update (rec : BitVec 64) (img : List Byte) (grp : Option Grp) (tile0 ntiles : Nat)
  | windowOpen (w : WindowP)
  | windowClose (index : Nat)
  | tlbInval (va len : BitVec 64)
  | faultResolve (id : Nat) (fail : Bool)
  | jobStart (epoch : BitVec 16)
  | jobReset (failing : Option (List HwUnit))
  | tileReset (tile0 ntiles : Nat)
  | abort
  | takeover (mode : Nat)
  | query (kind arg : Nat)
  | regRead (addr : BitVec 64)
  | regWrite (addr : BitVec 64) (v : Word)
deriving DecidableEq, Repr

/-- An accepted command (R423): its number, header and parameters, whether it was dispatched, tiles of a LAUNCH or UPDATE not yet
ended, and the count and lowest tile of its DETAIL. -/
structure Cmd where
  id    : Nat
  h     : CmdHdr
  op    : CmdOp
  prio  : Nat
  disp  : Bool
  armed : Bool
  tiles : List Nat
  start : List Nat
  bad   : Nat
  low   : Nat
deriving DecidableEq, Repr

/-- A command ring (R416 to R419). -/
structure Ring where
  opn      : Bool := false
  stream   : Nat := 0
  prio     : Nat := 0
  n        : Nat := 8
  loc      : Bool := false
  cbase    : Nat := 0
  sbase    : Nat := 0
  tail     : Word := 0
  fetched  : Word := 0
  seq      : Word := 0
  replies  : Word := 0
  consumed : Word := 0
  closing  : Bool := false
deriving DecidableEq, Repr

/-- Per-target state of the event controller (R464): hold bit, source in service, request line. -/
structure EvcT where
  hold : Bool := false
  insv : Option Nat := none
  line : Bool := false
deriving DecidableEq, Repr

/-- A data object in a port's DOE mailbox that the Studio has not answered (R461, Table 16.6). -/
inductive DoeReq where
  | discovery (index : Nat)
  | version
  | capabilities
  | algorithms (sm2 sm3 : Bool)
  | digests
  | certificate (slot off len : Nat)
  | challenge (slot : Nat) (nonce : List Byte)
  | measurements (index : Nat) (sign : Bool) (nonce : List Byte)
  | unsupported (code : BitVec 8)
deriving DecidableEq, Repr

/-- State of a host port beside its registers (R450 to R452, R461): Bus Master Enable, D3hot, PERST# asserted, MSI-X mask and
pending bit, BAR2 size in GiB, writes held (by ring; 64 is the fault ring), algorithms negotiated, DOE data object in the mailbox. -/
structure HostPort where
  bme    : Bool := false
  d3hot  : Bool := false
  perst  : Bool := true
  masked : Bool := true
  pend   : Bool := false
  bar2   : Nat := 32
  held   : List (Nat × List Byte) := []
  algs   : Bool := false
  doe    : Option DoeReq := none
deriving DecidableEq, Repr

/-- A Craze log entry (Table 13.8), before its SEQ and CRC are given at the flash write. -/
structure CrzEntry where
  kind   : Nat
  check  : Nat
  unit   : HwUnit
  count  : Nat
  ms     : Nat
  epoch  : Nat
  step   : Nat
  addr   : Nat
  site   : Nat
  detail : Nat
  clean  : Nat
deriving DecidableEq, Repr

/-- What a single retry repeats (Table 13.2). -/
inductive RetryOf where
  | cubePass (t : Nat)
  | drain (t : Nat) (f : VecF)
  | store (t : Nat)
  | ldt (t k : Nat)
  | dma (d e : Nat)
  | bar2 (port off len : Nat)
  | save (t : Nat)
  | restore (t : Nat)
  | recv (id : Nat)
  | reread (key sub node off : Nat)
deriving DecidableEq, Repr

/-- A retry outstanding (R365): the check that failed (Table 13.8, CHECK), the unit charged when the retry fails and the source memory is not at fault,
and the address and DETAIL for the Craze log. -/
structure Retry where
  what  : RetryOf
  check : Nat
  unit  : HwUnit
  addr  : Nat
  detail : Nat := 0
deriving DecidableEq, Repr

/-- What the device sends out of itself: replies, register and memory data returned to a host, interrupt messages, error
reports, flits, responses. -/
inductive Out where
  | reply (port ringNo : Nat) (bytes : List Byte)
  | regData (path : Path) (v : Word)
  | bar2Data (port : Nat) (bytes : List Byte)
  | msix (port : Nat)
  | aer (port kind : Nat)
  | faultRing (port : Nat) (bytes : List Byte)
  | abortFlit (port : Nat) (epoch origin : Nat) (cause : Nat)
  | frame (port : Nat) (f : Frame)
  | replay (port : Nat) (fseq : Nat)
  | link (port : Nat) (l : LinkF)
  | spareReq (port lane spare : Nat)
  | spareAnswer (port lane : Nat) (spare : Option Nat)
  | spdm (port : Nat) (bytes : List Byte)
  | mailbox (bytes : List Byte)
  | config (port : Nat) (retry : Bool)
  | retiredPages (port : Nat) (pages : List Nat)
deriving DecidableEq, Repr

/-- A frame in a port's send queue, with the receive buffer it still occupies when it is forwarded (port and channel). -/
structure TxE where
  held  : Option (Nat × Nat)
  frame : Frame
deriving DecidableEq, Repr

/-- A spare pair in training for a lane of a port (Table 9.6). -/
structure Sparing where
  lane   : Nat
  spare  : Nat
  locked : Bool
deriving DecidableEq, Repr

/-- The link layer of a fabric port (R259 to R265, R274, R275): frames waiting, retransmission buffer with the replays of each
frame, sequence numbers, credits held, credits to return, flits received since the last return, whether a NAK is out, the
data flits of the expected frame that keep failing with the failing replays, the pairs in training, lanes refused a spare. -/
structure Fab where
  txq   : List TxE := []
  rtx   : List (Nat × Frame) := []
  txSeq : Nat := 0
  rxSeq : Nat := 0
  cred  : List Nat := [128, 128, 128, 128]
  back  : List Nat := [0, 0, 0, 0]
  seen  : Nat := 0
  naked : Bool := false
  gfail : Option (List Nat × Nat) := none
  spares : List Sparing := []
  noreq : List Nat := []
deriving DecidableEq, Repr

/-- A block delivered to the exchange engine and not yet taken in: set aside, waiting, or held for a re-read (R263, R289), with its
own number and the number of its frame, and the mark of the last of a transfer (Table 9.3); an empty transfer is a last one without data. -/
structure InBlk where
  id   : Nat
  fr   : Nat
  port : Nat
  vc   : Nat
  src  : Nat
  xid  : Word
  win  : Nat
  sub  : Nat
  off  : Nat
  xop  : Nat
  data : List Byte
  held : Bool
  last : Bool := false
deriving DecidableEq, Repr

/-- A run of blocks to send: offset in the peer's window, virtual address in memory, length; or one block of the engine's own
storage (R533). -/
structure Seg where
  off : Nat
  va  : Nat
  n   : Nat
  lit : Option (List Byte)
deriving DecidableEq, Repr

/-- A stream of blocks to one peer (R270): what is still to send, blocks sent and not credited, what was sent. -/
structure SendQ where
  node   : Nat
  win    : Nat
  xop    : Nat
  sub    : Nat
  segs   : List Seg
  flight : Nat
  log    : List Seg
deriving DecidableEq, Repr

/-- Where an exchange operation stands. -/
inductive XStage where
  /-- Not started. -/
  | idle
  /-- A GRAD that waits for the step barrier (R296). -/
  | barrierWait
  /-- Between two buckets of a GRAD or two rounds of a PERMUTE, while an operation of higher priority waits (R292). -/
  | turn
  /-- A one-value exchange (R533), by PART. -/
  | value (part : Nat)
  /-- Reduce-scatter hops, then all-gather hops (R287). -/
  | scatter
  | gather
  /-- Plain transfers: SEND, RECV, RING, PERMUTE, Wheel exchanges. -/
  | plain
  /-- Barrier rounds (R305). -/
  | rounds
  /-- Complete; blocks it sent are still to be credited. -/
  | draining
deriving DecidableEq, Repr

/-- What a Wheel exchange carries (R250). -/
inductive WheelX where
  | statistic
  | tally
  | grant
  | dispatch
  | ret
deriving DecidableEq, Repr

/-- A running exchange operation (R284 to R292). `uid` is its own number, `key` its XID; 2^24 and the TENSOR for a sum of squares of an UPDATE (R533); 2^25
for a budget shift (R402); 2^26 and a running number for an exchange of a Wheel. `got` lists sender and offset of the blocks taken in; `own` the parks that hold it, by
agent code and address; `holds` the peers that hold it (R202); `wins` the Palette entries it uses; `begun` says that its launch is in the digest
count (R304). Of a Wheel's all-to-all: blocks to send by the position they are for, blocks received (hop level, place, number, bytes), peers whose
transfer of the present hop has ended (R287). -/
structure Xop where
  uid    : Nat
  key    : Nat
  cmd    : Option Nat
  wheel  : Option (Nat × Nat × WheelX)
  op     : Nat
  rec_   : List Byte
  stream : Nat
  prio   : Nat
  gen    : Nat
  grp    : Grp
  stage  : XStage
  level  : Nat
  bucket : Nat
  need   : Nat
  got    : List (Nat × Nat)
  sends  : List SendQ
  val    : Nat
  vdone  : Bool
  eg     : Nat
  t0     : Nat
  own    : List (Nat × Nat)
  wins   : List Nat
  holds  : List Nat
  round  : Nat
  base   : Nat
  table  : List Byte
  begun  : Bool := false
  pieces : List (List (List Byte)) := []
  blks   : List (Nat × Nat × Nat × List Byte) := []
  lasts  : List Nat := []
deriving DecidableEq, Repr

/-- Digest counters of the present generation (R303, R304). -/
structure Dig where
  run   : Nat := 0
  sent  : Nat := 0
  recvd : Nat := 0
  sdig  : BitVec 64 := 0
  rdig  : BitVec 64 := 0
deriving DecidableEq, Repr

/-- A choice that a Wheel routes (R216, R225): die, token, rank, its holder's group position and slot, gate weight. -/
structure Pair where
  die  : Nat
  tok  : Nat
  rank : Nat
  pos  : Nat
  slot : Nat
  gate : Word
deriving DecidableEq, Repr

/-- A send entry (Table 8.5) with the group position of its holder and the die of its Wheel. -/
structure SendEnt where
  pair    : Pair
  spilled : Bool
  bulged  : Bool
  row     : Nat
deriving DecidableEq, Repr

/-- Progress of one half-batch of a ROUTE on this device, up to the launch of its dispatch. -/
inductive HStage where
  | ranking
  | statistic
  | tally
  | grant
  /-- The lists are written; the dispatch is not launched yet. -/
  | launch
  | sent
deriving DecidableEq, Repr

/-- A row received for this device's slots: position of its source, its number among the source's rows for this device, the index of its send entry at
the source, the slot, the row and whether that is a bulge row (Table 8.5). -/
structure RowIn where
  src    : Nat
  num    : Nat
  idx    : Nat
  slot   : Nat
  row    : Nat
  bulged : Bool
deriving DecidableEq, Repr

/-- One half-batch of a ROUTE: dies that have begun, dies that have ranked, the layer statistic so far, unresolved pairs, experts that each token has asked
(token, expert), spill round, room of each slot of each member, this device's grants to each member by position (R223), rows granted in each own slot (capacity
rows, first bulge row, bulge rows), dies whose part of the lists or of a skipped layer's rows is written, granted entries, rows of this device's slots received, whether all are, whether the return is
launched, entries combined, dies whose combine has begun, tokens drained, dies that have drained. -/
structure Half where
  stage : HStage := .ranking
  starts : List Nat := []
  dies  : List Nat := []
  stat  : Int := 0
  pairs : List Pair := []
  taken : List (Nat × Nat) := []
  round : Nat := 0
  room  : List (List Nat) := []
  mine  : List (List Grant) := []
  used  : List (Nat × Nat × Nat) := []
  wrote : List Nat := []
  ents  : List SendEnt := []
  got   : List RowIn := []
  rows  : Bool := false
  ret   : Bool := false
  done  : List Nat := []
  begun : List Nat := []
  outs  : List Nat := []
  back  : List Nat := []
deriving DecidableEq, Repr

/-- A ROUTE in progress (R212): its number, which names its exchanges, its command, descriptor, group, the header of the forward LISTS area of a backward one, slots of each
group position, the halves. -/
structure RouteOp where
  no     : Nat
  cmd    : Nat
  stream : Nat
  prio   : Nat
  desc   : List Byte
  grp    : Grp
  head   : List Byte
  slots  : List Nat := []
  a      : Half := {}
  b      : Half := {}
deriving DecidableEq, Repr

/-- A sort record on a die's Wheel (Table 8.8), whether the sort unit has started it, its PASS and DONE, and the counts read (R246). -/
structure SortJob where
  tile   : Nat
  off    : Nat
  img    : List Byte
  stream : Nat
  prio   : Nat
  run    : Bool
  pass   : Nat := 0
  done   : Nat := 0
  cnts   : List Nat := []
deriving DecidableEq, Repr

/-- An exchange that a parked Wheel holds up before it is launched here (R202): its key, generation and group, the Wheel's die and the address of its
park. -/
structure EarlyHold where
  key : Nat
  gen : Nat
  grp : Grp
  die : Nat
  va  : Nat
deriving DecidableEq, Repr

/-- Sum of squares of R323: not yet known, +infinity, or an integer times a power of two. -/
inductive SumSq where
  | pending
  | inf
  | val (s : Int) (k : Int)
deriving DecidableEq, Repr

/-- Where an update record stands. -/
inductive UStage where
  | waiting
  | sumsq
  | written
deriving DecidableEq, Repr

/-- An update record (R330, R332): its command, the record as validated, the shard group, the group settings read when it started (R329: CTL, LAMBDA,
FLOOR, EPS, TOL, ETA, and UPD_STEP), the direction once it is known (R334), whether STEPDONE is written, the status and detail of its reply. -/
structure UpdRun where
  cmd    : Nat
  rec_   : List Byte
  grp    : Option Grp
  stage  : UStage
  set    : List Nat
  sq     : SumSq
  dir    : Option (List Nat) := none
  mark   : Bool
  status : Nat
  detail : Nat
deriving DecidableEq, Repr

/-- One operation of the flash write engine (R513): a page of bytes or a block erase, for a mailbox request or for the Studio; `last` marks
the last of a request. -/
structure FlashOp where
  mbox  : Bool
  last  : Bool
  erase : Bool
  off   : Nat
  bytes : List Byte
deriving DecidableEq, Repr

/-- The module around the package (R23, R479, R494, R504 to R513): standby rail, MOD_EN, rails on, every rail in regulation, rails held off until
MOD_EN goes low, kind of the last start, what the 48 V input has done (below 42.0 V, below 38.0 V, the 1 ms hold of Table 14.3),
mailbox address, request in progress, response unread, flash contents (an unlisted byte is 0xFF), write engine, and whether what it queues waits
for the boot ROM (R513). -/
structure Board where
  standby : Bool := true
  modEn   : Bool := false
  rails   : Bool := false
  pgood   : Bool := false
  barred  : Bool := false
  cause   : Nat := 0
  dip     : Bool := false
  deep    : Bool := false
  hold    : Bool := false
  dyn     : Option Nat := none
  req     : Option Nat := none
  unread  : Bool := false
  ferr    : Bool := false
  flash   : Mem := []
  fq      : List FlashOp := []
  fwait   : Bool := false
deriving DecidableEq, Repr

/-- The Kiln manager beside its registers (R391 to R411): measured bins, newest first, the budget of this bin, what it would be without the
thermal limit, D by the knobs before the limits on D, modelled power of this bin, the thermal limit on the budget, whether the throttle condition
holds and whether every sensor is cool, the last reading was at a shutdown level, an excursion is held at the cap, hottest junction of the last reading, rows a lifting wave has still to
reach, issue windows begun by row, dies that stretch. -/
structure Kiln where
  bins  : List Nat := []
  t     : Nat := 4800
  duty  : Nat := 64
  model : Nat := 0
  lim   : Option Nat := none
  hot   : Bool := false
  cool  : Bool := true
  shut  : Bool := false
  exc   : Bool := false
  lift  : List Nat := []
  wins  : SMap Nat := []
  slow  : List Nat := []
deriving DecidableEq, Repr

/-- A firing mismatch under retest (Table 13.4): the pair, the referee, each tile's result against it, with the unit that failed, and the
tile that the referee is itself retested against when both fail. -/
structure Referee where
  a   : Nat
  b   : Nat
  ref : Nat
  ra  : Option Bool := none
  rb  : Option Bool := none
  ua  : HwUnit
  ub  : HwUnit
  ref2 : Option Nat := none
deriving DecidableEq, Repr

/-- Test firing beside its registers (R371 to R377): committed step at the start of the sweep, a mismatch or an abandoned firing in it, groups started in it,
tiles whose latest firing passed, mismatches under retest; the step of an ended sweep that is clean but for firings still running, with the lower
tiles of those pairs. -/
structure Firing where
  step   : Nat := 0
  dirty  : Bool := false
  groups : List Nat := []
  passed : List Nat := []
  refs   : List Referee := []
  late   : Option Nat := none
  old    : List Nat := []
deriving DecidableEq, Repr

/-- The device: everything the manual gives state to. -/
structure Dev where
  /-- Register window, by window offset (Table 20.2). -/
  regs    : SMap Word := []
  /-- Snapshots of _HI halves taken by _LO reads, and _LO writes not yet committed, by access path and offset (R10, R526). -/
  latch   : List (Path × Nat × Word) := []
  stage   : List (Path × Nat × Word) := []
  /-- HBM and Shelf bytes by physical address (Table 20.1); an unlisted byte is 0 (R162). -/
  mem     : Mem := []
  /-- Blocks (physical address / 256) whose stored glaze word is the inverse of their CRC (R177). -/
  bad     : List Nat := []
  /-- Codewords (physical address / 64) whose corrected value waits to be written back (R166). -/
  wback   : List Nat := []
  /-- The retired-page list (R170): 64 KiB pages (physical address / 65,536), each with the row it is retired for; degraded channels (R169). -/
  retired : List (HwUnit × Nat) := []
  chans   : List (Nat × Nat) := []
  /-- Sync objects (R435) and their waiters (R439). -/
  sync    : SMap Word := []
  waiters : List Waiter := []
  /-- Translation caches of tiles and dies (R187). -/
  tlbT    : SMap (List TlbEntry) := []
  tlbD    : SMap (List TlbEntry) := []
  /-- Pending fault records in post order, parked agents, next fault id (R194 to R200). -/
  faults  : List FaultRec := []
  parks   : List Park := []
  nextId  : Nat := 1
  /-- DMA complexes by die, and the launch counter that orders records (R192). -/
  dma     : SMap DmaDie := []
  dmaSeq  : Nat := 0
  /-- Duty caps of tile rows, by 16 x die + row, in quarters (R99, R394); an unlisted row runs at 4. -/
  caps    : SMap Nat := []
  /-- Tiles by logical number. -/
  tiles   : SMap Tile := []
  /-- Rings by 32 x port + ring, accepted commands in fetch order, next command number. -/
  rings   : SMap Ring := []
  cmds    : List Cmd := []
  cmdSeq  : Nat := 0
  rr      : Nat := 0
  /-- Event controller targets: 0 the Studio, 1 host A, 2 host B (R464). -/
  evc     : SMap EvcT := []
  /-- Host ports. -/
  ports   : SMap HostPort := []
  /-- Outstanding retries (R365). -/
  retries : List Retry := []
  /-- Quarantined units, failed retests on record, permanent units of the repair map, sites by unit, tiles absent for good (R381 to R384). -/
  quar    : List HwUnit := []
  retests : List HwUnit := []
  repair  : List HwUnit := []
  sites   : List (HwUnit × Nat) := []
  absent  : List Nat := []
  /-- The identity key in the trust unit (R490). -/
  key     : Option Nat := none
  /-- Craze log queue (R386), oldest first. -/
  crz     : List CrzEntry := []
  /-- Epochs aborted or forwarded, newest first, at most 8 (R277). -/
  aborts  : List Nat := []
  /-- Fabric ports; blocks delivered and not taken in; running exchange operations; exchanges closed early (wire XID and SUB,
  R301); BARRIER flits counted: generation, id, round, sender (R306). -/
  fabs    : SMap Fab := []
  inbox   : List InBlk := []
  inSeq   : Nat := 0
  xops    : List Xop := []
  xSeq    : Nat := 0
  closedX : List (Nat × Nat) := []
  bars    : List (Nat × Nat × Nat × Nat) := []
  /-- Local verdict code, bucket that ended the phase, the norm ended it, a norm was formed (R338), step barrier released (R301, R296), owned results of the
  step's GRADs as address, elements and format (R335), step slack of each committed step, newest first (R402), digest counters. -/
  vcode   : Nat := 0
  endB    : Option Nat := none
  normEnd : Bool := false
  normed  : Bool := false
  stepRel : Bool := false
  owned   : List (Nat × Nat × Nat) := []
  slacks  : List Nat := []
  /-- Values of the Cone's evaluation in progress, with the mark of a replaced one (R340, R343). -/
  etas    : List (Word × Bool) := []
  dig     : Dig := {}
  /-- ROUTE operations, exchanges of theirs held before their launch, sort records by die, number of the next ROUTE, update records. -/
  routes  : List RouteOp := []
  early   : List EarlyHold := []
  sorts   : SMap (List SortJob) := []
  wseq    : Nat := 0
  upds    : List UpdRun := []
  /-- The module, the Kiln manager, test firing. -/
  board   : Board := {}
  kiln    : Kiln := {}
  fire    : Firing := {}
  /-- What the device has sent out, oldest first. -/
  out     : List Out := []
  /-- Core cycle since reset, core cycles into the current microsecond, microseconds since power-on (R7, R455). -/
  cc      : Nat := 0
  cyc     : Nat := 0
  us      : Nat := 0
  /-- The model's own counter of free values (DESIGN CHOICE, log 12). -/
  free    : Nat := 0
  /-- The model's own: what the codes will find in the next blocks that the command in hand reads (R165 to R167); none between commands. -/
  codes   : List Upset := []
deriving DecidableEq, Repr

/-- The machine: the commands waiting, first in, first out, and the device. -/
structure State where
  pending : List Instr
  dev     : Dev
deriving DecidableEq, Repr

/-- The device right after power-on reset: every register at its reset value (nothing listed), nothing running. -/
def Dev.reset : Dev := {}

/-- The machine right after reset; no command waits. -/
def State.reset : State := { pending := [], dev := Dev.reset }

end Sys2Proof.Machine
end

