-- ==== Sys2Proof/Machine/Ops.lean ====
section
/-!
DEFINITION. The named operations that the meanings share: registers, events, the Craze queue, quarantine, job-fatal events, sync
objects, replies and command completion, request lines.
-/

namespace Sys2Proof.Machine

/-- Read a register at its window offset (R521). -/
def Dev.rd (d : Dev) (off : Nat) : Word := SMap.get (resetVal off) d.regs off

/-- Set a register to a value, below every access code. -/
def Dev.wr (d : Dev) (off : Nat) (v : Word) : Dev := { d with regs := SMap.set d.regs off v }

/-- A field of a register. -/
def Dev.fld (d : Dev) (off hi lo : Nat) : Nat := bitsOf (d.rd off) hi lo

/-- Set a field of a register. -/
def Dev.setFld (d : Dev) (off hi lo v : Nat) : Dev := d.wr off (putBits (d.rd off) hi lo v)

/-- Raise a saturating counter (R14). -/
def Dev.bump (d : Dev) (off n : Nat) : Dev := if n = 0 then d else d.wr off (satAdd (d.rd off) n)

/-- A register pair as a 64-bit number (R10). -/
def Dev.rd64 (d : Dev) (lo : Nat) : Nat := (d.rd lo).toNat + (d.rd (lo + 4)).toNat * 2 ^ 32

/-- Set a register pair. -/
def Dev.wr64 (d : Dev) (lo v : Nat) : Dev := (d.wr lo (BitVec.ofNat 32 v)).wr (lo + 4) (BitVec.ofNat 32 (v / 2 ^ 32))

/-- Raise a 64-bit counter held as a register pair; it saturates at all-ones (R14). -/
def Dev.bump64 (d : Dev) (lo n : Nat) : Dev := if n = 0 then d else d.wr64 lo (min (d.rd64 lo + n) (2 ^ 64 - 1))

/-- Take a fresh open word (DESIGN CHOICE, log 12). -/
def Dev.freshWord (d : Dev) : Word × Dev := (Config.freeWord d.free, { d with free := d.free + 1 })

/-- Send something out of the device. -/
def Dev.emit (d : Dev) (o : Out) : Dev := { d with out := d.out ++ [o] }

/-- A tile. -/
def Dev.tile (d : Dev) (t : Nat) : Tile := SMap.get {} d.tiles t

/-- Replace a tile. -/
def Dev.setTile (d : Dev) (t : Nat) (x : Tile) : Dev := { d with tiles := SMap.set d.tiles t x }

/-- Change a tile. -/
def Dev.modTile (d : Dev) (t : Nat) (f : Tile → Tile) : Dev := d.setTile t (f (d.tile t))

/-- Change the running context of a tile. -/
def Dev.modCtx (d : Dev) (t : Nat) (f : Ctx → Ctx) : Dev := d.modTile t fun x => { x with ctx := f x.ctx }

/-- The C-die of a tile (R17: 600 live tiles a die). -/
def dieOf (t : Nat) : Nat := t / 600

/-- Job state (R425): 0 NONE, 1 RUNNING, 2 FAILED. -/
def Dev.job (d : Dev) : Nat := d.fld rStuJob 1 0

/-- The device's own epoch (R272). -/
def Dev.epoch (d : Dev) : Nat := d.fld rXchEpoch 15 0

/-- The owning port (R453). -/
def Dev.owner (d : Dev) : Nat := d.fld rHifOwner 0 0

/-- BOOT_STATUS.STAGE (Table 18.8). -/
def Dev.bootStage (d : Dev) : Nat := d.fld rBootStatus 15 12

/-- The device is in the Dormant state (R495). -/
def Dev.dormant (d : Dev) : Bool := d.fld rBootStatus 0 0 == 1

/-- The Studio runs: its firmware has started (R483, R485) and its clock is not gated (R496). -/
def Dev.studio (d : Dev) : Bool := d.bootStage == 12 && !d.dormant

/-- Milliseconds of the Studio timer since power-on. -/
def Dev.ms (d : Dev) : Nat := d.us / 1000

/-- Insert into a rising list without repeats. -/
def setIns : List Nat → Nat → List Nat
  | [], a => [a]
  | b :: l, a => if a = b then b :: l else if a < b then a :: b :: l else b :: setIns l a

/-- Drop a value from a list. -/
def setDel (l : List Nat) (a : Nat) : List Nat := l.filter (· != a)

/-- Membership in a list of numbers. -/
def inSet (l : List Nat) (a : Nat) : Bool := l.any (· == a)

/-! ### Events -/

/-- An event source fires (R466, R468): its pending bit is set. -/
def Dev.raise (d : Dev) (src : Nat) : Dev :=
  d.wr (rEvcPend (src / 32)) (d.rd (rEvcPend (src / 32)) ||| BitVec.ofNat 32 (2 ^ (src % 32)))

/-- A source is pending. -/
def Dev.pendBit (d : Dev) (src : Nat) : Bool := (d.rd (rEvcPend (src / 32))).toNat.testBit (src % 32)

/-- The target of a source (R467). -/
def Dev.tgt (d : Dev) (src : Nat) : Nat := d.fld (rEvcTgt src) 1 0

/-- The lowest-numbered pending source that names a target (R470). -/
def Dev.lowest (d : Dev) (k : Nat) : Option Nat := findFrom (fun s => d.pendBit s && d.tgt s == k) 256 0

/-- Per-target state of the event controller. -/
def Dev.evcT (d : Dev) (k : Nat) : EvcT := SMap.get {} d.evc k

/-- Replace it. -/
def Dev.setEvcT (d : Dev) (k : Nat) (e : EvcT) : Dev := { d with evc := SMap.set d.evc k e }

/-- The condition of R469 for a target's request line. -/
def Dev.lineCond (d : Dev) (k : Nat) : Bool :=
  !(d.evcT k).hold && (d.evcT k).insv.isNone && (d.lowest k).isSome

/-- A host port. -/
def Dev.port (d : Dev) (p : Nat) : HostPort := SMap.get {} d.ports p

/-- Replace a host port. -/
def Dev.setPort (d : Dev) (p : Nat) (x : HostPort) : Dev := { d with ports := SMap.set d.ports p x }

/-- The link of a host port is up (HIF_LINK.UP). -/
def Dev.linkUp (d : Dev) (p : Nat) : Bool := d.fld (rHifLink p) 10 10 == 1

/-- A port may issue requests (R451). -/
def Dev.mayIssue (d : Dev) (p : Nat) : Bool := (d.port p).bme && !(d.port p).d3hot && d.linkUp p

/-- A port's request line rises: an MSI-X message, or the vector's pending bit while it is masked (R450) or the port may not
issue (R451). -/
def Dev.lineRise (d : Dev) (p : Nat) : Dev :=
  if (d.port p).masked || !d.mayIssue p then d.setPort p { d.port p with pend := true } else d.emit (.msix p)

/-- Bring one target's request line to the level of R469; a host line that rises sends its message. -/
def Dev.setLine (d : Dev) (k : Nat) : Dev :=
  let c := d.lineCond k
  let rose := c && !(d.evcT k).line
  let d1 := d.setEvcT k { d.evcT k with line := c }
  if rose && decide (k ≠ 0) then d1.lineRise (k - 1) else d1

/-- Bring the request lines of all three targets to their levels. -/
def Dev.lines (d : Dev) : Dev := ((d.setLine 0).setLine 1).setLine 2

/-! ### Craze log, quarantine -/

/-- Number of a unit class in a Craze log entry (Table 13.8). -/
def uclassCode : UClass → Nat
  | .cube => 1
  | .tile => 2
  | .hbmLane => 3
  | .hbmRow => 4
  | .fabricLane => 5
  | .shelfBank => 6
  | .xchHalf => 7
  | .agentPath => 8
  | .hostPort => 9

/-- The site a unit stands at when no spare is bound to it: each C-die has 640 tile sites and each tile 66 cube sites (Table 13.7; DEDUCED, log 22). -/
def homeSite (u : HwUnit) : Nat :=
  match u.cls with
  | .tile => 640 * (u.num / 600) + u.num % 600
  | .cube => 66 * (u.num / 64) + u.num % 64
  | _ => u.num

/-- The site a unit is bound to (R384). -/
def Dev.siteOf (d : Dev) (u : HwUnit) : Nat :=
  match d.sites.find? (fun p => decide (p.1 = u)) with
  | some p => p.2
  | none => homeSite u

/-- A Craze log entry for an event now (Table 13.8). -/
def Dev.entry (d : Dev) (kind check : Nat) (u : HwUnit) (addr detail : Nat) : CrzEntry :=
  { kind := kind, check := check, unit := u, count := 1, ms := d.ms, epoch := d.epoch, step := d.rd64 rUpdStepLo, addr := addr
    site := d.siteOf u, detail := detail, clean := d.rd64 rTstCleanStepLo }

/-- Merge a TRANSIENT into a queued one with the same check and unit, not more than 1 s older (R386). -/
def crzMerge (e : CrzEntry) : List CrzEntry → Option (List CrzEntry)
  | [] => none
  | q :: qs =>
    if q.kind = 1 && q.check = e.check && decide (q.unit = e.unit) && decide (e.ms ≤ q.ms + 1000) then
      some ({ q with count := min (q.count + 1) 0xFFFF } :: qs)
    else match crzMerge e qs with
      | some r => some (q :: r)
      | none => none

/-- Drop the oldest TRANSIENT. -/
def crzDisplace : List CrzEntry → List CrzEntry
  | [] => []
  | q :: qs => if q.kind = 1 then qs else q :: crzDisplace qs

/-- Queue a Craze log entry (R386); a FAULT, PERMANENT or NO_SPARE entry raises source 10 (Table 17.1). -/
def Dev.pushCrz (d : Dev) (e : CrzEntry) : Dev :=
  if e.kind = 1 then
    match crzMerge e d.crz with
    | some q => { d with crz := q }
    | none => if 256 ≤ d.crz.length then d.bump rCrzDropped 1 else { d with crz := d.crz ++ [e] }
  else
    let q := if 256 ≤ d.crz.length then crzDisplace d.crz else d.crz
    let d1 := { d with crz := q ++ [e] }
    if e.kind = 2 || e.kind = 6 || e.kind = 8 then d1.raise 10 else d1

/-- A failed retest on record (R383), with its entry: 5 RETEST_FAIL, or 9 LANE_SPARED for a runtime lane sparing. -/
def Dev.failRetest (d : Dev) (kind check : Nat) (u : HwUnit) (addr detail : Nat) : Dev :=
  { d.pushCrz (d.entry kind check u addr detail) with retests := d.retests ++ [u] }

/-- A unit is quarantined. -/
def Dev.isQuar (d : Dev) (u : HwUnit) : Bool := d.quar.any fun x => decide (x = u)

/-- A fabric port works: UP or UP and sparing (Table 9.9). -/
def Dev.portUp (d : Dev) (p : Nat) : Bool := d.fld (rXchPortStatus p) 2 0 == 2 || d.fld (rXchPortStatus p) 2 0 == 3

/-- Link layer of a port. -/
def Dev.fab (d : Dev) (p : Nat) : Fab := SMap.get {} d.fabs p

/-- Replace it. -/
def Dev.setFab (d : Dev) (p : Nat) (f : Fab) : Dev := { d with fabs := SMap.set d.fabs p f }

/-- The port that a destination's route entry selects (R266). -/
def Dev.routePort (d : Dev) (node : Nat) : Option Nat :=
  let v := d.rd (rXchRoute (node % 16384))
  if bitsOf v 31 31 = 0 then none
  else if d.portUp (bitsOf v 4 0) then some (bitsOf v 4 0)
  else if d.portUp (bitsOf v 12 8) then some (bitsOf v 12 8)
  else none

/-- Add to entry `i` of a list of counts. -/
def addAt (l : List Nat) (i n : Nat) : List Nat := setNth l i (nth 0 l i + n)

/-- Flits of a frame. -/
def frameFlits (f : Frame) : Nat := 1 + f.blocks.length

/-- Flits that leave a receive buffer are credited back on their channel (R265). -/
def Dev.credBack (d : Dev) (p vc n : Nat) : Dev :=
  d.setFab p { d.fab p with back := addAt (d.fab p).back vc n }

/-- Put a frame in the send queue of the port its route selects; with no port it is discarded, counted, and raises the fabric port event
(R266). -/
def Dev.routeOn (d : Dev) (e : TxE) : Dev :=
  match d.routePort e.frame.dst with
  | some p => d.setFab p { d.fab p with txq := (d.fab p).txq ++ [e] }
  | none =>
    let d1 := (d.bump rXchNorouteDrops 1).raise 5
    match e.held with
    | some (p, vc) => d1.credBack p vc (frameFlits e.frame)
    | none => d1

/-- A frame that may be sent again after its port was lost: a HEAD of plain writes, HOLD, RESUME, REREAD (R269). -/
def frameAgain (f : Frame) : Bool := (f.kind == 1 && f.xop == 0) || f.kind == 3 || f.kind == 4 || f.kind == 8

/-- A port stops with frames unacknowledged (R269): those that may be sent again are routed anew, the others are counted; frames not
yet sent are routed anew. -/
def Dev.portLost (d : Dev) (p : Nat) (state : Nat) : Dev :=
  let f := d.fab p
  let held := f.rtx.map (·.2)
  let d1 := ((d.setFld (rXchPortStatus p) 2 0 state).setFab p { noreq := f.noreq }).bump rXchPortdownLost
    (held.filter fun x => !frameAgain x).length
  ((held.filter frameAgain).map (fun x => (⟨none, x⟩ : TxE)) ++ f.txq).foldl (fun y e => y.routeOn e) d1

/-- A port goes DOWN (R264) and raises the fabric port event (Table 17.1, source 5). -/
def Dev.portDown (d : Dev) (p : Nat) : Dev := (d.portLost p 4).raise 5

/-- Pages of a row (R170), with the page of an address known to lie in it. -/
def rowPagesOf (u : HwUnit) (addr : Nat) : List Nat :=
  setIns ((Config.rowPages (u.num / 2 ^ 28) (u.num % 2 ^ 28)).foldl setIns []) (addr / 65536)

/-- Put pages on the retired-page list, and report the list to the owning host (R170); a retired row raises source 3 (Table 17.1). -/
def Dev.retire (d : Dev) (u : HwUnit) (pages : List Nat) : Dev :=
  let d1 : Dev := { d with retired := d.retired.filter (fun p => decide (p.1 ≠ u)) ++ pages.map fun p => (u, p) }
  let d2 := d1.emit (.retiredPages d1.owner (d1.retired.foldl (fun l p => setIns l p.2) []))
  if pages.isEmpty then d2 else d2.raise 3

/-- Quarantine a unit (R381). A host port never is (R368). An HBM row retires every page that holds it; an exchange
engine half takes its 16 ports DOWN. -/
def Dev.quarantine (d : Dev) (u : HwUnit) (addr : Nat) : Dev :=
  if u.cls = .hostPort || d.isQuar u then d
  else
    let q := d.quar ++ [u]
    let d1 := ({ d with quar := q }).wr rTstQuarCount (BitVec.ofNat 32 q.length)
    match u.cls with
    | .hbmRow => d1.retire u (rowPagesOf u addr)
    | .xchHalf => iter 16 (fun i x => if x.portUp (16 * u.num + i) then x.portDown (16 * u.num + i) else x) d1
    | _ => d1

/-- A C-die takes no job work: one of its agent paths is quarantined (R381). -/
def Dev.dieOut (d : Dev) (n : Nat) : Bool := d.quar.any fun u => u.cls = .agentPath && u.num / 4 = n

/-- A Shelf is out of use: one of its banks is quarantined (R381). -/
def Dev.shelfOut (d : Dev) (die : Nat) : Bool := d.quar.any fun u => u.cls = .shelfBank && u.num / 32 = die

/-- A tile may take no job work (R381): it or one of its cubes or an agent path of its die is quarantined, or it is absent (R384). -/
def Dev.tileOut (d : Dev) (t : Nat) : Bool :=
  d.isQuar ⟨.tile, t⟩ || d.quar.any (fun u => u.cls = .cube && u.num / 64 = t)
    || d.dieOut (dieOf t)
    || (d.rd (rTstAbsent (t / 32))).toNat.testBit (t % 32)

/-! ### Aborts -/

/-- A firing on a tile, or one asked for, is abandoned (R375). -/
def dropFiring (x : Tile) : Tile :=
  { x with
    reqs := x.reqs.filter fun r => !r.firing
    busy := match x.busy with
      | .firing _ => .none
      | b => b }

/-- A tile fires, or is to. -/
def Tile.inFiring (x : Tile) : Bool :=
  x.reqs.any (·.firing) ||
    (match x.busy with
     | .firing _ => true
     | _ => false)

/-- Firings and their retests are abandoned (R375): they count as neither a pass nor a mismatch, so the sweep is not clean (R377). -/
def Dev.dropFirings (d : Dev) : Dev :=
  if d.tiles.any fun p => p.2.inFiring then
    { d with
      tiles := d.tiles.map fun p => (p.1, dropFiring p.2)
      fire := { d.fire with dirty := true, refs := [], late := none, old := [] } }
  else d

/-- A retry of a host's BAR2 read, which is no work of the job. -/
def RetryOf.isBar2 : RetryOf → Bool
  | .bar2 _ _ _ => true
  | _ => false

/-- An ABORT abandons what is being retried or fired (Table 13.3, R375). -/
def Dev.abandon (d : Dev) : Dev := { d.dropFirings with retries := d.retries.filter fun r => r.what.isBar2 }

/-- Send the device's own ABORT (R276): three times on every UP port, and into the list of epochs (R277). An epoch already in the
list is not sent again. Retries and firings are abandoned. -/
def Dev.abortFlood (d0 : Dev) (cause : Nat) : Dev :=
  let d := d0.abandon
  if inSet d.aborts d.epoch then d
  else
    let d1 := { d with aborts := (d.epoch :: d.aborts).take 8 }.wr rXchAbortLast (BitVec.ofNat 32 (2 ^ 16 + d.epoch))
    iter 32 (fun p x =>
      if x.portUp p then
        let f := Out.abortFlit p x.epoch (x.fld rXchNode 13 0) cause
        ((x.emit f).emit f).emit f
      else x) d1

/-! ### Sync objects -/

/-- Count `c` satisfies threshold `v` (R437). -/
def satisfies (c v : Word) : Bool := decide ((c - v).toNat < 2 ^ 31)

/-- A sync object's count. -/
def Dev.count (d : Dev) (obj : Nat) : Word := SMap.get 0 d.sync obj

/-- Give a sync object a new count and test its waiters (R439). -/
def Dev.setCount (d : Dev) (obj : Nat) (c : Word) : Dev :=
  { d with
    sync := SMap.set d.sync obj c
    waiters := d.waiters.map fun w => if w.obj = obj && satisfies c w.thr then { w with released := true } else w }

/-- SIGNAL (Table 15.8). -/
def Dev.signal (d : Dev) (obj : Nat) : Dev := d.setCount obj (d.count obj + 1)

/-- An issuer starts to wait on an object; a threshold already satisfied releases it at once. -/
def Dev.addWaiter (d : Dev) (who : WaitWho) (obj : Nat) (thr : Word) : Dev :=
  { d with waiters := d.waiters ++ [⟨who, obj, thr, satisfies (d.count obj) thr⟩] }

/-- An issuer no longer waits. -/
def Dev.dropWaiters (d : Dev) (p : WaitWho → Bool) : Dev := { d with waiters := d.waiters.filter fun w => !p w.who }

/-- A waiter has been released (R439). -/
def Dev.released (d : Dev) (who : WaitWho) : Bool := d.waiters.any fun w => decide (w.who = who) && w.released

/-- The Wheels of a ROUTE wait no longer. -/
def waitsRoute (cmd : Nat) : WaitWho → Bool
  | .wheel c _ => c == cmd
  | _ => false

/-- A RING waits no longer. -/
def waitsRing (uid : Nat) : WaitWho → Bool
  | .ring u _ => u == uid
  | _ => false

/-! ### Physical memory, block by block -/

/-- Where a physical address lies (Table 20.1). HBM places carry the stack and the stack offset (R159). -/
inductive Loc where
  | hbm (stack off : Nat)
  | tail (stack : Nat)
  | beyond (stack : Nat)
  | shelf (die off : Nat)
  | window
  | hole
deriving DecidableEq, Repr

/-- Bytes of one die's HBM window. -/
def hbmSpan : Nat := 0x4000000000

/-- Stack that a physical address of an HBM window falls on (R159). -/
def stackOf (pa : Nat) : Nat := 2 * (pa / hbmSpan) + pa % hbmSpan / 1024 % 2

/-- Stack offset of a physical address (R159). -/
def stackOff (pa : Nat) : Nat := pa % hbmSpan / 1024 / 2 * 1024 + pa % 1024

/-- Stack offset of the glaze word of an HBM block (R175). -/
def glazeAddr (off : Nat) : Nat := 126000000000 + 4 * (off / 256)

/-- Where a physical address lies (R159, R163, R518). -/
def locate (pa : Nat) : Loc :=
  if pa < 0x20000000000 then
    (if pa % hbmSpan < 251255586816 then .hbm (stackOf pa) (stackOff pa)
     else if pa % hbmSpan < 252000000000 then .tail (stackOf pa)
     else .beyond (stackOf pa))
  else if pa < 0x20020000000 then .shelf ((pa - 0x20000000000) / 0x4000000) ((pa - 0x20000000000) % 0x4000000)
  else if 0x30000000000 ≤ pa && decide (pa < 0x30004000000) then .window
  else .hole

/-- Physical address of a Shelf offset. -/
def shelfPa (die off : Nat) : Nat := 0x20000000000 + die * 0x4000000 + off

/-- A Shelf offset lies inside an atomic window (R172); windows of length above 262,144 act as 262,144 (Table 6.7). -/
def Dev.inWindow (d : Dev) (die off : Nat) : Bool :=
  (List.range 4).any fun n =>
    let b := (d.rd (rShfAtomwinBase die n)).toNat
    decide (b ≤ off) && decide (off < b + 256 * min (d.rd (rShfAtomwinLen die n)).toNat 262144)

/-- A block carries no glaze: it lies inside an atomic window (R172). -/
def Dev.noGlaze (d : Dev) (pa : Nat) : Bool :=
  match locate pa with
  | .shelf die off => d.inWindow die off
  | _ => false

/-- A codeword read with one symbol corrected (R166). -/
def Dev.corrected (d : Dev) (pa cw : Nat) : Dev :=
  match locate pa with
  | .hbm k off =>
    let a := off / 256 * 256 + 64 * (cw % 4)
    let d1 := (d.bump (rHbmCorr k) 1).wr64 (rHbmCorrAddrLo k) a
    if d1.fld (rHbmCtl k) 0 0 = 1 then { d1 with wback := setIns d1.wback (pa / 256 * 4 + cw % 4) } else d1
  | .shelf die _ => d.bump (rShfCorr die) 1
  | _ => d

/-- A codeword read as uncorrectable (R167). -/
def Dev.uncorrectable (d : Dev) (pa cw : Nat) : Dev :=
  match locate pa with
  | .hbm k off =>
    let d1 := (d.bump (rHbmUncorr k) 1).wr64 (rHbmUncorrAddrLo k) (off / 256 * 256 + 64 * (cw % 4))
    d1.setFld (rHbmStatus k) 1 1 1
  | .shelf die _ => d.bump (rShfUncorr die) 1
  | _ => d

/-- Bytes of the block that holds an address. -/
def Dev.block (d : Dev) (pa : Nat) : List Byte := Mem.bytes 0 d.mem (pa / 256 * 256) 256

/-- What the codes find in the next block read: the next outcome that the command in hand brought, or none. -/
def Dev.takeCode (d : Dev) : Upset × Dev :=
  match d.codes with
  | u :: us => (u, { d with codes := us })
  | [] => (.clean, d)

/-- The command in hand brings what the codes find in the blocks it reads, in the order of the reads. -/
def Dev.withCodes (d : Dev) (us : List Upset) : Dev := { d with codes := us }

/-- Codeword `cw` of a block lies in a degraded channel, whose failed lane is wrong in every codeword (R169). -/
def Dev.laneDown (d : Dev) (pa cw : Nat) : Bool :=
  !d.chans.isEmpty &&
    (match locate pa with
     | .hbm k off => d.chans.any fun c => decide (c = (k, Config.hbmChannel (off / 256 * 256 + 64 * (cw % 4)) % 32))
     | _ => false)

/-- What befalls a read of a block, with what a degraded channel adds: a second wrong symbol in one of its codewords is uncorrectable (R169). -/
def Dev.meets (d : Dev) (pa : Nat) (u : Upset) : Upset :=
  match u with
  | .corrected cw => if d.laneDown pa cw then .uncorrectable cw else u
  | _ => u

/-- The code corrects the failed lane's symbol in every codeword of a degraded channel (R169). -/
def Dev.laneCounts (d : Dev) (pa : Nat) (u : Upset) : Dev :=
  if d.chans.isEmpty then d
  else ((List.range 4).filter fun cw => d.laneDown pa cw && !decide (u = .uncorrectable cw)).foldl (fun x cw => x.corrected pa cw) d

/-- The counts of reading a block with what befell it. -/
def Dev.readCounts (d : Dev) (pa : Nat) (u : Upset) : Dev :=
  let d1 := d.laneCounts pa (d.meets pa u)
  match d.meets pa u with
  | .corrected cw => d1.corrected pa cw
  | .uncorrectable cw => d1.uncorrectable pa cw
  | _ => d1

/-- The glaze check of a block at its consumer (R176): the stored word is stale, the codeword was uncorrectable (R167), or
the block was damaged on the way. A block of an atomic window gets its word at the read (Table 6.3). -/
def Dev.glazeBad (d : Dev) (pa : Nat) (u : Upset) : Bool :=
  match d.meets pa u with
  | .uncorrectable _ => true
  | .glaze => !d.noGlaze pa
  | _ => !d.noGlaze pa && inSet d.bad (pa / 256)

/-- Write bytes into memory at a physical address, below the codes. -/
def Dev.store (d : Dev) (pa : Nat) (bs : List Byte) : Dev := { d with mem := Mem.write 0 d.mem pa bs }

/-- Write one whole block with a valid glaze word (R174, R179); a write-back of its codewords is cancelled (R166). -/
def Dev.writeBlock (d : Dev) (pa : Nat) (bs : List Byte) : Dev :=
  let b := pa / 256
  { d.store (b * 256) bs with bad := setDel d.bad b, wback := d.wback.filter (fun c => c / 4 != b) }

/-- A write of part of one block (R177). -/
def Dev.writePart (d : Dev) (pa : Nat) (bs : List Byte) (u : Upset) : Dev :=
  let d1 := d.readCounts pa u
  if d1.noGlaze pa then d1.store pa bs
  else
    let b := pa / 256
    let d2 := d1.store pa bs
    if d1.glazeBad pa u then
      let d3 := { d2 with bad := setIns d2.bad b }
      match locate pa with
      | .hbm k _ => d3.bump (rHbmGlazePartialBad k) 1
      | .shelf die _ => d3.bump (rShfGlazePartialBad die) 1
      | _ => d3
    else d2

/-! ### Replies and completion -/

/-- A ring, numbered 32 x port + ring. -/
def Dev.ring (d : Dev) (g : Nat) : Ring := SMap.get {} d.rings g

/-- Replace a ring. -/
def Dev.setRing (d : Dev) (g : Nat) (r : Ring) : Dev := { d with rings := SMap.set d.rings g r }

/-- Number of the ring a command stands on. -/
def ringG (h : CmdHdr) : Nat := 32 * h.port + h.ringNo

/-- The 16 bytes of a status reply (Table 15.2). -/
def replyBytes (seq : Word) (status opcode phase ringNo : Nat) (detail : Nat) : List Byte :=
  toLe 4 seq.toNat ++ toLe 2 status ++ toLe 1 opcode ++ toLe 1 (phase + 2 * ringNo) ++ toLe 8 detail

/-- PHASE of reply `c` of a ring of `2^n` entries (R419). -/
def replyPhase (c : Word) (n : Nat) : Nat := 1 - c.toNat / 2 ^ n % 2

/-- Write part of a block of device memory for the Studio (ring replies): a partial write (R177), whose read of the old block meets the next outcome
of the codes. -/
def Dev.poke (d : Dev) (pa : Nat) (bs : List Byte) : Dev := d.takeCode.2.writePart pa bs d.takeCode.1

/-- Write the reply of a command (R415, R419), which is never to be written where its ring has closed (`Dev.ringShut`). A reply of a closed ring is dropped and counted (R452); a reply to host memory is
held while the port may not issue (R451). -/
def Dev.reply (d : Dev) (h : CmdHdr) (opcode status detail : Nat) : Dev :=
  let g := ringG h
  let r := d.ring g
  if !r.opn then d.bump rHifReplyDrops 1
  else
    let bs := replyBytes h.seq status opcode (replyPhase r.replies r.n) h.ringNo detail
    let d1 := d.setRing g { r with replies := r.replies + 1 }
    if r.loc then (d1.poke (r.sbase + 16 * (r.replies.toNat % 2 ^ r.n)) bs).emit (.reply h.port h.ringNo bs)
    else if (d.port h.port).bme && !(d.port h.port).d3hot then d1.emit (.reply h.port h.ringNo bs)
    else d1.setPort h.port { d1.port h.port with held := (d1.port h.port).held ++ [(h.ringNo, bs)] }

/-- Opcode of a parsed command (Table 15.4). -/
def CmdOp.code : CmdOp → Nat
  | .nop => 0x00
  | .launch _ => 0x01
  | .copy _ _ => 0x02
  | .signal _ _ => 0x03
  | .wait _ _ _ => 0x04
  | .add _ _ _ => 0x05
  | .reset _ _ _ => 0x06
  | .ringOpen _ => 0x08
  | .ringClose _ => 0x09
  | .route _ _ _ _ => 0x10
  | .exch opc _ _ _ _ => opc
  | .update _ _ _ _ _ => 0x14
  | .windowOpen _ => 0x18
  | .windowClose _ => 0x19
  | .tlbInval _ _ => 0x1C
  | .faultResolve _ _ => 0x1D
  | .jobStart _ => 0x20
  | .jobReset _ => 0x21
  | .tileReset _ _ => 0x22
  | .abort => 0x23
  | .takeover _ => 0x30
  | .query _ _ => 0x38
  | .regRead _ => 0x3A
  | .regWrite _ _ => 0x3B

/-- Job class (Table 15.4). -/
def CmdOp.isJob : CmdOp → Bool
  | .launch _ | .copy _ _ | .route _ _ _ _ | .exch _ _ _ _ _ | .update _ _ _ _ _ | .windowOpen _ | .windowClose _ | .faultResolve _ _ | .abort => true
  | _ => false

/-- A completion event is due on the command's port (FLAGS bit 2). -/
def wantIrq (h : CmdHdr) : Bool := h.flags.getLsbD 2

/-- SIGEN (FLAGS bit 1). -/
def wantSig (h : CmdHdr) : Bool := h.flags.getLsbD 1

/-- WAITEN (FLAGS bit 0). -/
def wantWait (h : CmdHdr) : Bool := h.flags.getLsbD 0

/-- FENCE (FLAGS bit 3). -/
def wantFence (h : CmdHdr) : Bool := h.flags.getLsbD 3

/-- A command completes (R422): its signal, its reply, its event, in that order. -/
def Dev.finish (d : Dev) (c : Cmd) (status detail : Nat) : Dev :=
  let d0 := { d with cmds := d.cmds.filter (fun x => x.id != c.id) }.dropWaiters (fun w =>
    match w with
    | .cmd i _ => i == c.id
    | _ => false)
  let d1 := if wantSig c.h then d0.signal c.h.ssync else d0
  let d2 := d1.reply c.h c.op.code status detail
  if wantIrq c.h then d2.raise (8 + c.h.port) else d2

/-- Take a command back: its reply is a rejection, with no other effect (R423). -/
def Dev.rejectCmd (d : Dev) (c : Cmd) (status detail : Nat) : Dev :=
  ({ d with cmds := d.cmds.filter (fun x => x.id != c.id) }.bump (rHifCmdRejects c.h.port) 1).reply c.h c.op.code status detail

/-- The command with a number, if it has not completed. -/
def Dev.cmd? (d : Dev) (id : Nat) : Option Cmd := d.cmds.find? (fun c => c.id == id)

/-- Complete the command with a number, if it has not completed. -/
def Dev.finishId (d : Dev) (id status detail : Nat) : Dev :=
  match d.cmd? id with
  | some c => d.finish c status detail
  | none => d

/-- Replace a command. -/
def Dev.setCmd (d : Dev) (c : Cmd) : Dev := { d with cmds := d.cmds.map fun x => if x.id = c.id then c else x }

/-! ### Job-fatal events -/

/-- Stop a tile at once, leaving its live state (R426). -/
def stopTile (x : Tile) : Tile :=
  { x with
    ctx := { x.ctx with run := if x.ctx.run = .idle then .idle else .stopped }
    reqs := [] }

/-- Stop every job agent (R426). -/
def Dev.stopAgents (d : Dev) : Dev :=
  let d1 := d.abandon
  { d1 with tiles := d1.tiles.map (fun p => (p.1, stopTile p.2)) }

/-- Complete with ST_JOB_FATAL every job command dispatched and every command that waits (R426). -/
def Dev.endCmds (d : Dev) : Dev :=
  (d.cmds.filter fun c => !c.disp || c.op.isJob).foldl (fun x c => x.finishId c.id 0x22 x.epoch) d

/-- A job-fatal event (R425, R426): both notices, FAILED from RUNNING, every agent stopped, commands ended, the ABORT flood with
cause 1 (R276). -/
def Dev.jobFatal (d : Dev) : Dev :=
  let d1 := (d.raise 0).raise 16
  let d2 := if d1.job = 1 then d1.setFld rStuJob 1 0 2 else d1
  (d2.stopAgents.endCmds).abortFlood 1

/-- A unit is charged with a fault (R368): counted, recorded, quarantined. -/
def Dev.charge (d : Dev) (check : Nat) (u : HwUnit) (addr detail : Nat) : Dev :=
  ((d.bump rTstFaults 1).pushCrz (d.entry 2 check u addr detail)).quarantine u addr

/-- A fault with no retry left (R368, R369): the unit is charged, and it is job-fatal unless a host port is charged. -/
def Dev.unitFault (d : Dev) (check : Nat) (u : HwUnit) (addr detail : Nat) : Dev :=
  if u.cls = .hostPort then d.charge check u addr detail else (d.charge check u addr detail).jobFatal

/-- A retry that passes (R367). -/
def Dev.transient (d : Dev) (check : Nat) (u : HwUnit) (addr detail : Nat) : Dev :=
  (d.bump rTstTransients 1).pushCrz (d.entry 1 check u addr detail)

/-- Start a single retry (R365). -/
def Dev.retry (d : Dev) (r : Retry) : Dev := { d with retries := d.retries ++ [r] }

/-! ### Running a meaning -/

/-- A RING_CLOSE may complete (Table 15.4): every command fetched from its ring has completed and the tail equals the fetch
count; a ring that is closed already fetches no more. -/
def Dev.closeReady (d : Dev) (g : Nat) (own : Nat) : Bool :=
  !(d.cmds.any fun c => ringG c.h % 64 == g && c.id != own) && (!(d.ring g).opn || (d.ring g).tail == (d.ring g).fetched)

/-- Complete the RING_CLOSE commands that may complete. -/
def Dev.closeRings (d : Dev) : Dev :=
  d.cmds.foldl (fun x c =>
    match c.op with
    | .ringClose r =>
      if c.disp && x.closeReady (32 * c.h.port + r) c.id then
        (x.setRing (32 * c.h.port + r) { x.ring (32 * c.h.port + r) with opn := false, closing := false }).finish c 0 0
      else x
    | _ => x) d

/-- A running exchange uses a Palette entry (R279). -/
def Dev.winBusy (d : Dev) (i : Nat) : Bool := d.xops.any fun x => inSet x.wins i

/-- Complete the WINDOW_CLOSE commands whose entry no exchange uses (R279). -/
def Dev.closeWindows (d : Dev) : Dev :=
  d.cmds.foldl (fun x c =>
    match c.op with
    | .windowClose i =>
      if c.disp && !x.winBusy i then (x.setFld (rPalEntryPeer i) 15 15 0).finish c 0 0 else x
    | _ => x) d

/-- What follows every command's own effect: windows and rings that may now close, then the request lines (R469). Outcomes of the codes that the
command did not use go with it. -/
def Dev.settle (d : Dev) : Dev := d.closeWindows.closeRings.lines.withCodes []

/-- The outcome of a meaning that changes the device alone. -/
def State.run (s : State) (f : Dev → Dev) : Host.Outcome State Fault Refusal :=
  .next { s with dev := (f s.dev).settle }

/-- The same, for a command that names a unit: refused when there is no such unit. -/
def State.runIf (s : State) (ok : Bool) (f : Dev → Dev) : Host.Outcome State Fault Refusal :=
  if ok then s.run f else .refused .noSuchUnit

/-- The same two, for a command whose reads meet the outcomes `us` of the codes. -/
def State.runC (s : State) (us : List Upset) (f : Dev → Dev) : Host.Outcome State Fault Refusal := s.run fun d => f (d.withCodes us)

def State.runIfC (s : State) (us : List Upset) (ok : Bool) (f : Dev → Dev) : Host.Outcome State Fault Refusal :=
  s.runIf ok fun d => f (d.withCodes us)

end Sys2Proof.Machine
end

