-- ==== Sys2Proof/Machine/Cone.lean ====
section
/-!
DEFINITION. The learning-rate schedule engine, the Cone (R340 to R343).
-/

namespace Sys2Proof.Machine

/-- A natural number in FP32 under RNE (R341). -/
def f32OfNat (n : Nat) : Nat := (fencode fmt32 false (.fin false n 0)).bits

/-- The quotient of two finite values, rounded once to FP32; by zero it is NaN. -/
def quotBits : FVal → FVal → Nat
  | .fin a m e, .fin b n f =>
    if n = 0 then canonNan fmt32 false
    else if m = 0 then signBit fmt32 (a != b)
    else
      let sh := 96 + Nat.log2 n
      signBit fmt32 (a != b) + (roundMag 24 (-149) 0 (m * 2 ^ sh / n) (e - f - sh) (decide (m * 2 ^ sh % n ≠ 0))).mag
  | _, _ => canonNan fmt32 false

/-- FP32 division of two finite values under RNE. -/
def fdiv (a b : Nat) : Nat := quotBits (fdecode 24 (-149) a) (fdecode 24 (-149) b)

/-- Sum of `(-1)^i / ((2i + 1) n^(2i + 1))` in units of 2^-256. -/
def atanFrom (n : Nat) : Nat → Nat → Nat → Int → Int → Int
  | 0, _, _, _, acc => acc
  | j + 1, k, pw, sg, acc => atanFrom n j (k + 2) (pw / (n * n)) (-sg) (acc + sg * ((pw / k : Nat) : Int))

/-- Pi in units of 2^-256: 16 atan(1/5) - 4 atan(1/239). -/
def piFx : Int := 16 * atanFrom 5 120 1 (2 ^ 256 / 5) 1 0 - 4 * atanFrom 239 40 1 (2 ^ 256 / 239) 1 0

/-- Sum of `(-1)^i x^(2i) / (2i)!` in units of 2^-256; `x2` is the square of `x`. -/
def cosFrom (x2 : Nat) : Nat → Nat → Nat → Int → Int → Int
  | 0, _, _, _, acc => acc
  | j + 1, k, term, sg, acc =>
    cosFrom x2 j (k + 2) (term * x2 / 2 ^ 256 / ((k + 1) * (k + 2))) (-sg) (acc + sg * (term : Int))

/-- The cosine of a number from 0 to pi / 2, in units of 2^-256. -/
def cosFx (x : Nat) : Nat := (cosFrom (x * x / 2 ^ 256) 48 0 (2 ^ 256) 1 0).toNat

/-- The cosine table (R342): `(1 + cos(pi i / 1024)) / 2` is the square of `cos(pi i / 2048)`. -/
def coneTab (i : Nat) : Nat :=
  if 1024 ≤ i then 0
  else if i = 0 then 0x3F800000
  else
    let c := cosFx ((piFx * i).toNat / 2048)
    (roundMag 24 (-149) 0 (c * c) (-512) true).mag

/-- Position in a cycle and its length, with the cycle multiplied at each restart (R341). -/
def coneCycle (mult : Nat) : Nat → Nat → Nat → Nat × Nat
  | 0, uc, len => (uc, len)
  | j + 1, uc, len => if uc < len then (uc, len) else coneCycle mult j (uc - len) (min (len * mult) (2 ^ 64 - 1))

/-- The decay factor of R341. -/
def coneG (kind uc len : Nat) : Nat :=
  let p := fdiv (f32OfNat uc) (f32OfNat len)
  if kind = 2 then (frsqrt (fadd fmt32 false 0x3F800000 p).bits).bits
  else if kind = 1 then (fsub fmt32 false 0x3F800000 p).bits
  else
    match fdecode 24 (-149) p with
    | .fin _ m e =>
      let i := shiftNat m (e + 10)
      let f := (fsub fmt32 false (fencode fmt32 false (.fin false m (e + 10))).bits (f32OfNat i)).bits
      if 1024 ≤ i then 0 else (fma fmt32 false false f (fsub fmt32 false (coneTab (i + 1)) (coneTab i)).bits (coneTab i)).bits
    | _ => 0

/-- The learning rate of a group at step `k` (R341); a cycle length of 0 acts as 1 (R343). -/
def coneEta (k peak etamin nw kind c mult : Nat) : Nat :=
  if k < nw then (fmul fmt32 false peak (fdiv (f32OfNat (k + 1)) (f32OfNat nw))).bits
  else
    let n := k - nw
    let c0 := max 1 c
    let (uc, len) :=
      if mult = 0 then (if kind ≤ 1 then min n c0 else n, c0)
      else if mult = 1 then (n % c0, c0)
      else coneCycle mult 80 n c0
    if kind = 3 then peak
    else (fma fmt32 false false (fsub fmt32 false peak etamin).bits (coneG kind uc len) etamin).bits

/-- A computed rate as it is written: NaN, an infinity and a negative number become +0, with the mark of BADETA (R343). -/
def etaOut (e : Nat) : Word × Bool :=
  match fdecode 24 (-149) e with
  | .fin neg m _ => if neg && m != 0 then (0, true) else (BitVec.ofNat 32 e, false)
  | _ => (0, true)

/-- The rate of a group at UPD_STEP, from its registers. -/
def Dev.etaOf (d : Dev) (n : Nat) : Word × Bool :=
  etaOut (coneEta (d.rd64 rUpdStepLo) (d.rd (rConeGrpPeak n)).toNat (d.rd (rConeGrpEtamin n)).toNat (d.rd (rConeGrpWarmup n)).toNat
    (d.fld (rConeGrpCtl n) 9 8) (d.rd (rConeGrpCycle n)).toNat (d.fld (rConeGrpCtl n) 7 0))

/-- A COMMIT starts the evaluation (R340): the settings are those of the verdict (Table 11.4). -/
def Dev.coneStart (d : Dev) : Dev := { d.setFld rConeStatus 0 0 1 with etas := (List.range 64).map d.etaOf }

/-- The rates are written, and the committed step number rises (R340). -/
def Dev.coneDone (d : Dev) : Dev :=
  let d1 := iter 64 (fun n x => x.wr (rConeGrpEta n) (nth (0, false) d.etas n).1) d
  let d2 := if d.etas.any (·.2) then d1.setFld rConeStatus 1 1 1 else d1
  ({ d2.setFld rConeStatus 0 0 0 with etas := [] }).wr64 rUpdStepLo ((d.rd64 rUpdStepLo + 1) % 2 ^ 64)

end Sys2Proof.Machine
end

