-- ==== Sys2Proof/Machine/Craze.lean ====
section
/-!
DEFINITION. Craze log entries in module flash (Table 13.8): their bytes, the writer (R386, R387), the scan at a start (R388).
-/

namespace Sys2Proof.Machine

/-- The byte that erased flash, and flash that nothing has written, reads as (Table 18.2). -/
abbrev blank : Byte := 0xFF#8

/-- Bytes of module flash. -/
def Dev.flashBytes (d : Dev) (off n : Nat) : List Byte := Mem.bytes blank d.board.flash off n

/-- Write bytes of module flash as they stand. -/
def Dev.flashPut (d : Dev) (off : Nat) (bs : List Byte) : Dev :=
  { d with board := { d.board with flash := Mem.write blank d.board.flash off bs } }

/-- Erase a 64 KiB block of module flash. -/
def Dev.flashErase (d : Dev) (off : Nat) : Dev :=
  { d with board := { d.board with flash := d.board.flash.filter fun p => p.1 / 65536 != off / 65536 } }

/-- Flash offset of the Craze log (Table 18.2). -/
def crzBase : Nat := 0x03C00000

/-- The 64 bytes of an entry (Table 13.8). -/
def CrzEntry.bytes (e : CrzEntry) (seq poweron : Nat) : List Byte :=
  let b := toLe 4 seq ++ [1#8] ++ toLe 1 e.kind ++ toLe 1 e.check ++ toLe 1 (uclassCode e.unit.cls) ++ toLe 4 e.unit.num ++ toLe 4 poweron
    ++ toLe 4 e.ms ++ toLe 2 e.epoch ++ toLe 2 e.count ++ toLe 8 e.step ++ toLe 8 e.addr ++ toLe 4 e.site ++ toLe 4 e.detail
    ++ toLe 8 e.clean ++ toLe 4 0
  b ++ toLe 4 (crc32c b).toNat

/-- A failed program or erase of the Studio's (R387): FLASHERR and source 10. -/
def Dev.flashFail (d : Dev) : Dev := (d.setFld rCrzStatus 1 1 1).raise 10

/-- The oldest queued entry reaches flash (R386); one that starts a sector erases the next (R387). -/
def Dev.crzWrite (d : Dev) (e : CrzEntry) (rest : List CrzEntry) : Dev :=
  let h := d.fld rCrzHead 15 0
  let d1 := if h % 1024 = 0 then d.flashErase (crzBase + (h / 1024 + 1) % 64 * 65536) else d
  let d2 := d1.flashPut (crzBase + 64 * h) (e.bytes (d.rd rCrzSeq).toNat (d.rd rBootPoweron).toNat)
  { (d2.setFld rCrzHead 15 0 ((h + 1) % 65536)).wr rCrzSeq (d.rd rCrzSeq + 1) with crz := rest }

/-- CRAZE_ENTRY_WRITE (R386, R387): the write or the erase may fail, and the entry then stays queued; it waits for what the one write engine has in
hand (R513). -/
def execCrazeEntryWrite (ok : Bool) (s : State) : Host.Outcome State Fault Refusal :=
  s.run fun d =>
    match d.crz with
    | [] => d
    | e :: rest => if !d.studio || !d.board.fq.isEmpty then d else if ok then d.crzWrite e rest else d.flashFail

/-! ### The scan -/

/-- The unit class of a code (Table 13.8). -/
def uclassOf : Nat → Option UClass
  | 1 => some .cube
  | 2 => some .tile
  | 3 => some .hbmLane
  | 4 => some .hbmRow
  | 5 => some .fabricLane
  | 6 => some .shelfBank
  | 7 => some .xchHalf
  | 8 => some .agentPath
  | 9 => some .hostPort
  | _ => none

/-- Indexes of the entries of which flash lists a byte; every other entry is blank, and its CRC is wrong. -/
def Dev.crzIndexes (d : Dev) : List Nat :=
  d.board.flash.foldl (fun l p => if crzBase ≤ p.1 then setIns l ((p.1 - crzBase) / 64) else l) []

/-- Entries whose CRC is correct, by index (R388). -/
def Dev.crzValid (d : Dev) : List (Nat × List Byte) :=
  ((d.crzIndexes).map fun i => (i, d.flashBytes (crzBase + 64 * i) 64)).filter fun p =>
    decide (field p.2 60 4 = (crc32c (p.2.take 60)).toNat)

/-- The entry with the highest SEQ (R388). -/
def crzTop : List (Nat × List Byte) → Option (Nat × Nat)
  | [] => none
  | p :: ps =>
    match crzTop ps with
    | none => some (p.1, field p.2 0 4)
    | some q => if q.2 < field p.2 0 4 then some (p.1, field p.2 0 4) else some q

/-- Units with a failed retest on record, once for each (R383): RETEST_FAIL entries and runtime lane sparings. -/
def crzFails (l : List (Nat × List Byte)) : List HwUnit :=
  l.filterMap fun p =>
    if field p.2 5 1 = 5 || field p.2 5 1 = 9 then (uclassOf (field p.2 7 1)).map fun c => ⟨c, field p.2 8 4⟩ else none

/-- Failed retests of the entries still queued. -/
def Dev.queueFails (d : Dev) : List HwUnit := (d.crz.filter fun e => e.kind == 5 || e.kind == 9).map (·.unit)

/-- The scan of the Craze log (R388). -/
def Dev.crzScan (d : Dev) : Dev :=
  let v := d.crzValid
  let d1 : Dev := { d with retests := crzFails v ++ d.queueFails }
  match crzTop v with
  | some (i, q) => (d1.setFld rCrzHead 15 0 ((i + 1) % 65536)).wr rCrzSeq (BitVec.ofNat 32 (q + 1))
  | none => d1

end Sys2Proof.Machine
end

