-- ==== Sys2Proof/Machine/Repair.lean ====
section
/-!
DEFINITION. Spares and the repair map (R383, R384, Table 13.7): which site serves a unit, what a failed retest leads to, the two copies of the map
in module flash (R486).
-/

namespace Sys2Proof.Machine

/-! ### Sites -/

/-- Sites of the spares of a unit (Table 13.7): 2 of a tile's 66 cube sites, 40 of a C-die's 640 tile sites. -/
def spareSites (u : HwUnit) : List Nat :=
  match u.cls with
  | .cube => (List.range 2).map fun i => 66 * (u.num / 64) + 64 + i
  | .tile => (List.range 40).map fun i => 640 * (u.num / 600) + 600 + i
  | _ => []

/-- A logical tile is absent (R384), and stays so across every reset. -/
def Dev.setAbsent (d : Dev) (t : Nat) : Dev :=
  { d with absent := setIns d.absent t }.wr (rTstAbsent (t / 32)) (d.rd (rTstAbsent (t / 32)) ||| BitVec.ofNat 32 (2 ^ (t % 32)))

/-- The lowest free spare site of a unit; a cube's sites are taken by cubes, a tile's by tiles. -/
def Dev.freeSite (d : Dev) (u : HwUnit) : Option Nat :=
  (spareSites u).find? fun x => !d.sites.any fun p => decide (p.1.cls = u.cls) && p.2 == x

/-- Bind a unit to a site, in place of the site it had. -/
def Dev.bind (d : Dev) (u : HwUnit) (site : Nat) : Dev :=
  { d with sites := d.sites.filter (fun p => decide (p.1 ≠ u)) ++ [(u, site)] }

/-- Give a tile a spare tile site, or leave it absent (R384). -/
def Dev.spareTile (d : Dev) (t : Nat) : Bool × Dev :=
  match d.freeSite ⟨.tile, t⟩ with
  | some x => (true, d.bind ⟨.tile, t⟩ x)
  | none => (false, d.setAbsent t)

/-- Give a cube or a tile a spare (Table 13.7): a tile whose cube spares are used up takes a spare tile site. The flag says whether there was one. -/
def Dev.spareUnit (d : Dev) (u : HwUnit) : Bool × Dev :=
  match u.cls with
  | .cube =>
    match d.freeSite u with
    | some x => (true, d.bind u x)
    | none => d.spareTile (u.num / 64)
  | _ => d.spareTile u.num

/-- Bindings of the repair map; a provisional spare (R383) does not outlast the reset. -/
def Dev.mapSites (d : Dev) : List (HwUnit × Nat) :=
  d.sites.filter fun p => d.repair.any fun u =>
    decide (u = p.1) || (p.1.cls = .tile && u.cls = .cube && u.num / 64 == p.1.num)

/-! ### The copies in flash (layout: DESIGN CHOICE, log 33) -/

/-- A unit in a copy. -/
def unitBytes (u : HwUnit) : List Byte := toLe 4 (uclassCode u.cls) ++ toLe 4 u.num

/-- Permanent units, bindings and absent tiles, as bytes. -/
def mapBody (repair : List HwUnit) (sites : List (HwUnit × Nat)) (absent : List Nat) : List Byte :=
  toLe 4 repair.length ++ toLe 4 sites.length ++ toLe 4 absent.length ++ repair.flatMap unitBytes
    ++ sites.flatMap (fun p => unitBytes p.1 ++ toLe 4 p.2) ++ absent.flatMap (toLe 4)

/-- A copy: SEQ, length, body, CRC-32C (R486). -/
def mapCopyBytes (seq : Nat) (body : List Byte) : List Byte :=
  let b := toLe 4 seq ++ toLe 4 body.length ++ body
  b ++ toLe 4 (crc32c b).toNat

/-- Flash offset of a copy of the repair maps (Table 18.2). -/
def mapOff (i : Nat) : Nat := 0x03140000 + 0x80000 * i

/-- A copy read back. -/
structure MapCopy where
  seq    : Nat
  repair : List HwUnit
  sites  : List (HwUnit × Nat)
  absent : List Nat
deriving DecidableEq, Repr

/-- A unit read back; a class that Table 13.8 does not list names no unit. -/
def unitAt (b : List Byte) (o : Nat) : Option HwUnit := (uclassOf (field b o 4)).map fun c => ⟨c, field b (o + 4) 4⟩

/-- Copy `i`, if its CRC is right (R486). -/
def Dev.mapCopy (d : Dev) (i : Nat) : Option MapCopy :=
  let n := field (d.flashBytes (mapOff i) 8) 4 4
  if 0x80000 < n + 12 then none
  else
    let b := d.flashBytes (mapOff i) (n + 12)
    if field b (n + 8) 4 = (crc32c (b.take (n + 8))).toNat then
      let r := field b 8 4
      let s := field b 12 4
      some
        { seq := field b 0 4
          repair := (List.range r).filterMap fun k => unitAt b (20 + 8 * k)
          sites := (List.range s).filterMap fun k => (unitAt b (20 + 8 * r + 12 * k)).map fun u => (u, field b (28 + 8 * r + 12 * k) 4)
          absent := (List.range (field b 16 4)).map fun k => field b (20 + 8 * r + 12 * s + 4 * k) 4 }
    else none

/-- The newer valid copy (R483 step 4). -/
def Dev.mapNow (d : Dev) : Option (Nat × MapCopy) :=
  match d.mapCopy 0, d.mapCopy 1 with
  | some a, some b => if a.seq < b.seq then some (1, b) else some (0, a)
  | some a, none => some (0, a)
  | none, some b => some (1, b)
  | none, none => none

/-- Pages of a write of the Studio's. -/
def studioPages (off : Nat) : Nat → List Byte → List FlashOp
  | 0, _ => []
  | n + 1, bs => ⟨false, decide (n = 0), false, off, bs.take 256⟩ :: studioPages (off + 256) n (bs.drop 256)

/-- The Studio writes the repair map over the copy with the lower valid SEQ, through the one write engine (R383, R486, R513). -/
def Dev.mapSave (d : Dev) : Dev :=
  let (i, q) := match d.mapNow with
    | some (j, c) => (1 - j, c.seq + 1)
    | none => (0, 0)
  let b := mapCopyBytes q (mapBody d.repair d.mapSites d.absent)
  let erases : List FlashOp := (List.range ((b.length + 65535) / 65536)).map fun k => ⟨false, false, true, mapOff i + 65536 * k, []⟩
  { d with board := { d.board with fq := d.board.fq ++ erases ++ studioPages (mapOff i) ((b.length + 255) / 256) b } }

/-! ### Failed retests -/

/-- Failed retests of a unit on record (R383). -/
def Dev.failCount (d : Dev) (u : HwUnit) : Nat := (d.retests.filter fun x => decide (x = u)).length

/-- A provisional spare after a first failed retest (R383, Table 13.7): a cube or tile takes a spare site, and without one NO_SPARE is queued and the
tile stays absent (R384). The pages of an HBM row are retired already; the code corrects an HBM lane; a fabric lane is spared already. -/
def Dev.provisional (d : Dev) (check : Nat) (u : HwUnit) : Dev :=
  if u.cls = .cube || u.cls = .tile then
    let r := d.spareUnit u
    if r.1 then r.2 else (r.2.pushCrz (r.2.entry 8 check u 0 0)).mapSave
  else d

/-- A permanent unit (R383, R384): PERMANENT, the repair map, and the substitution of Table 13.7 where its time is now; lanes and rows are
substituted by the boot ROM. Without a spare, NO_SPARE; the tiles of an agent path's die are then absent. -/
def Dev.permanent (d : Dev) (check : Nat) (u : HwUnit) : Dev :=
  let d1 : Dev := { d.pushCrz (d.entry 6 check u 0 0) with repair := d.repair ++ [u] }
  let d2 := match u.cls with
    | .cube | .tile =>
      let r := d1.spareUnit u
      r.2.pushCrz (r.2.entry (if r.1 then 7 else 8) check u 0 0)
    | .hbmLane | .hbmRow | .fabricLane => d1
    | .agentPath => iter 600 (fun i x => x.setAbsent (600 * (u.num / 4) + i)) (d1.pushCrz (d1.entry 8 check u 0 0))
    | _ => d1.pushCrz (d1.entry 8 check u 0 0)
  d2.mapSave

/-- What a failed retest that is on record leads to (R383): a provisional spare at the first, permanence at the second. -/
def Dev.replaceUnit (d : Dev) (check : Nat) (u : HwUnit) : Dev :=
  if d.failCount u < 2 then d.provisional check u
  else if d.repair.any fun x => decide (x = u) then d
  else d.permanent check u

/-- A runtime lane failure counts as one failed retest (R383): the unit is permanent from the second. -/
def Dev.laneFail (d : Dev) (kind check : Nat) (u : HwUnit) : Dev := (d.failRetest kind check u 0 0).replaceUnit check u

end Sys2Proof.Machine
end

