-- ==== Sys2Proof/Machine/Formats.lean ====
section
/-!
DEFINITION. The block formats of Table 2.1: conversion into B4, B8, T2 and S1 (R55, R56), the reference block exponent (R528),
reading elements back (R42 to R48), and the Swatch record (R62).
-/

namespace Sys2Proof.Machine

/-- Element width in bits by format code (2 B8, 3 B4, 4 T2, 5 S1; Table 2.1). -/
def fmtWidth (c : Nat) : Nat := if c = 2 then 8 else if c = 3 then 4 else if c = 4 then 2 else 1

/-- Elements in a scale block (Table 2.1). -/
def fmtBlock (c : Nat) : Nat := if c = 2 then 32 else if c = 3 then 32 else 64

/-- Fraction shift (Table 2.1). -/
def fmtFrac (c : Nat) : Nat := if c = 2 then 6 else if c = 3 then 2 else 0

/-- Largest magnitude code (Table 2.1). -/
def fmtMax (c : Nat) : Nat := if c = 2 then 127 else if c = 3 then 7 else 1

/-- A format code names a block format. -/
def isBlockFmt (c : Nat) : Bool := decide (2 ≤ c) && decide (c ≤ 5)

/-- Magnitude bits of an FP32 word. -/
def mag32 (x : Nat) : Nat := x % 2 ^ 31

/-- Sign of an FP32 word. -/
def neg32 (x : Nat) : Bool := decide (2 ^ 31 ≤ x % 2 ^ 32)

/-- An FP32 word is NaN or infinite. -/
def nonfin32 (x : Nat) : Bool := decide (0x7F800000 ≤ mag32 x)

/-- Integer significand of a finite FP32 word. -/
def sig32 (x : Nat) : Nat := if mag32 x < 2 ^ 23 then mag32 x else mag32 x % 2 ^ 23 + 2 ^ 23

/-- Exponent of that significand. -/
def exp32 (x : Nat) : Int := if mag32 x < 2 ^ 23 then -149 else (mag32 x / 2 ^ 23 : Nat) - 150

/-- The floor of the base-2 logarithm of a nonzero finite FP32 magnitude. -/
def log32 (x : Nat) : Int := (Nat.log2 (sig32 x) : Int) + exp32 x

/-- The largest magnitude of a list of FP32 words, as bits. -/
def maxMag (xs : List Nat) : Nat := xs.foldl (fun a x => max a (mag32 x)) 0

/-- The exact quotient `|x| / 2^u`, rounded by mode 0 (nearest even), 1 (toward zero) or 2 (stochastic with a 16-bit `r`, R54). -/
def quot (mode : Nat) (r : Nat) (x : Nat) (u : Int) : Nat :=
  let sh := u - exp32 x
  if sh ≤ 0 then sig32 x * 2 ^ (-sh).toNat
  else if mode = 2 then
    let q := sig32 x / 2 ^ sh.toNat
    let fr := sig32 x % 2 ^ sh.toNat * 2 ^ 16 / 2 ^ sh.toNat
    if 2 ^ 16 ≤ fr + r then q + 1 else q
  else roundShift mode (sig32 x) sh.toNat false

/-- A converted scale block: exponent code, element codes, clamped and flushed elements, and the non-finite mark. -/
structure BlockOut where
  ecode : Nat
  codes : List Nat
  ovf : Nat
  flush : Nat
  nonfin : Bool
deriving DecidableEq, Repr

/-- The block of R47 for inputs that hold a NaN or an infinity. -/
def nonfinBlock (c : Nat) (xs : List Nat) : BlockOut :=
  { ecode := 255
    codes := xs.map fun x =>
      if fmtFrac c ≠ 0 && mag32 x == 0x7F800000 then fmtMax c + (if neg32 x then 2 ^ (fmtFrac c + 1) else 0) else 0
    ovf := 0, flush := 0, nonfin := true }

/-- Quotients of a block at an exponent code. -/
def blockQuots (f mode : Nat) (ecode : Nat) (xs : List Nat) (rs : List Nat) : List Nat :=
  (xs.zip (rs ++ List.replicate xs.length 0)).map fun p => quot mode p.2 p.1 ((ecode : Int) - 127 - f)

/-- R55: conversion into B4 or B8, with random numbers for stochastic rounding where the update engine asks for it. -/
def convertB (c mode : Nat) (xs : List Nat) (rs : List Nat) : BlockOut :=
  let f := fmtFrac c
  let mx := fmtMax c
  if xs.any nonfin32 then nonfinBlock c xs
  else
    let a := maxMag xs
    if a = 0 then { ecode := 0, codes := xs.map fun _ => 0, ovf := 0, flush := 0, nonfin := false }
    else
      let e0 := (max (log32 a + 127) 1).toNat
      let q0 := blockQuots f mode e0 xs rs
      let carry := decide (mx < q0.foldl max 0) && decide (e0 < 254)
      let e1 := if carry then e0 + 1 else e0
      let q1 := if carry then blockQuots f mode e1 xs rs else q0
      let q2 := q1.map fun q => min q mx
      { ecode := if q2.foldl max 0 = 0 then 0 else e1
        codes := (xs.zip q2).map fun p => if p.2 = 0 then 0 else p.2 + (if neg32 p.1 then 2 ^ (f + 1) else 0)
        ovf := (q1.filter fun q => decide (mx < q)).length
        flush := ((xs.zip q2).filter fun p => mag32 p.1 != 0 && p.2 == 0).length
        nonfin := false }

/-- R528: the exponent code that R55 writes in B8 under RNE. -/
def refExp (xs : List Nat) : Nat := (convertB 2 0 xs []).ecode

/-- The running FP32 sum of magnitudes, in index order (R56). -/
def sumMag (xs : List Nat) : Nat := xs.foldl (fun s x => (fadd fmt32 false s (mag32 x)).bits) 0

/-- R56 in S1 under stochastic rounding: `floor((v + 1) * 2^15) + r` reaches `2^16`, with `v` the FP32 value of the clamp of
`x / 2^u` to the range -1 to 1. -/
def s1Plus (x : Nat) (u : Int) (r : Nat) : Bool :=
  let w := roundMag 24 (-149) 0 (sig32 x) (exp32 x - u) false
  let mg := min w.mag 0x3F800000
  let e := exp32 mg + 15
  let num : Int := if neg32 x then -(sig32 mg : Int) else (sig32 mg : Int)
  let fl : Int := if 0 ≤ e then num * (2 ^ e.toNat : Nat) else num / (2 ^ (-e).toNat : Nat)
  decide (2 ^ 16 ≤ fl + 2 ^ 15 + r)

/-- R56: conversion into T2 (code 4) or S1 (code 5). -/
def convertT (c mode : Nat) (xs : List Nat) (rs : List Nat) : BlockOut :=
  if xs.any nonfin32 then nonfinBlock c xs
  else
    let s := sumMag xs
    if s = 0 then { ecode := 0, codes := xs.map fun _ => 0, ovf := 0, flush := 0, nonfin := false }
    else
      let e := if s = 0x7F800000 then 254 else (min (max (log32 s - 6 + 127) 1) 254).toNat
      let u : Int := (e : Int) - 127
      let xr := xs.zip (rs ++ List.replicate xs.length 0)
      if c = 4 then
        let ts := xr.map fun p => (p.1, min (quot mode p.2 p.1 u) 1)
        { ecode := e
          codes := ts.map fun p => if p.2 = 0 then 0 else if neg32 p.1 then 3 else 1
          ovf := 0
          flush := (ts.filter fun p => mag32 p.1 != 0 && p.2 == 0).length
          nonfin := false }
      else
        { ecode := e
          codes := xr.map fun p =>
            if mode = 2 then (if s1Plus p.1 u p.2 then 0 else 1) else (if neg32 p.1 && mag32 p.1 != 0 then 1 else 0)
          ovf := 0, flush := 0, nonfin := false }

/-- Conversion into the block format of a code. -/
def convertBlock (c mode : Nat) (xs rs : List Nat) : BlockOut :=
  if c = 2 || c = 3 then convertB c mode xs rs else convertT c mode xs rs

/-- An element as read: an integer in units of the block's scale, an infinity, or NaN (R43 to R48). -/
inductive Elem where
  | num (v : Int)
  | inf (neg : Bool)
  | nan
deriving DecidableEq, Repr

/-- Read an element code of a format at an exponent code (Table 2.2, R43 to R48). -/
def readElem (c ecode code : Nat) : Elem :=
  let f := fmtFrac c
  if ecode = 0 then .num 0
  else if ecode = 255 then
    (if f ≠ 0 && code % 2 ^ (f + 1) == fmtMax c then .inf (decide (2 ^ (f + 1) ≤ code)) else .nan)
  else if c = 4 then (if code = 1 then .num 1 else if code = 3 then .num (-1) else .num 0)
  else if c = 5 then (if code = 0 then .num 1 else .num (-1))
  else .num (if 2 ^ (f + 1) ≤ code then -((code % 2 ^ (f + 1) : Nat) : Int) else (code : Int))

/-- Widen an element to FP32 bits, exactly (R46). -/
def elemToF32 (c ecode : Nat) : Elem → Nat
  | .nan => 0x7FC00000
  | .inf neg => infBits fmt32 neg
  | .num v => if v = 0 then 0 else (fencode fmt32 false (.fin (decide (v < 0)) v.natAbs ((ecode : Int) - 127 - fmtFrac c))).bits

/-- Add to a word of a Swatch record, saturating (Table 2.6). -/
def swAdd (rec : SMap Word) (w n : Nat) : SMap Word := if n = 0 then rec else SMap.set rec w (satAdd (SMap.get 0 rec w) n)

/-- The word of Table 2.6 that counts a block with exponent code `e`. -/
def swBin (e : Nat) : Nat := if e = 0 then 0 else if e = 255 then 44 else 1 + (e - 1) / 6

/-- Count the spread of one block's elements (words 45 to 60). -/
def swSpread (rec : SMap Word) (top : Int) (xs : List Nat) : SMap Word :=
  xs.foldl (fun r x => if mag32 x = 0 then r else swAdd r (45 + min (top - log32 x).toNat 15) 1) rec

/-- Take one block or group of inputs into a local Swatch record (R62): `e` its exponent code, `zeros` the number of nonzero
inputs written as zero. -/
def swBlock (rec : SMap Word) (e : Nat) (xs : List Nat) (zeros : Nat) : SMap Word :=
  let r1 := swAdd rec (swBin e) 1
  if e = 255 then r1 else swAdd (swSpread r1 (log32 (maxMag xs)) xs) 61 zeros

/-- The largest finite magnitude of a list (R60). -/
def maxFin (xs : List Nat) : Nat := maxMag (xs.filter fun x => !nonfin32 x)

end Sys2Proof.Machine
end

