-- ==== Sys2Proof/Machine/MemOps.lean ====
section
/-!
DEFINITION. Physical memory: where an address lies (Table 20.1), blocks with their codes and glaze (R165 to R177), Shelf atomics
(Table 6.2); and translation: the walk (Table 7.3) and its caches (R187).
-/

namespace Sys2Proof.Machine

/-- The source unit of a block: its HBM row or its Shelf bank (Table 13.2, Table 13.8). -/
def srcUnit (pa : Nat) : HwUnit :=
  match locate pa with
  | .shelf die off => ⟨.shelfBank, 32 * die + off / 256 % 32⟩
  | _ => ⟨.hbmRow, stackOf pa * 2 ^ 28 + Config.hbmRow (stackOff pa) % 2 ^ 28⟩

/-- The glaze word held with a block (R174, R175): the CRC-32C of its bytes, or its inverse where a partial write met a mismatch (R177). -/
def Dev.glazeWord (d : Dev) (pa : Nat) : Word :=
  if inSet d.bad (pa / 256) then ~~~ crc32c (d.block pa) else crc32c (d.block pa)

/-- Physical address of a stack offset (R159). -/
def stackPa (stack off : Nat) : Nat := stack / 2 * hbmSpan + off / 1024 * 2048 + stack % 2 * 1024 + off % 1024

/-- The glaze array of a stack (R163, R175): the word held at stack offset `o`, for `o` from 126,000,000,000 up, in steps of 4. -/
def Dev.glazeArray (d : Dev) (stack o : Nat) : Word := d.glazeWord (stackPa stack ((o - 126000000000) / 4 * 256))

/-- CHECK of a failed read (Table 13.8): 6 an uncorrectable HBM codeword, 7 one of a Shelf, 5 a glaze mismatch (DEDUCED, log 72). -/
def Dev.readCheck (d : Dev) (pa : Nat) (u : Upset) : Nat :=
  match d.meets pa u with
  | .uncorrectable _ => (match locate pa with
    | .shelf _ _ => 7
    | _ => 6)
  | _ => 5

/-- An access by a tile, DMA, exchange engine, Wheel or walker that is refused (R164, R519): counted, and job-fatal. A Shelf out of use (R381) is
as a hole (DESIGN CHOICE, log 74). -/
def Dev.refuse (d : Dev) (pa : Nat) : Option Dev :=
  match locate pa with
  | .hbm _ _ => none
  | .shelf die _ => if d.shelfOut die then some ((d.bump (rHbmDecodeErr 0) 1).jobFatal) else none
  | .tail k => some ((d.bump (rHbmDecodeErr k) 1).jobFatal)
  | .beyond k => some ((d.bump (rHbmDecodeErr k) 1).jobFatal)
  | .window => some ((d.bump (rHbmDecodeErr 0) 1).jobFatal)
  | .hole => some ((d.bump (rHbmDecodeErr 0) 1).jobFatal)

/-- The unit charged when a fresh read fails (Table 13.2): the source, when its own code or glaze fails there; otherwise the reader's unit. -/
def Dev.readUnit (d : Dev) (pa : Nat) (u : Upset) (reader : Option HwUnit) : HwUnit :=
  match d.meets pa u with
  | .uncorrectable _ => srcUnit pa
  | _ => if d.glazeBad pa .clean then srcUnit pa else reader.getD (srcUnit pa)

/-- One block read by an agent whose whole work is one command: the walker, the Wheel, the exchange engine's sources, the update engine, a launch's
image. A mismatch has its one fresh read at once (R365; DESIGN CHOICE, log 73): a transient where that passes (R367), and otherwise a fault (R368). The
answer is whether the block is good. The Studio is no unit of Table 13.8, so its reads charge the source (`reader` none). -/
def Dev.readBlock (d : Dev) (reader : Option HwUnit) (pa : Nat) : Dev × Bool :=
  let u := d.takeCode.1
  let d1 := d.takeCode.2.readCounts pa u
  if !d1.glazeBad pa u then (d1, true)
  else
    let v := d1.takeCode.1
    let d2 := d1.takeCode.2.readCounts pa v
    if !d2.glazeBad pa v then (d2.transient (d1.readCheck pa u) (reader.getD (srcUnit pa)) pa 0, true)
    else (d2.unitFault (d2.readCheck pa v) (d2.readUnit pa v reader) pa 0, false)

/-- Write bytes over one or more blocks: whole blocks with new glaze, parts merged (R177, R448). `n` bounds the blocks. -/
def Dev.writeCut : Nat → Dev → Nat → List Byte → Dev
  | 0, d, _, _ => d
  | n + 1, d, pa, bs =>
    if bs.isEmpty then d
    else
      let room := 256 - pa % 256
      let part := bs.take room
      let d1 := if part.length = 256 then d.writeBlock pa part else d.takeCode.2.writePart pa part d.takeCode.1
      Dev.writeCut n d1 (pa + part.length) (bs.drop room)

/-- Write `n` bytes of 0. -/
def Dev.writeZeros (d : Dev) (pa n : Nat) : Dev := Dev.writeCut (n / 256 + 2) d pa (List.replicate n 0)

/-! ### Shelf atomics -/

/-- The atomic operations of Table 6.2. -/
inductive Atomic where
  | add64
  | add32
  | sadd32
  | umax32
deriving DecidableEq, Repr

/-- Width of an atomic in bytes. -/
def Atomic.width : Atomic → Nat
  | .add64 => 8
  | _ => 4

/-- Clamp to plus or minus `2^n - 1`, with the mark of a clamp. -/
def clampSym (n : Nat) (v : Int) : Int × Bool :=
  let m : Int := 2 ^ n - 1
  if v > m then (m, true) else if v < -m then (-m, true) else (v, false)

/-- A number of `n` bits as a signed integer. -/
def sInt (n v : Nat) : Int := if 2 ^ (n - 1) ≤ v % 2 ^ n then (v % 2 ^ n : Nat) - (2 ^ n : Nat) else (v % 2 ^ n : Nat)

/-- A signed integer as a number of `n` bits. -/
def uBits (n : Nat) (v : Int) : Nat := (v % (2 ^ n : Nat)).toNat

/-- Result of an atomic on a word, with the mark of a clamp (Table 6.2). -/
def Atomic.apply (op : Atomic) (old v : Nat) : Nat × Bool :=
  match op with
  | .add64 => let r := clampSym 63 (sInt 64 old + sInt 64 v); (uBits 64 r.1, r.2)
  | .add32 => let r := clampSym 31 (sInt 32 old + sInt 32 v); (uBits 32 r.1, r.2)
  | .sadd32 => (min (old + v) 0xFFFFFFFF, false)
  | .umax32 => (max old v, false)

/-- A Shelf atomic (R173): refused off its window or off its alignment, a fault at once on an uncorrectable codeword (R369). It reads its word without
glaze. -/
def Dev.atomic (d : Dev) (op : Atomic) (pa v : Nat) (u : Upset) : Dev :=
  match locate pa with
  | .hbm _ _ | .tail _ | .beyond _ => d.bump (rShfAtomReject (pa / hbmSpan)) 1
  | .window | .hole => (d.bump (rHbmDecodeErr 0) 1).jobFatal
  | .shelf die off =>
    if d.shelfOut die then (d.bump (rHbmDecodeErr 0) 1).jobFatal
    else if off % op.width ≠ 0 || !d.inWindow die off then d.bump (rShfAtomReject die) 1
    else
      let d1 := d.readCounts pa u
      match d.meets pa u with
      | .uncorrectable _ => d1.unitFault 7 ⟨.shelfBank, 32 * die + off / 256 % 32⟩ pa 0
      | _ =>
        let r := op.apply (leNat (Mem.bytes 0 d.mem pa op.width)) v
        (d1.store pa (toLe op.width r.1)).bump (rShfAtomSat die) (if r.2 then 1 else 0)

/-- A Shelf atomic of an agent, whose read meets the next outcome of the codes. -/
def Dev.atomicBy (d : Dev) (op : Atomic) (pa v : Nat) : Dev := d.takeCode.2.atomic op pa v d.takeCode.1

/-! ### Translation -/

/-- The outcome of translating one access. -/
inductive Trans where
  | ok (pa : Nat)
  | fault (cause level : Nat) (entry : BitVec 64)
  | dead
deriving DecidableEq, Repr

/-- Low bit of the index field of a level (Table 7.1). -/
def lvlShift (lv : Nat) : Nat := if lv = 3 then 39 else if lv = 2 then 30 else if lv = 1 then 21 else 16

/-- Index of an address at a level (Table 7.1). -/
def lvlIndex (lv va : Nat) : Nat :=
  if lv = 3 then va / 2 ^ 39 % 8192 else if lv = 0 then va / 2 ^ 16 % 32 else va / 2 ^ lvlShift lv % 512

/-- Alignment of a table of a level, by its size (Table 7.1). -/
def lvlTable (lv : Nat) : Nat := if lv = 3 then 65536 else if lv = 0 then 256 else 4096

/-- An access needs write permission. -/
def isWrite : Access → Bool
  | .read => false
  | _ => true

/-- Physical address field of an entry (Table 7.2). -/
def pteAddr (e : Nat) : Nat := e / 256 % 2 ^ 40 * 256

/-- The decision of Table 7.3 on one entry: a leaf's address, the next table, or a cause. -/
def pteDecide (lv : Nat) (e : Nat) (wr : Bool) : Sum Nat (Option Nat) :=
  let leaf := e / 2 % 2 = 1
  let a := pteAddr e
  if e % 2 = 0 then .inl 1
  else if e / 16 % 16 ≠ 0 || e / 2 ^ 48 % 256 ≠ 0 || (leaf && decide (lv = 3)) || (!leaf && decide (lv = 0))
      || (if leaf then decide (a % 2 ^ lvlShift lv ≠ 0) else decide (a % lvlTable (lv - 1) ≠ 0)) then .inl 3
  else if leaf then
    (if (if wr then e / 8 % 2 = 0 else e / 4 % 2 = 0) then .inl 2 else .inr (some a))
  else .inr none

/-- The walker of a C-die, as a unit that a check charges (Table 13.8). -/
def walkerOf (die : Nat) : HwUnit := ⟨.agentPath, 4 * die + 2⟩

/-- Walk from a table (R183 to R186), by the walker of a die. A table outside mappable memory, or an entry whose glaze fails its fresh read too, ends in a
fault of the path and not in a translation fault. -/
def Dev.walk (d : Dev) (die : Nat) : Nat → Nat → Nat → Bool → Trans × Option TlbEntry × Dev
  | 0, _, _, _ => (.dead, none, d)
  | n + 1, tbl, va, wr =>
    let pa := tbl + 8 * lvlIndex n va
    match d.refuse pa with
    | some d' => (.dead, none, d')
    | none =>
      match d.readBlock (some (walkerOf die)) pa with
      | (d1, false) => (.dead, none, d1)
      | (d1, true) =>
        let e := leNat (Mem.bytes 0 d1.mem pa 8)
        match pteDecide n e wr with
        | .inl c => (.fault c n (BitVec.ofNat 64 e), none, d1)
        | .inr (some a) =>
          (.ok (a + va % 2 ^ lvlShift n),
            some ⟨n, va / 2 ^ lvlShift n, a, decide (e / 4 % 2 = 1), decide (e / 8 % 2 = 1)⟩, d1)
        | .inr none => Dev.walk d1 die n (pteAddr e) va wr

/-- Walk from the root and count it (Table 7.11). -/
def Dev.walkRoot (d : Dev) (die va : Nat) (wr : Bool) : Trans × Option TlbEntry × Dev :=
  Dev.walk (d.bump rMmuWalks 1) die 4 (d.rd64 rMmuRootLo) va wr

/-- A cached entry that serves an access. -/
def tlbFind (l : List TlbEntry) (va : Nat) (wr : Bool) : Option TlbEntry :=
  l.find? fun e => e.page == va / 2 ^ lvlShift e.level && (if wr then e.wr else e.rd)

/-- Add an entry to a cache of `cap` entries; a full cache drops the entry that `Config.evict` names (DESIGN CHOICE, log 21). -/
def tlbAdd (cap : Nat) (l : List TlbEntry) (e : TlbEntry) : List TlbEntry :=
  if l.length < cap then e :: l else e :: delNth l (Config.evict l.length % cap)

/-- What a walk leaves in the caches (R187): its leaf, in the die's cache and the tile's own. -/
def walkCached (die : Nat) (t : Option Nat) : Trans × Option TlbEntry × Dev → Trans × Dev
  | (.ok pa, some e, d1) =>
    let d2 := { d1 with tlbD := SMap.set d1.tlbD die (tlbAdd 4096 (SMap.get [] d1.tlbD die) e) }
    (.ok pa,
      match t with
      | some x => { d2 with tlbT := SMap.set d2.tlbT x (tlbAdd 16 (SMap.get [] d2.tlbT x) e) }
      | none => d2)
  | (r, _, d1) => (r, d1)

/-- Translate an access of an agent on a die; `t` is the tile whose own cache it uses (R182 to R187). -/
def Dev.translate (d : Dev) (die : Nat) (t : Option Nat) (va : Nat) (acc : Access) : Trans × Dev :=
  let wr := isWrite acc
  if 2 ^ 52 ≤ va then (.fault 4 3 0, d)
  else if d.fld rMmuCtl 0 0 = 0 then (.fault 1 3 0, d)
  else
    let hitT := match t with
      | some x => tlbFind (SMap.get [] d.tlbT x) va wr
      | none => none
    match hitT with
    | some e => (.ok (e.pa + va % 2 ^ lvlShift e.level), d)
    | none =>
      match tlbFind (SMap.get [] d.tlbD die) va wr with
      | some e =>
        (.ok (e.pa + va % 2 ^ lvlShift e.level),
          match t with
          | some x => { d with tlbT := SMap.set d.tlbT x (tlbAdd 16 (SMap.get [] d.tlbT x) e) }
          | none => d)
      | none => walkCached die t ((d.bump rMmuTlbMiss 1).walkRoot die va wr)

/-! ### Parking -/

/-- An agent stops at its resumable point (R194): its access and what the walk stopped on are kept until it posts. -/
def Dev.park (d : Dev) (ag : Agent) (va : Nat) (acc : Access) (stream cause level : Nat) (entry : BitVec 64) : Dev :=
  { d with parks := d.parks ++ [⟨ag, va, acc, cause, level, stream, entry, none, false, false⟩] }

/-- An agent is parked. A tile's park belongs to the stream that faulted, which may be saved (R210). -/
def Dev.isParked (d : Dev) (ag : Agent) : Bool :=
  d.parks.any fun p => decide (p.agent = ag) &&
    (match ag with
     | .tile t => p.stream == (d.tile t).ctx.stream
     | _ => true)

end Sys2Proof.Machine
end

