-- ==== Sys2Proof/Machine/TileOps.lean ====
section
/-!
DEFINITION. The tile sequencer's shared operations: scalar registers, the instruction position with REPEAT, sticky bits, the tile
store, descriptors, vector registers and the vector queue's issue times.
-/

namespace Sys2Proof.Machine

/-- Logical tiles 0 to 4,799 (Table 0.2). -/
def tileOk (t : Nat) : Bool := decide (t < 4800)

/-- The tile issues its next instruction now: a program runs and nothing holds the sequencer. -/
def Dev.issuing (d : Dev) (t : Nat) : Bool :=
  decide ((d.tile t).ctx.run = .running) && decide ((d.tile t).busy = .none) && !d.isParked (.tile t)

/-- A tile instruction has its effect when its tile issues it (DESIGN CHOICE, log 1). -/
def Dev.issue (d : Dev) (t : Nat) (f : Dev → Dev) : Dev := if d.issuing t then f d else d

/-- The outcome of a tile instruction. -/
def State.instr (s : State) (t : Nat) (f : Dev → Dev) : Host.Outcome State Fault Refusal :=
  s.runIf (tileOk t) fun d => d.issue t f

/-- Bytes of the tile store (Table 0.2). -/
def tsSize : Nat := 262144

/-- Scalar register: SQ0 reads as zero. -/
def Ctx.getSq (c : Ctx) (r : Nat) : BitVec 64 := if r % 32 = 0 then 0 else SMap.get 0 c.sq (r % 32)

/-- Write a scalar register: SQ0 ignores writes. -/
def Ctx.setSq (c : Ctx) (r : Nat) (v : BitVec 64) : Ctx := if r % 32 = 0 then c else { c with sq := SMap.set c.sq (r % 32) v }

/-- The position after an instruction, with the REPEATs whose last instruction it passes (R102). -/
def loopNext : List Loop → Nat → Nat × List Loop
  | [], next => (next, [])
  | l :: ls, next =>
    if next = l.stop then
      (if 1 < l.left then (l.first, { l with left := l.left - 1 } :: ls) else loopNext ls next)
    else ((loopNext ls next).1, l :: (loopNext ls next).2)

/-- Move past the instruction at the present position. -/
def Ctx.adv (c : Ctx) : Ctx :=
  let r := loopNext c.loops ((c.pc + 8) % tsSize)
  { c with pc := r.1, loops := r.2 }

/-- Move a tile past its instruction. -/
def Dev.adv (d : Dev) (t : Nat) : Dev := d.modCtx t Ctx.adv

/-- Set bits of a register. -/
def Dev.orReg (d : Dev) (off m : Nat) : Dev := d.wr off (d.rd off ||| BitVec.ofNat 32 m)

/-- Set bits of a register when a condition holds. -/
def Dev.orIf (d : Dev) (c : Bool) (off m : Nat) : Dev := if c then d.orReg off m else d

/-- TIL_STATUS bits (Table 3.12). -/
def stBadop : Nat := 1
/-- TIL_STATUS.MISALIGN. -/
def stMisalign : Nat := 2
/-- TIL_STATUS.FMTMIS. -/
def stFmtmis : Nat := 4
/-- TIL_STATUS.WRAP. -/
def stWrap : Nat := 8
/-- TIL_STATUS.BADIDX. -/
def stBadidx : Nat := 16
/-- TIL_LS_STATUS bits (Table 4.9): LSWRAP. -/
def lsWrap : Nat := 1
/-- TIL_LS_STATUS.LSALIGN. -/
def lsAlign : Nat := 2
/-- TIL_LS_STATUS.LSFMT. -/
def lsFmt : Nat := 4

/-- The tile runs in Underpainting mode (TIL_UPNT_STATUS.ACTIVE). -/
def Dev.upnt (d : Dev) (t : Nat) : Bool := d.fld (rTilUpntStatus t) 0 0 == 1

/-- An instruction outside the scope of Underpainting mode sets OUTSCOPE while that mode is active (R74). -/
def Dev.outscope (d : Dev) (t : Nat) : Dev := d.orIf (d.upnt t) (rTilUpntStatus t) 2

/-- An instruction that executes as NOP and sets BADOP; it takes no place in a queue and counts in no issue counter (DESIGN CHOICE, log 59). -/
def Dev.badop (d : Dev) (t : Nat) : Dev := (d.orReg (rTilStatus t) stBadop).adv t

/-- Read bytes of a tile store, wrapping (Table 4.8). -/
def Dev.tsRead (d : Dev) (t a n : Nat) : List Byte := Mem.bytesMod 0 tsSize (d.tile t).ctx.store a n

/-- Write bytes of a tile store, wrapping. -/
def Dev.tsWrite (d : Dev) (t a : Nat) (bs : List Byte) : Dev :=
  d.modCtx t fun c => { c with store := Mem.writeMod 0 tsSize c.store a bs }

/-- A vector register: 64 words, zero after reset (R106). -/
def Ctx.getV (c : Ctx) (r : Nat) : List Word := SMap.get (List.replicate 64 0) c.vt (r % 32)

/-- Write a vector register whole (R107). -/
def Ctx.setV (c : Ctx) (r : Nat) (v : List Word) : Ctx := { c with vt := SMap.set c.vt (r % 32) v }

/-- Vector register of a tile. -/
def Dev.getV (d : Dev) (t r : Nat) : List Word := (d.tile t).ctx.getV r

/-- A cube operand descriptor (Table 3.3). -/
structure Desc where
  ebase  : Nat
  xbase  : Nat
  epitch : Nat
  xpitch : Nat
  fmt    : Nat
deriving DecidableEq, Repr

/-- Fields of the 128 bits of a descriptor (Table 3.3). -/
def descOf (v : BitVec 128) : Desc :=
  let x := v.toNat
  { ebase := x % 2 ^ 18, xbase := x / 2 ^ 18 % 2 ^ 18, epitch := x / 2 ^ 36 % 2 ^ 18, xpitch := x / 2 ^ 64 % 2 ^ 18,
    fmt := x / 2 ^ 82 % 8 }

/-- Descriptor of a tile. -/
def Ctx.desc (c : Ctx) (n : Nat) : Desc := descOf (SMap.get 0 c.dsc (n % 8))

/-- Byte address, before wrapping, of element `(r, k)` of an operand in a format (R83). -/
def Desc.elemAddr (q : Desc) (c r k : Nat) : Nat := q.ebase + r * q.epitch + k * fmtWidth c / 8

/-- Byte address, before wrapping, of the exponent of element `(r, k)` (R83). -/
def Desc.expAddr (q : Desc) (c r k : Nat) : Nat := q.xbase + r * q.xpitch + k / fmtBlock c

/-! ### Duty of a tile's row -/

/-- Cycles of an 8 cc step in which a level accepts a pass (Table 3.10). -/
def rampAccepts (level i : Nat) : Bool :=
  if level = 0 then false
  else if level = 1 then i % 4 == 0
  else if level = 2 then i % 2 == 0
  else if level = 3 then i % 4 != 3
  else true

/-- Row of a tile in its die: 16 rows of 40 sites (R404, R405; DEDUCED, log 22). -/
def Dev.rowOf (d : Dev) (t : Nat) : Nat := d.siteOf ⟨.tile, t⟩ % 640 / 40

/-- Duty cap of a tile's row in quarters (R99). -/
def Dev.capOf (d : Dev) (t : Nat) : Nat := SMap.get 4 d.caps (16 * dieOf t + d.rowOf t)

/-! ### The vector queue -/

/-- The first cycle from `a` on in which a level accepts (R395): a row's windows begin at multiples of 8 cc (R405). -/
def levelFrom (level a : Nat) : Nat := a + ((List.range 4).find? fun i => rampAccepts level ((a + i) % 8)).getD 0

/-- The cycle from which a vector instruction's sources and unit let it issue (R112). Sources are given as register numbers. -/
def vIssue (v : VTimes) (cc : Nat) (srcs : List Nat) (quarter : Bool) : Nat :=
  let a := srcs.foldl (fun a r => max a (SMap.get 0 v.ready (r % 32))) (max v.next cc)
  if quarter then max a v.quart else a

/-- Account the issue of a vector instruction: VEC_ISSUED, VEC_DEP_STALLS and the times (R112). It issues in the first cycle that the level of the
tile's row accepts (R395), the level being that of the window in which the instruction comes (DESIGN CHOICE, log 49). -/
def Dev.vGo (d : Dev) (t : Nat) (srcs : List Nat) (quarter : Bool) (dst : Option Nat) (lat : Nat) : Dev :=
  let v := (d.tile t).vt
  let dep := vIssue v d.cc srcs quarter
  let at_ := levelFrom (d.capOf t) dep
  let v1 : VTimes :=
    { v with next := at_ + 1, quart := if quarter then at_ + 4 else v.quart, pend := (v.pend.filter fun x => decide (d.cc < x)) ++ [at_] }
  let v2 := match dst with
    | some r => { v1 with ready := SMap.set v1.ready (r % 32) (at_ + lat) }
    | none => v1
  ((d.bump (rVecDepStalls t) (dep - max v.next d.cc)).bump64 (rVecIssuedLo t) 1).modTile t fun x => { x with vt := v2 }

/-- The vector queue holds 8 instructions that have not issued (R112). -/
def VTimes.full (v : VTimes) (cc : Nat) : Bool := decide (8 ≤ (v.pend.filter fun x => decide (cc < x)).length)

/-- Registers that a load/store instruction writes (Table 4.7). -/
def LsInst.writes (i : LsInst) : List Nat :=
  match i.op with
  | .ldv | .ldvb => [i.f.vr.toNat]
  | .stv | .stvb => []

/-- Registers that a load/store instruction reads: the group its FMT fixes (R126). -/
def LsInst.reads (i : LsInst) : List Nat :=
  let n := match i.op with
    | .ldv | .ldvb => 0
    | .stv => 4
    | .stvb => if isBlockFmt (descOf i.dsc).fmt then fmtBlock (descOf i.dsc).fmt / 8 else 0
  (List.range n).map fun k => (i.f.vr.toNat + k) % 32

/-- A register transfer that waits in the load/store queue writes a register the instruction reads or writes, or reads the one it writes
(R113). -/
def Ctx.lsHazard (c : Ctx) (srcs : List Nat) (dst : Option Nat) : Bool :=
  c.lsq.any fun q =>
    match q with
    | .inst i => i.writes.any (fun r => inSet srcs r || decide (dst = some r)) || i.reads.any (fun r => decide (dst = some r))
    | _ => false

/-- A vector instruction cannot enter the vector queue now: the row's window is at level 0 and issues nothing (R395), the queue is full, which stalls
the sequencer (R112), or a hazard with the load/store queue holds it (R113; the sequencer waits with it, DESIGN CHOICE, log 60). -/
def Dev.vHeld (d : Dev) (t : Nat) (srcs : List (BitVec 5)) (dst : Option (BitVec 5)) : Bool :=
  d.capOf t == 0 || (d.tile t).vt.full d.cc || (d.tile t).ctx.lsHazard (srcs.map (·.toNat)) (dst.map (·.toNat))

end Sys2Proof.Machine
end

