-- ==== Sys2Proof/Machine/Swatch.lean ====
section
/-!
DEFINITION. The numeric watch of the store converters (R60 to R67): taking blocks into a converter's local record, closing it
into the tensor's slot in the Shelf, and the two commands that close.
-/

namespace Sys2Proof.Machine

/-- Key of word `w` of converter `n`'s local record. -/
def swKey (n w : Nat) : Nat := 64 * n + w

/-- Local record of a converter, words 0 to 61. -/
def Ctx.swRec (c : Ctx) (n : Nat) : SMap Word :=
  (c.sw.filter fun p => p.1 / 64 == n).map fun p => (p.1 % 64, p.2)

/-- Replace a converter's local record. -/
def Ctx.setSw (c : Ctx) (n : Nat) (r : SMap Word) : Ctx :=
  { c with sw := r.foldl (fun m p => SMap.set m (swKey n p.1) p.2) (c.sw.filter fun p => p.1 / 64 != n) }

/-- Raise a register to a larger value. -/
def Dev.maxReg (d : Dev) (off v : Nat) : Dev := if (d.rd off).toNat < v then d.wr off (BitVec.ofNat 32 v) else d

/-- One block or group passes converter `n` of tile `t` (R60 to R62): `e` its exponent code, `zeros` its nonzero inputs written as
zero. -/
def Dev.watch (d : Dev) (t n : Nat) (e : Nat) (xs : List Nat) (zeros : Nat) : Dev :=
  ((d.modCtx t fun c => c.setSw n (swBlock (c.swRec n) e xs zeros)).maxReg (rTilCvtRmax t n) (maxFin xs)).maxReg
    (rTilCvtEmax t n) e

/-- Swatch slot of a converter (Table 2.7). -/
def Dev.slotOf (d : Dev) (t n : Nat) : Nat := d.fld (rTilCvtFmt t n) 19 8

/-- The 64 words to merge: local counts, running maximum, exponent maximum (Table 2.6). -/
def Dev.swWords (d : Dev) (t n : Nat) : List (Nat × Nat) :=
  let r := (d.tile t).ctx.swRec n
  (List.range 64).map fun w =>
    (w, if w = 62 then (d.rd (rTilCvtRmax t n)).toNat else if w = 63 then (d.rd (rTilCvtEmax t n)).toNat
      else (SMap.get 0 r w).toNat)

/-- Merge by per-word atomics (R63, Table 2.6). Each word outside every atomic window is
rejected and counted (R173). -/
def Dev.swMerge (d : Dev) (die : Nat) (base : Nat) (ws : List (Nat × Nat)) : Dev :=
  ws.foldl (fun x p =>
    x.atomicBy (if p.1 = 62 || p.1 = 63 then .umax32 else .sadd32) (shelfPa die (base + 4 * p.1)) p.2) d

/-- Clear a converter's local record, running maximum and exponent maximum (R63). -/
def Dev.swClear (d : Dev) (t n : Nat) : Dev :=
  ((d.modCtx t fun c => c.setSw n []).wr (rTilCvtRmax t n) 0).wr (rTilCvtEmax t n) 0

/-- Close a Swatch slot of a converter (R63, R67). -/
def Dev.swCloseAt (d : Dev) (t n slot : Nat) : Dev :=
  let die := dieOf t
  let base := (d.rd (rSwtBase die)).toNat + 256 * slot
  let d1 := if min (d.rd (rSwtSlots die)).toNat 4096 ≤ slot || decide (0x4000000 < base + 256) then d.bump (rSwtDropped die) 1
    else d.swMerge die base (d.swWords t n)
  d1.swClear t n

end Sys2Proof.Machine
end

