-- ==== Sys2Proof/Machine/Elem.lean ====
section
/-!
DEFINITION. The quarter-rate functions of R111: correctly rounded FP32 exponentials, logarithms and hyperbolic tangent. Each is
enclosed between two fixed-point numbers with 256 fraction bits; when both ends round to the same FP32 value, that value is the
correctly rounded result. Exact cases are decided apart. The case in which the ends round differently is the open value
`Config.elemOpen` (DESIGN CHOICE, log 14).
-/

namespace Sys2Proof.Machine

/-- One in fixed point with 256 fraction bits. -/
def fxOne : Nat := 2 ^ 256

/-- Slack of an enclosure, in units of 2^-256: each of fewer than 128 terms is cut by less than 16 units, and the scaled
logarithm of two by less than 2^10 units. -/
def fxSlack : Nat := 2 ^ 24

/-- Sum of `z^(2i+1) / (2i+1)` over the next `n` terms; `pw` is the current odd power of `z`, `z2` its square. -/
def artanhFrom (z2 : Nat) : Nat → Nat → Nat → Nat → Nat
  | 0, _, _, acc => acc
  | n + 1, k, pw, acc => artanhFrom z2 n (k + 2) (pw * z2 / fxOne) (acc + pw / k)

/-- The inverse hyperbolic tangent of `a / b`, at most 1/3, in fixed point. -/
def artanhFx (a b : Nat) : Nat :=
  let z := a * fxOne / b
  artanhFrom (z * z / fxOne) 96 1 z 0

/-- The natural logarithm of 2 in fixed point. -/
def ln2Fx : Nat := 2 * artanhFx 1 3

/-- Sum of `r^i / i!` over the next `n` terms. -/
def expFrom (r : Nat) : Nat → Nat → Nat → Nat → Nat
  | 0, _, _, acc => acc
  | n + 1, k, term, acc => expFrom r n (k + 1) (term * r / fxOne / k) (acc + term)

/-- The exponential of a fixed-point number below 1. -/
def expFx (r : Nat) : Nat := expFrom r 72 1 fxOne 0

/-- An FP32 result with its marks from an enclosure of a positive number: `lo * 2^e` to `hi * 2^e`. -/
def enclose (op : Nat) (x : Nat) (neg : Bool) (lo hi : Nat) (e : Int) : FRes :=
  let a := roundMag 24 (-149) 0 lo e false
  let b := roundMag 24 (-149) 0 hi e false
  if a = b then { bits := signBit fmt32 neg + a.mag, ovf := if a.ovf then 1 else 0, ufl := if a.ufl then 1 else 0 }
  else { bits := (Config.elemOpen op (BitVec.ofNat 32 x)).toNat }

/-- `2^k * exp(r)` for fixed-point `r`. -/
def expScaled (op x : Nat) (k : Int) (r : Nat) : FRes :=
  let v := expFx r
  enclose op x false (v - fxSlack) (v + fxSlack) (k - 256)

/-- The fixed-point magnitude of `m * 2^e`, exact for `e` at least -256. -/
def fxOf (m : Nat) (e : Int) : Nat := shiftNat m (e + 256)

/-- Magnitude at least `2^n`. -/
def geExp (m : Nat) (e : Int) (n : Int) : Bool := decide (m ≠ 0) && decide (n ≤ (Nat.log2 m : Int) + e)

/-- Reduction of a signed fixed-point number by a positive modulus: quotient (toward minus infinity) and remainder. -/
def fxDivMod (neg : Bool) (x y : Nat) : Int × Nat :=
  if neg then (if x % y = 0 then (-((x / y : Nat) : Int), 0) else (-((x / y : Nat) : Int) - 1, y - x % y))
  else (((x / y : Nat) : Int), x % y)

/-- VEXP (R111, Table 4.3). -/
def fexp (bits : Nat) : FRes :=
  match fdecode 24 (-149) bits with
  | .nan => { bits := canonNan fmt32 false }
  | .inf neg => { bits := if neg then 0 else infBits fmt32 false }
  | .fin neg m e =>
    if m = 0 then { bits := 0x3F800000 }
    else if geExp m e 8 then (if neg then { bits := 0, ufl := 1 } else { bits := infBits fmt32 false, ovf := 1 })
    else match fxDivMod neg (fxOf m e) ln2Fx with
      | (k, r) => expScaled 0x18 bits k r

/-- VEXP2 (R111, Table 4.3); an integer power is exact. -/
def fexp2 (bits : Nat) : FRes :=
  match fdecode 24 (-149) bits with
  | .nan => { bits := canonNan fmt32 false }
  | .inf neg => { bits := if neg then 0 else infBits fmt32 false }
  | .fin neg m e =>
    if m = 0 then { bits := 0x3F800000 }
    else if geExp m e 8 then (if neg then { bits := 0, ufl := 1 } else { bits := infBits fmt32 false, ovf := 1 })
    else match fxDivMod neg (fxOf m e) fxOne with
      | (k, r) => if r = 0 then fencode fmt32 false (.fin false 1 k) else expScaled 0x19 bits k (r * ln2Fx / fxOne)

/-- The logarithm of `m * 2^e` in signed fixed point: `k ln 2 + ln y` with `y` from 1 up to 2. -/
def lnFx (m : Nat) (e : Int) : Int :=
  let l := Nat.log2 m
  let k : Int := (l : Int) + e
  k * (ln2Fx : Int) + ((2 * artanhFx (m - 2 ^ l) (m + 2 ^ l) : Nat) : Int)

/-- Encode a signed enclosure. -/
def encloseInt (op x : Nat) (v : Int) (e : Int) : FRes :=
  enclose op x (decide (v < 0)) (v.natAbs - fxSlack) (v.natAbs + fxSlack) e

/-- VLOG (R111, Table 4.3); the logarithm of 1 is exactly +0. -/
def flog (bits : Nat) : FRes :=
  match fdecode 24 (-149) bits with
  | .nan => { bits := canonNan fmt32 false }
  | .inf neg => if neg then genNan fmt32 false else { bits := infBits fmt32 false }
  | .fin neg m e =>
    if m = 0 then { bits := infBits fmt32 true }
    else if neg then genNan fmt32 false
    else if bits = 0x3F800000 then { bits := 0 }
    else encloseInt 0x1A bits (lnFx m e) (-256)

/-- VLOG2 (R111, Table 4.3); the logarithm of a power of two is exact. -/
def flog2 (bits : Nat) : FRes :=
  match fdecode 24 (-149) bits with
  | .nan => { bits := canonNan fmt32 false }
  | .inf neg => if neg then genNan fmt32 false else { bits := infBits fmt32 false }
  | .fin neg m e =>
    if m = 0 then { bits := infBits fmt32 true }
    else if neg then genNan fmt32 false
    else
      let k : Int := (Nat.log2 m : Int) + e
      if m = 2 ^ Nat.log2 m then fencode fmt32 false (.fin (decide (k < 0)) k.natAbs 0)
      else
        let v := lnFx m e
        let q := v.natAbs * fxOne / ln2Fx
        encloseInt 0x1B bits (if v < 0 then -(q : Int) else (q : Int)) (-256)

/-- VTANH (R111, Table 4.3): `(E - 1) / (E + 1)` with `E = exp(2|x|)`. Below 2^-13 the function differs from its argument by
less than a quarter of a unit in the last place, and from 16 upward it rounds to 1. -/
def ftanh (bits : Nat) : FRes :=
  match fdecode 24 (-149) bits with
  | .nan => { bits := canonNan fmt32 false }
  | .inf neg => { bits := 0x3F800000 + signBit fmt32 neg }
  | .fin neg m e =>
    if !geExp m e (-13) then { bits := bits }
    else if geExp m e 4 then { bits := 0x3F800000 + signBit fmt32 neg }
    else match fxDivMod false (2 * fxOf m e) ln2Fx with
      | (k, r) =>
        let ev := shiftNat (expFx r) k
        let sl := shiftNat fxSlack k
        enclose 0x1F bits neg ((ev - sl - fxOne) * fxOne / (ev + sl + fxOne) - 1)
          ((ev + sl - fxOne) * fxOne / (ev - sl + fxOne) + 1) (-256)

end Sys2Proof.Machine
end

