-- ==== Sys2Proof/Machine/Vector.lean ====
section
/-!
DEFINITION. The vector engine (the Brush): the operations of Table 4.2 with the results and counts of Table 4.3, native and in
Underpainting mode (R116), and the issue times of R112. VDRAIN stands with the cubes.
-/

namespace Sys2Proof.Machine

/-- The number in a 5-bit register field. -/
abbrev rn (r : BitVec 5) : Nat := r.toNat

/-- Elements as numbers. -/
def Dev.vals (d : Dev) (t : Nat) (r : BitVec 5) : List Nat := (d.getV t (rn r)).map (·.toNat)

/-- Write a vector register. -/
def Dev.putV (d : Dev) (t : Nat) (r : BitVec 5) (v : List Nat) : Dev :=
  d.modCtx t fun c => c.setV (rn r) (v.map (BitVec.ofNat 32))

/-- Raise the Brush's counters by what a list of results counts (R115). -/
def Dev.vCount (d : Dev) (t : Nat) (rs : List FRes) : Dev :=
  ((d.bump (rVecNanGen t) (rs.foldl (fun a r => a + r.nan) 0)).bump (rVecOvf t) (rs.foldl (fun a r => a + r.ovf) 0)).bump
    (rVecUfl t) (rs.foldl (fun a r => a + r.ufl) 0)

/-- A vector instruction whose results are `rs`: issue, count, write VD, move on. -/
def Dev.vDo (d : Dev) (t : Nat) (f : VecF) (srcs : List (BitVec 5)) (quarter : Bool) (lat : Nat) (rs : List FRes) : Dev :=
  ((((d.vGo t (srcs.map rn) quarter (some (rn f.vd)) lat).vCount t rs).putV t f.vd (rs.map (·.bits))).adv t)

/-- An instruction whose SUB is above `top` executes as NOP and sets BADOP (R109). -/
def Dev.subOk (d : Dev) (t : Nat) (f : VecF) (top : Nat) (k : Dev) : Dev := if f.sub.toNat ≤ top then k else d.badop t

/-- The outcome of a vector instruction that takes SUB values up to `top`, reads the registers `srcs` and writes VD: it waits while R112 or R113
holds it. -/
def State.vec (s : State) (t : Nat) (f : VecF) (top : Nat) (srcs : List (BitVec 5)) (k : Dev → Dev) : Host.Outcome State Fault Refusal :=
  s.instr t fun d => d.subOk t f top (if d.vHeld t srcs (some f.vd) then d else k d)

/-- Element-wise function of one register. -/
def Dev.v1 (d : Dev) (t : Nat) (f : VecF) (quarter : Bool) (lat : Nat) (g : Nat → FRes) : Dev :=
  d.vDo t f [f.va] quarter lat ((d.vals t f.va).map g)

/-- Element-wise function of two registers. -/
def Dev.v2 (d : Dev) (t : Nat) (f : VecF) (lat : Nat) (g : Nat → Nat → FRes) : Dev :=
  d.vDo t f [f.va, f.vb] false lat (((d.vals t f.va).zip (d.vals t f.vb)).map fun p => g p.1 p.2)

/-- Element-wise function of three registers. -/
def Dev.v3 (d : Dev) (t : Nat) (f : VecF) (lat : Nat) (g : Nat → Nat → Nat → FRes) : Dev :=
  d.vDo t f [f.va, f.vb, f.vc] false lat
    (((d.vals t f.va).zip ((d.vals t f.vb).zip (d.vals t f.vc))).map fun p => g p.1 p.2.1 p.2.2)

/-- The two BF16 lanes of an element through one function (R107). -/
def lanes (g : Nat → Nat → Nat → FRes) (a b c : Nat) : FRes :=
  let lo := g (a % 65536) (b % 65536) (c % 65536)
  let hi := g (a / 65536) (b / 65536) (c / 65536)
  { bits := lo.bits + hi.bits * 65536, nan := lo.nan + hi.nan, ovf := lo.ovf + hi.ovf, ufl := lo.ufl + hi.ufl }

/-- Results that count nothing. -/
def plain (v : Nat) : FRes := { bits := v }

/-- A mask element (R117). -/
def maskOf (b : Bool) : FRes := { bits := if b then 0xFFFFFFFF else 0 }

/-- A comparison, as FP32 or (SUB = 1) as signed INT32 (Table 4.2). -/
def vcmp (u : Bool) (sub : BitVec 4) (fp : Option Int → Bool) (a b : Nat) : FRes :=
  if sub = 1 then maskOf (fp (some (compareInt (sInt 32 a) (sInt 32 b)))) else maskOf (fp (fcmp fmt32 u a b))
where
  /-- Order of two integers. -/
  compareInt (x y : Int) : Int := if x < y then -1 else if x = y then 0 else 1

/-- An INT32 operation modulo 2^32 (Table 4.2). -/
def int2 (g : Word → Word → Word) (a b : Nat) : FRes := plain (g (BitVec.ofNat 32 a) (BitVec.ofNat 32 b)).toNat

/-- Two results of one step joined with the counts of the steps before. -/
def joinStep (op : Nat → Nat → FRes) (x y : FRes) : FRes :=
  let r := op x.bits y.bits
  { bits := r.bits, nan := x.nan + y.nan + r.nan, ovf := x.ovf + y.ovf + r.ovf, ufl := x.ufl + y.ufl + r.ufl }

/-- The fixed tree of R110 over eight elements. -/
def tree8 (op : Nat → Nat → FRes) (e : Nat → Nat) : FRes :=
  let p (i : Nat) : FRes := plain (e i)
  let s := joinStep op
  s (s (s (p 0) (p 1)) (s (p 2) (p 3))) (s (s (p 4) (p 5)) (s (p 6) (p 7)))

/-- Reduce each row (SUB = 0) or column (SUB = 1) and write the result to every element of it; each step of the tree counts
once. -/
def vreduce (op : Nat → Nat → FRes) (sub : BitVec 4) (v : List Nat) : List FRes :=
  let red (i : Nat) : FRes := tree8 op fun j => nth 0 v (if sub = 0 then 8 * i + j else 8 * j + i)
  let rs := (List.range 8).map red
  (List.range 64).map fun e =>
    let i := if sub = 0 then e / 8 else e % 8
    let first := if sub = 0 then decide (e % 8 = 0) else decide (e / 8 = 0)
    let r := nth (plain 0) rs i
    if first then r else plain r.bits

/-- An operand as Underpainting mode reads it: a subnormal is zero of the same sign (R72). -/
def p3In (x : Nat) : Nat := if decide (mag32 x < 2 ^ 23) then signBit fmt32 (neg32 x) else x

/-- A value of the P3 table method (R71, DESIGN CHOICE, log 13): the open pattern at the operand as R72 reads it, with NaN and subnormal results as
R72 writes them, and the counts that its value implies. `pole` says that the exact result at this input is infinite; `tiny` that it is not zero. -/
def p3Value (g : Word → Word) (x : Nat) (pole : Bool) (tiny : Bool) : FRes :=
  let v := fin fmt32 true x
  if isNan v then plain (canonNan fmt32 true)
  else
    let r := (fencode fmt32 true (fin fmt32 true (g (BitVec.ofNat 32 (p3In x))).toNat)).bits
    let infIn := decide (mag32 x = 0x7F800000)
    { bits := r
      nan := if mag32 r > 0x7F800000 then 1 else 0
      ovf := if mag32 r = 0x7F800000 && !infIn && !pole then 1 else 0
      ufl := if mag32 r = 0 && !infIn && tiny then 1 else 0 }

/-- Zero as Underpainting mode reads it. -/
def p3Zero (x : Nat) : Bool := decide (mag32 x < 2 ^ 23)

/-- VADD (Table 4.2). -/
def execVadd (t : Nat) (f : VecF) (s : State) : Host.Outcome State Fault Refusal :=
  s.vec t f 0 [f.va, f.vb] fun d => d.v2 t f 4 (fadd fmt32 (d.upnt t))

/-- VSUB (Table 4.2). -/
def execVsub (t : Nat) (f : VecF) (s : State) : Host.Outcome State Fault Refusal :=
  s.vec t f 0 [f.va, f.vb] fun d => d.v2 t f 4 (fsub fmt32 (d.upnt t))

/-- VMUL (Table 4.2). -/
def execVmul (t : Nat) (f : VecF) (s : State) : Host.Outcome State Fault Refusal :=
  s.vec t f 0 [f.va, f.vb] fun d => d.v2 t f 4 (fmul fmt32 (d.upnt t))

/-- VFMA (Table 4.2): fused natively, rounded twice in Underpainting mode (R116). -/
def execVfma (t : Nat) (f : VecF) (s : State) : Host.Outcome State Fault Refusal :=
  s.vec t f 0 [f.va, f.vb, f.vc] fun d => d.v3 t f 4 (fma fmt32 (d.upnt t) false)

/-- VFMS (Table 4.2). -/
def execVfms (t : Nat) (f : VecF) (s : State) : Host.Outcome State Fault Refusal :=
  s.vec t f 0 [f.va, f.vb, f.vc] fun d => d.v3 t f 4 (fma fmt32 (d.upnt t) true)

/-- VMIN (Tables 4.2 and 4.3). -/
def execVmin (t : Nat) (f : VecF) (s : State) : Host.Outcome State Fault Refusal :=
  s.vec t f 0 [f.va, f.vb] fun d => d.v2 t f 4 (fminmax fmt32 (d.upnt t) false)

/-- VMAX (Tables 4.2 and 4.3). -/
def execVmax (t : Nat) (f : VecF) (s : State) : Host.Outcome State Fault Refusal :=
  s.vec t f 0 [f.va, f.vb] fun d => d.v2 t f 4 (fminmax fmt32 (d.upnt t) true)

/-- VABS (Table 4.2); a NaN becomes canonical (R114). Table 2.11 does not cover it, so R74 governs in Underpainting mode (DEDUCED, log 61). -/
def execVabs (t : Nat) (f : VecF) (s : State) : Host.Outcome State Fault Refusal :=
  s.vec t f 0 [f.va] fun d =>
    (d.outscope t).v1 t f false 4 fun x => plain (if nonfin32 x && mag32 x != 0x7F800000 then canonNan fmt32 false else mag32 x)

/-- VNEG (Table 4.2); a NaN becomes canonical (R114). Table 2.11 does not cover it, so R74 governs in Underpainting mode (DEDUCED, log 61). -/
def execVneg (t : Nat) (f : VecF) (s : State) : Host.Outcome State Fault Refusal :=
  s.vec t f 0 [f.va] fun d =>
    (d.outscope t).v1 t f false 4 fun x => plain (if nonfin32 x && mag32 x != 0x7F800000 then canonNan fmt32 false else Nat.xor x (2 ^ 31))

/-- VADDS (Table 4.2): SA as FP32. -/
def execVadds (t : Nat) (f : VecF) (s : State) : Host.Outcome State Fault Refusal :=
  s.vec t f 0 [f.va] fun d => d.v1 t f false 4 fun x => fadd fmt32 (d.upnt t) x (((d.tile t).ctx.getSq (rn f.sa)).toNat % 2 ^ 32)

/-- VMULS (Table 4.2): SA as FP32. -/
def execVmuls (t : Nat) (f : VecF) (s : State) : Host.Outcome State Fault Refusal :=
  s.vec t f 0 [f.va] fun d => d.v1 t f false 4 fun x => fmul fmt32 (d.upnt t) x (((d.tile t).ctx.getSq (rn f.sa)).toNat % 2 ^ 32)

/-- VADD.H (Table 4.2): 128 BF16 lanes. -/
def execVaddH (t : Nat) (f : VecF) (s : State) : Host.Outcome State Fault Refusal :=
  s.vec t f 0 [f.va, f.vb] fun d => d.v2 t f 4 fun a b => lanes (fun x y _ => fadd fmt16 (d.upnt t) x y) a b 0

/-- VMUL.H (Table 4.2). -/
def execVmulH (t : Nat) (f : VecF) (s : State) : Host.Outcome State Fault Refusal :=
  s.vec t f 0 [f.va, f.vb] fun d => d.v2 t f 4 fun a b => lanes (fun x y _ => fmul fmt16 (d.upnt t) x y) a b 0

/-- VFMA.H (Table 4.2). -/
def execVfmaH (t : Nat) (f : VecF) (s : State) : Host.Outcome State Fault Refusal :=
  s.vec t f 0 [f.va, f.vb, f.vc] fun d => d.v3 t f 4 (lanes (fma fmt16 (d.upnt t) false))

/-- VDOT2 (Table 4.2, R73). -/
def execVdot2 (t : Nat) (f : VecF) (s : State) : Host.Outcome State Fault Refusal :=
  s.vec t f 0 [f.va, f.vb, f.vc] fun d => d.v3 t f 4 fun a b c => fdot2 (d.upnt t) (a % 65536) (b % 65536) (a / 65536) (b / 65536) c

/-- VEXP (R111; the P3 table method in Underpainting mode, R116). -/
def execVexp (t : Nat) (f : VecF) (s : State) : Host.Outcome State Fault Refusal :=
  s.vec t f 0 [f.va] fun d => d.v1 t f true 12 fun x => if d.upnt t then p3Value Config.p3Exp x false true else fexp x

/-- VEXP2 (R111); outside the scope of Underpainting mode (R116). -/
def execVexp2 (t : Nat) (f : VecF) (s : State) : Host.Outcome State Fault Refusal :=
  s.vec t f 0 [f.va] fun d => (d.outscope t).v1 t f true 12 fexp2

/-- VLOG (R111, R116). -/
def execVlog (t : Nat) (f : VecF) (s : State) : Host.Outcome State Fault Refusal :=
  s.vec t f 0 [f.va] fun d => d.v1 t f true 12 fun x => if d.upnt t then p3Value Config.p3Log x (p3Zero x) (decide (x ≠ 0x3F800000)) else flog x

/-- VLOG2 (R111); outside the scope of Underpainting mode (R116). -/
def execVlog2 (t : Nat) (f : VecF) (s : State) : Host.Outcome State Fault Refusal :=
  s.vec t f 0 [f.va] fun d => (d.outscope t).v1 t f true 12 flog2

/-- VRCP (R111, R116). -/
def execVrcp (t : Nat) (f : VecF) (s : State) : Host.Outcome State Fault Refusal :=
  s.vec t f 0 [f.va] fun d => d.v1 t f true 12 fun x => if d.upnt t then p3Value Config.p3Rcp x (p3Zero x) true else frcp x

/-- VSQRT (R111); outside the scope of Underpainting mode (R116). -/
def execVsqrt (t : Nat) (f : VecF) (s : State) : Host.Outcome State Fault Refusal :=
  s.vec t f 0 [f.va] fun d => (d.outscope t).v1 t f true 12 fsqrt

/-- VRSQRT (R111, R116). -/
def execVrsqrt (t : Nat) (f : VecF) (s : State) : Host.Outcome State Fault Refusal :=
  s.vec t f 0 [f.va] fun d => d.v1 t f true 12 fun x => if d.upnt t then p3Value Config.p3Rsqrt x (p3Zero x) true else frsqrt x

/-- VTANH (R111); outside the scope of Underpainting mode (R116). -/
def execVtanh (t : Nat) (f : VecF) (s : State) : Host.Outcome State Fault Refusal :=
  s.vec t f 0 [f.va] fun d => (d.outscope t).v1 t f true 12 ftanh

/-- VCMPEQ (Tables 4.2 and 4.3). -/
def execVcmpeq (t : Nat) (f : VecF) (s : State) : Host.Outcome State Fault Refusal :=
  s.vec t f 1 [f.va, f.vb] fun d => d.v2 t f 2 (vcmp (d.upnt t) f.sub (fun o => o == some 0))

/-- VCMPNE (Tables 4.2 and 4.3). -/
def execVcmpne (t : Nat) (f : VecF) (s : State) : Host.Outcome State Fault Refusal :=
  s.vec t f 1 [f.va, f.vb] fun d => d.v2 t f 2 (vcmp (d.upnt t) f.sub (fun o => o != some 0))

/-- VCMPLT (Tables 4.2 and 4.3). -/
def execVcmplt (t : Nat) (f : VecF) (s : State) : Host.Outcome State Fault Refusal :=
  s.vec t f 1 [f.va, f.vb] fun d => d.v2 t f 2 (vcmp (d.upnt t) f.sub (fun o => o == some (-1)))

/-- VCMPLE (Tables 4.2 and 4.3). -/
def execVcmple (t : Nat) (f : VecF) (s : State) : Host.Outcome State Fault Refusal :=
  s.vec t f 1 [f.va, f.vb] fun d => d.v2 t f 2 (vcmp (d.upnt t) f.sub (fun o => o == some (-1) || o == some 0))

/-- VCMPUN (Tables 4.2 and 4.3). -/
def execVcmpun (t : Nat) (f : VecF) (s : State) : Host.Outcome State Fault Refusal :=
  s.vec t f 1 [f.va, f.vb] fun d => d.v2 t f 2 (vcmp (d.upnt t) f.sub (fun o => o.isNone))

/-- VSEL (R117): va where any bit of vc is 1, vb elsewhere. -/
def execVsel (t : Nat) (f : VecF) (s : State) : Host.Outcome State Fault Refusal :=
  s.vec t f 0 [f.va, f.vb, f.vc] fun d => d.v3 t f 2 fun a b c => plain (if c = 0 then b else a)

/-- VCLASS (Table 4.4). -/
def execVclass (t : Nat) (f : VecF) (s : State) : Host.Outcome State Fault Refusal :=
  s.vec t f 0 [f.va] fun d => d.v1 t f false 2 fun x => plain (fclass x)

/-- VIADD (Table 4.2). -/
def execViadd (t : Nat) (f : VecF) (s : State) : Host.Outcome State Fault Refusal :=
  s.vec t f 0 [f.va, f.vb] fun d => d.v2 t f 2 (int2 (fun x y => x + y))

/-- VISUB (Table 4.2). -/
def execVisub (t : Nat) (f : VecF) (s : State) : Host.Outcome State Fault Refusal :=
  s.vec t f 0 [f.va, f.vb] fun d => d.v2 t f 2 (int2 (fun x y => x - y))

/-- VIMUL (Table 4.2). -/
def execVimul (t : Nat) (f : VecF) (s : State) : Host.Outcome State Fault Refusal :=
  s.vec t f 0 [f.va, f.vb] fun d => d.v2 t f 2 (int2 (fun x y => x * y))

/-- VAND (Table 4.2). -/
def execVand (t : Nat) (f : VecF) (s : State) : Host.Outcome State Fault Refusal :=
  s.vec t f 0 [f.va, f.vb] fun d => d.v2 t f 2 (int2 (fun x y => x &&& y))

/-- VOR (Table 4.2). -/
def execVor (t : Nat) (f : VecF) (s : State) : Host.Outcome State Fault Refusal :=
  s.vec t f 0 [f.va, f.vb] fun d => d.v2 t f 2 (int2 (fun x y => x ||| y))

/-- VXOR (Table 4.2). -/
def execVxor (t : Nat) (f : VecF) (s : State) : Host.Outcome State Fault Refusal :=
  s.vec t f 0 [f.va, f.vb] fun d => d.v2 t f 2 (int2 (fun x y => x ^^^ y))

/-- VSHL (Table 4.2). -/
def execVshl (t : Nat) (f : VecF) (s : State) : Host.Outcome State Fault Refusal :=
  s.vec t f 0 [f.va, f.vb] fun d => d.v2 t f 2 (int2 (fun x y => x <<< (y.toNat % 32)))

/-- VSHR (Table 4.2). -/
def execVshr (t : Nat) (f : VecF) (s : State) : Host.Outcome State Fault Refusal :=
  s.vec t f 0 [f.va, f.vb] fun d => d.v2 t f 2 (int2 (fun x y => x >>> (y.toNat % 32)))

/-- VSAR (Table 4.2). -/
def execVsar (t : Nat) (f : VecF) (s : State) : Host.Outcome State Fault Refusal :=
  s.vec t f 0 [f.va, f.vb] fun d => d.v2 t f 2 (int2 (fun x y => x.sshiftRight (y.toNat % 32)))

/-- VCVT.FI (Table 4.2): R58 with shift IMM[7:0], RNE; VEC_OVF counts clamps, VEC_UFL flushes, VEC_CVT_NONFIN NaN and infinite
inputs (Table 4.3); outside the scope of Underpainting mode (R74). -/
def execVcvtFi (t : Nat) (f : VecF) (s : State) : Host.Outcome State Fault Refusal :=
  s.vec t f 0 [f.va] fun d =>
    let rs := (d.vals t f.va).map (toInt32 0 (sInt 8 f.imm.toNat))
    ((d.outscope t).vDo t f [f.va] false 4 (rs.map fun r =>
      { bits := uBits 32 r.v, ovf := if r.ovf then 1 else 0, ufl := if r.flush then 1 else 0 })).bump
        (rVecCvtNonfin t) (rs.filter (·.nonfin)).length

/-- VCVT.IF (Table 4.2): RNE; outside the scope of Underpainting mode (R74). -/
def execVcvtIf (t : Nat) (f : VecF) (s : State) : Host.Outcome State Fault Refusal :=
  s.vec t f 0 [f.va] fun d => (d.outscope t).v1 t f false 4 fun x => plain (ofInt32 (BitVec.ofNat 32 x))

/-- VPACK.H (Table 4.2, R57): va to lanes 2e, vb to lanes 2e + 1. -/
def execVpackH (t : Nat) (f : VecF) (s : State) : Host.Outcome State Fault Refusal :=
  s.vec t f 0 [f.va, f.vb] fun d => d.v2 t f 4 fun a b =>
    let lo := toBf16 (d.upnt t) 0 a
    let hi := toBf16 (d.upnt t) 0 b
    { bits := lo.bits + hi.bits * 65536, ovf := lo.ovf + hi.ovf, ufl := lo.ufl + hi.ufl }

/-- VUNPK.H (Table 4.2): lane 2e (SUB = 0) or 2e + 1 (SUB = 1), exact. -/
def execVunpkH (t : Nat) (f : VecF) (s : State) : Host.Outcome State Fault Refusal :=
  s.vec t f 1 [f.va] fun d => d.v1 t f false 2 fun x => plain (ofBf16 (d.upnt t) (if f.sub = 1 then x / 65536 else x % 65536))

/-- VREDSUM (Table 4.2, R110). -/
def execVredsum (t : Nat) (f : VecF) (s : State) : Host.Outcome State Fault Refusal :=
  s.vec t f 1 [f.va] fun d => d.vDo t f [f.va] false 6 (vreduce (fadd fmt32 (d.upnt t)) f.sub (d.vals t f.va))

/-- VREDMAX (Table 4.2, R110). -/
def execVredmax (t : Nat) (f : VecF) (s : State) : Host.Outcome State Fault Refusal :=
  s.vec t f 1 [f.va] fun d => d.vDo t f [f.va] false 6 (vreduce (fminmax fmt32 (d.upnt t) true) f.sub (d.vals t f.va))

/-- VREDMIN (Table 4.2, R110). -/
def execVredmin (t : Nat) (f : VecF) (s : State) : Host.Outcome State Fault Refusal :=
  s.vec t f 1 [f.va] fun d => d.vDo t f [f.va] false 6 (vreduce (fminmax fmt32 (d.upnt t) false) f.sub (d.vals t f.va))

/-- VTRANS (Table 4.2). -/
def execVtrans (t : Nat) (f : VecF) (s : State) : Host.Outcome State Fault Refusal :=
  s.vec t f 0 [f.va] fun d => 
    let v := d.vals t f.va
    d.vDo t f [f.va] false 4 ((List.range 64).map fun e => plain (nth 0 v (8 * (e % 8) + e / 8)))

/-- VBCAST (Table 4.2). -/
def execVbcast (t : Nat) (f : VecF) (s : State) : Host.Outcome State Fault Refusal :=
  s.vec t f 0 [] fun d => d.vDo t f [] false 2 (List.replicate 64 (plain (((d.tile t).ctx.getSq (rn f.sa)).toNat % 2 ^ 32)))

/-- VEXT (Table 4.2): SD takes the zero-extended element IMM[5:0] of va. -/
def execVext (t : Nat) (f : VecF) (s : State) : Host.Outcome State Fault Refusal :=
  s.instr t fun d => d.subOk t f 0 <| if d.vHeld t [f.va] none then d else
    let x := nth 0 (d.vals t f.va) (f.imm.toNat % 64)
    (d.vGo t [rn f.va] false none 3).modCtx t fun c => (c.setSq (rn f.sd) (BitVec.ofNat 64 x)).adv

/-- VMOV (Table 4.2). -/
def execVmov (t : Nat) (f : VecF) (s : State) : Host.Outcome State Fault Refusal :=
  s.vec t f 0 [f.va] fun d => d.v1 t f false 2 plain

end Sys2Proof.Machine
end

