-- ==== Sys2Proof/Machine/LoadStore.lean ====
section
/-!
DEFINITION. Load/store instructions and the converters (R126 to R131), 2:4 packing (R134 to R139), block-zero maps (R149 to R152)
and Bisque stores and loads (R347 to R352).
-/

namespace Sys2Proof.Machine

/-- Scalar source SA of a load/store instruction. -/
def Dev.lsA (d : Dev) (t : Nat) (f : LsF) : Nat := ((d.tile t).ctx.getSq f.sa.toNat).toNat

/-- Scalar source SB. -/
def Dev.lsB (d : Dev) (t : Nat) (f : LsF) : Nat := ((d.tile t).ctx.getSq f.sb.toNat).toNat

/-- Account the tile-store word code of words read by a client at `addr` (R125): corrected words are counted; an uncorrectable word is a fault at
once (R369) and the transfer does not complete. -/
def Dev.withEccAt (d : Dev) (t addr : Nat) (e : Ecc) (k : Dev → Dev) : Dev :=
  match e with
  | .clean => k d
  | .corrected n => k (d.bump (rTilTsCorr t) n)
  | .uncorrectable => d.unitFault 8 ⟨.tile, t⟩ addr 0

/-- The same, for the instruction at the tile's position. -/
def Dev.withEcc (d : Dev) (t : Nat) (e : Ecc) (k : Dev → Dev) : Dev := d.withEccAt t (d.tile t).ctx.pc e k

/-- Mark a wrapped tile-store address (Table 4.8). -/
def Dev.lsWrapIf (d : Dev) (t top : Nat) : Dev := d.orIf (decide (tsSize < top)) (rTilLsStatus t) lsWrap

/-- Bytes of one row of LDV by LFMT (Table 4.6), or none for a reserved code. -/
def ldvRow (lf : Nat) : Option Nat := if lf = 0 || lf = 2 || lf = 6 then some 32 else if lf = 1 then some 16 else none

/-- The eight elements of one LDV row. -/
def ldvEls (u : Bool) (lf : Nat) (bs : List Byte) : List Nat :=
  (List.range 8).map fun c => if lf = 1 then ofBf16 u (field bs (2 * c) 2) else field bs (4 * c) 4

/-- The register transfer of an LDV (Table 4.7): 8 rows from the tile store, widened exactly. -/
def Dev.ldv (d : Dev) (t : Nat) (i : LsInst) : Dev :=
  match ldvRow i.f.lfmt.toNat with
  | none => (d.putV t i.f.vr (List.replicate 64 0)).orReg (rTilLsStatus t) lsFmt
  | some n => d.withEccAt t i.pc i.ecc fun d =>
    let v := (List.range 8).flatMap fun r => ldvEls (d.upnt t) i.f.lfmt.toNat (d.tsRead t (i.a + r * i.b) n)
    (d.lsWrapIf t (i.a + 7 * i.b + n)).putV t i.f.vr v

/-- The register transfer of an LDVB (Table 4.7): 8 by 8 elements of a block operand, widened exactly; outside the scope of Underpainting
mode. -/
def Dev.ldvb (d0 : Dev) (t : Nat) (i : LsInst) : Dev :=
  let d := d0.outscope t
  let c := (d.tile t).ctx
  let q := descOf i.dsc
  if !isBlockFmt q.fmt then (d.putV t i.f.vr (List.replicate 64 0)).orReg (rTilLsStatus t) lsFmt
  else d.withEccAt t i.pc i.ecc fun d =>
    let el (x y : Nat) : Nat :=
      let e := (Mem.get 0 c.store (q.expAddr q.fmt (i.a + x) (i.b + y) % tsSize)).toNat
      let w := fmtWidth q.fmt
      let b := (Mem.get 0 c.store (q.elemAddr q.fmt (i.a + x) (i.b + y) % tsSize)).toNat
      elemToF32 q.fmt e (readElem q.fmt e (b / 2 ^ ((i.b + y) * w % 8) % 2 ^ w))
    let v := (List.range 64).map fun x => el (x / 8) (x % 8)
    let top := max (q.elemAddr q.fmt (i.a + 7) (i.b + 7)) (q.expAddr q.fmt (i.a + 7) (i.b + 7)) + 1
    (d.lsWrapIf t top).putV t i.f.vr v

/-- Row `r` of a group of `n` registers: elements 8i to 8i + 7 from register i (Table 4.7). -/
def Dev.groupRow (d : Dev) (t : Nat) (vr : BitVec 5) (n r : Nat) : List Nat :=
  (List.range n).flatMap fun i => (((d.getV t (vr.toNat + i)).drop (8 * r)).take 8).map (·.toNat)

/-- Rounding mode of a converter, with BADRND (R53). -/
def Dev.cvtRound (d : Dev) (t n : Nat) : Nat × Dev :=
  let r := d.fld (rTilCvtFmt t n) 5 4
  (if r = 1 then 1 else 0, d.orIf (decide (2 ≤ r)) (rTilCvtStatus t n) 1)

/-- One row written by STV: its bytes, and the counts of overflows, flushes and non-finite inputs (R57, R58, Table 2.9). -/
structure RowOut where
  bytes  : List Byte
  ovf    : Nat
  flush  : Nat
  nonfin : Nat
deriving DecidableEq, Repr

/-- Convert a row to FP32 (0), BF16 (1) or INT32 (6). -/
def stvRow (u : Bool) (fmt mode : Nat) (k : Int) (xs : List Nat) : RowOut :=
  if fmt = 1 then
    let rs := xs.map (toBf16 u mode)
    ⟨rs.flatMap fun r => toLe 2 r.bits, rs.foldl (fun a r => a + r.ovf) 0, rs.foldl (fun a r => a + r.ufl) 0, 0⟩
  else if fmt = 6 then
    let rs := xs.map (toInt32 mode k)
    ⟨rs.flatMap fun r => toLe 4 (uBits 32 r.v), (rs.filter (·.ovf)).length, (rs.filter (·.flush)).length,
      (rs.filter (·.nonfin)).length⟩
  else ⟨xs.flatMap fun x => toLe 4 (canon32 u x), 0, 0, 0⟩

/-- Raise a converter's counters (R69). -/
def Dev.cvtCount (d : Dev) (t n ovf flush nonfin : Nat) : Dev :=
  ((d.bump (rTilCvtOvf t n) ovf).bump (rTilCvtFlush t n) flush).bump (rTilCvtNonfin t n) nonfin

/-- Rows `r` to 7 of a store, up to a row whose converter copies differ (R362). -/
def storeRows (f : Nat → Dev → Dev) (bad : List Nat) : Nat → Nat → Dev → Option Nat × Dev
  | 0, _, d => (none, d)
  | n + 1, r, d => if inSet bad r then (some r, d) else storeRows f bad n (r + 1) (f r d)

/-- The store of STV (R127, R128): 8 rows of 32 elements; each row is one Swatch group. Answers the row at which the converter copies
differ. -/
def Dev.stv (d : Dev) (t : Nat) (i : LsInst) : Option Nat × Dev :=
  let n := i.f.cvt.toNat
  let fmt := d.fld (rTilCvtFmt t n) 2 0
  if isBlockFmt fmt || d.fld (rTilCvtSpmeta t n) 31 31 = 1 then (none, d.orReg (rTilLsStatus t) lsFmt)
  else
    let m := d.cvtRound t n
    let k := sInt 8 (d.fld (rTilCvtFmt t n) 31 24)
    let w := if fmt = 1 then 64 else 128
    let d1 := (m.2.orIf (fmt == 7) (rTilCvtStatus t n) 2).lsWrapIf t (i.a + 7 * i.b + w)
    storeRows (fun r x =>
      let xs := d.groupRow t i.f.vr 4 r
      let o := stvRow (d.upnt t) fmt m.1 k xs
      ((x.tsWrite t (i.a + r * i.b) o.bytes).cvtCount t n o.ovf o.flush o.nonfin).watch t n (refExp xs) xs o.flush)
      i.bad (8 - i.row) i.row d1

/-- Codes packed into bytes of `8 / w` elements, first element lowest (R41). -/
def packCodes (w : Nat) : List Nat → List Byte
  | a :: b :: c :: e :: g :: h :: i :: j :: rest =>
    if w = 8 then toLe 8 (a + b * 2 ^ 8 + c * 2 ^ 16 + e * 2 ^ 24 + g * 2 ^ 32 + h * 2 ^ 40 + i * 2 ^ 48 + j * 2 ^ 56) ++ packCodes w rest
    else toLe w (a + b * 2 ^ w + c * 2 ^ (2 * w) + e * 2 ^ (3 * w) + g * 2 ^ (4 * w) + h * 2 ^ (5 * w) + i * 2 ^ (6 * w)
      + j * 2 ^ (7 * w)) ++ packCodes w rest
  | _ => []

/-- Positions a 2:4 group keeps (R135): the two largest of three or four nonzero codes (the lower position between equals), or the
nonzero ones filled up with the lowest unused positions. -/
def keepTwo (c : Nat) (g : List Nat) : Nat × Nat :=
  let mg (p : Nat) : Nat := nth 0 g p % 2 ^ (fmtFrac c + 1)
  let beats (p q : Nat) : Bool := decide (mg q < mg p) || (mg p == mg q && decide (p < q))
  let rank (p : Nat) : Nat := ((List.range 4).filter fun q => q != p && beats q p).length
  let ks := (List.range 4).filter fun p => decide (rank p < 2)
  (nth 0 ks 0, nth 0 ks 1)

/-- Nonzero codes of a group. -/
def nzCount (g : List Nat) : Nat := (g.filter (· != 0)).length

/-- Groups of four of a list. -/
def groups4 : List Nat → List (List Nat)
  | a :: b :: c :: e :: rest => [a, b, c, e] :: groups4 rest
  | _ => []

/-- A packed block: element codes, metadata nibbles, groups that dropped codes (R135 to R138). -/
def pack24 (c : Nat) (codes : List Nat) : List Nat × List Nat × Nat :=
  let gs := groups4 codes
  (gs.flatMap fun g => let k := keepTwo c g; [nth 0 g k.1, nth 0 g k.2],
    gs.map fun g => let k := keepTwo c g; k.1 + 4 * k.2,
    (gs.filter fun g => decide (2 < nzCount g)).length)

/-- The store of STVB (R127, R134 to R139): one scale block in each of 8 rows. Answers the row at which the converter copies differ. -/
def Dev.stvb (d0 : Dev) (t : Nat) (i : LsInst) : Option Nat × Dev :=
  let d := d0.outscope t
  let n := i.f.cvt.toNat
  let q := descOf i.dsc
  let c := q.fmt
  let pack := d.fld (rTilCvtSpmeta t n) 31 31 = 1
  if !isBlockFmt c || (pack && decide (4 ≤ c)) then (none, d.orReg (rTilLsStatus t) lsFmt)
  else
    let m := d.cvtRound t n
    let b := fmtBlock c
    let k := i.b / b * b
    let w := fmtWidth c
    let mb := d.fld (rTilCvtSpmeta t n) 17 0
    let mp := (d.rd (rTilCvtSppitch t n)).toNat
    let ea (r : Nat) : Nat := q.ebase + (i.a + r) * q.epitch + (if pack then k / 2 else k) * w / 8
    let len := b * w / 8 / (if pack then 2 else 1)
    let top := max (max (ea 7 + len) (q.expAddr c (i.a + 7) k + 1)) (if pack then mb + (i.a + 7) * mp + k / 8 + 4 else 0)
    let d1 := (m.2.orIf (i.b != k) (rTilStatus t) stMisalign).lsWrapIf t top
    storeRows (fun r x =>
      let xs := d.groupRow t i.f.vr (b / 8) r
      let o := convertBlock c m.1 xs []
      let x1 := x.tsWrite t (q.expAddr c (i.a + r) k) (toLe 1 o.ecode)
      let x2 := if pack then
          let pk := pack24 c o.codes
          ((x1.tsWrite t (ea r) (packCodes w pk.1)).tsWrite t (mb + (i.a + r) * mp + k / 8) (packCodes 4 pk.2.1)).bump
            (rTilOverfullGroups t) pk.2.2
        else x1.tsWrite t (ea r) (packCodes w o.codes)
      (x2.cvtCount t n o.ovf o.flush (if o.nonfin then 1 else 0)).watch t n o.ecode xs o.flush)
      i.bad (8 - i.row) i.row d1

/-! ### Maps in the tile store -/

/-- Bit `i` of a map at a tile-store offset (R149). -/
def Dev.mapBit (d : Dev) (t base i : Nat) : Bool :=
  (Mem.get 0 (d.tile t).ctx.store ((base + i / 8) % tsSize)).toNat.testBit (i % 8)

/-- Write bit `i` of a map. -/
def Dev.setMapBit (d : Dev) (t base i : Nat) (v : Bool) : Dev :=
  let a := (base + i / 8) % tsSize
  let b := (Mem.get 0 (d.tile t).ctx.store a).toNat
  let b' := if b.testBit (i % 8) = v then b else Nat.xor b (2 ^ (i % 8))
  d.tsWrite t a (toLe 1 b')

/-- Block index of an address in the region of the zero maps, if it lies within it (R150). -/
def Dev.zIndex (d : Dev) (t a : Nat) : Option Nat :=
  let b := d.rd64 (rTilZbaseLo t)
  let n := min (d.rd (rTilZlen t)).toNat 65536
  if b ≤ a && decide ((a - b) / 256 < n) then some ((a - b) / 256) else none

/-- Compare an LDT block with the predicted map (R151, R152). -/
def Dev.zCheck (d : Dev) (t i : Nat) (zero : Bool) : Dev :=
  if d.fld (rTilZctl t) 1 1 = 0 then d
  else
    let pred := d.mapBit t (d.rd (rTilZpredTs t)).toNat i
    if pred && !zero then
      let d1 := d.bump (rTilZmiss t) 1
      if d.fld (rTilZctl t) 2 2 = 1 then d1
      else
        let fill := (d.rd (rTilZcorrFill t)).toNat
        if fill = (d.rd (rTilZcorrCap t)).toNat then d1.orReg (rTilZctl t) 8
        else (d1.tsWrite t ((d.rd (rTilZcorrTs t)).toNat + 4 * fill) (toLe 4 i)).wr (rTilZcorrFill t) (BitVec.ofNat 32 ((fill + 1) % 2 ^ 16))
    else if !pred && zero then d.bump (rTilZextra t) 1
    else d

/-- Record a block's bit in the capture map (R150). -/
def Dev.zRecord (d : Dev) (t i : Nat) (zero : Bool) : Dev :=
  if d.fld (rTilZctl t) 0 0 = 0 then d else d.setMapBit t (d.rd (rTilZmapTs t)).toNat i zero

/-- A value, or what a function makes of it. -/
def onSome {α β : Type} (o : Option α) (b : β) (f : α → β) : β :=
  match o with
  | some a => f a
  | none => b

/-- Block-zero maps see a block at its logical address (R150 to R152, R352). -/
def Dev.zSee (d : Dev) (t a : Nat) (load : Bool) (bs : List Byte) : Dev :=
  onSome (d.zIndex t a) d fun i => ((if load then d.zCheck t i (allZero bs) else d)).zRecord t i (allZero bs)

/-- Logical block of an address in the Bisque range (R347). -/
def Dev.bsqIndex (d : Dev) (t a : Nat) : Option Nat :=
  let b := d.rd64 (rTilBsqLbaseLo t)
  let n := min (d.rd (rTilBsqLen t)).toNat 65536
  if b ≤ a && decide ((a - b) / 256 < n) then some ((a - b) / 256) else none

/-- Zero bits below `i` in the Bisque map (R350). -/
def Dev.bsqBelow (d : Dev) (t i : Nat) : Nat :=
  ((List.range i).filter fun j => !d.mapBit t (d.rd (rTilBsqMapTs t)).toNat j).length

/-- Set map bits `a` to `b - 1` to 1 (R348, R349). -/
def Dev.bsqFill (d : Dev) (t a b : Nat) : Dev :=
  iterFrom (fun i x => x.setMapBit t (d.rd (rTilBsqMapTs t)).toNat i true) (b - a) a d

/-- The segment closes (R349): the remaining map bits are marked zero. -/
def Dev.bsqEnd (t : Nat) (d : Dev) : Dev :=
  let n := min (d.rd (rTilBsqLen t)).toNat 65536
  (d.bsqFill t (d.rd (rTilBsqNext t)).toNat n).wr (rTilBsqNext t) (BitVec.ofNat 32 n)

/-! ### The load/store queue -/

/-- A tile's load/store queue. -/
def Dev.lsq (d : Dev) (t : Nat) : List LsQ := (d.tile t).ctx.lsq

/-- An instruction, which takes one of the 8 places of the queue; a close takes none. -/
def LsQ.real : LsQ → Bool
  | .xfer _ | .inst _ => true
  | .cvtClose _ _ | .bsqClose => false

/-- An STT. -/
def LsQ.isStt : LsQ → Bool
  | .xfer x => !x.load
  | _ => false

/-- An STV or STVB through converter `n`. -/
def LsQ.storesBy (n : Nat) : LsQ → Bool
  | .inst i => (i.op == .stv || i.op == .stvb) && i.f.cvt.toNat == n
  | _ => false

/-- An entry that writes the tile store: a load from memory, a store of registers, and an STT or a close that writes a map (R150, R348). -/
def Dev.lsWriter (d : Dev) (t : Nat) : LsQ → Bool
  | .xfer x => x.load || d.fld (rTilZctl t) 0 0 == 1 || d.fld (rTilBsqCtl t) 0 0 == 1
  | .inst i => i.op == .stv || i.op == .stvb
  | .cvtClose _ _ => false
  | .bsqClose => true

/-- Entry `k` may read or write the tile store now, so that reads and writes take effect in program order (R131): a writer when nothing is ahead
of it, a reader when no writer is. -/
def Dev.lsTurn (d : Dev) (t k : Nat) : Bool :=
  match (d.lsq t)[k]? with
  | none => false
  | some q => if d.lsWriter t q then !((d.lsq t).take k).any LsQ.real else !((d.lsq t).take k).any (d.lsWriter t)

/-- Retries of a tile's transfers behind entry `k`, which has left the queue. -/
def Dev.ldtShift (d : Dev) (t k : Nat) : Dev :=
  { d with retries := d.retries.map fun r =>
      match r.what with
      | .ldt a b => if a = t && k < b then { r with what := .ldt a (b - 1) } else r
      | _ => r }

/-- Entry `k` leaves the queue. -/
def Dev.lsDel (d : Dev) (t k : Nat) : Dev := (d.modCtx t fun c => { c with lsq := delNth c.lsq k }).ldtShift t k

/-- Replace entry `k`. -/
def Dev.lsSet (d : Dev) (t k : Nat) (q : LsQ) : Dev := d.modCtx t fun c => { c with lsq := setNth c.lsq k q }

/-- Enter the queue at its end. -/
def Dev.lsAdd (d : Dev) (t : Nat) (q : LsQ) : Dev := d.modCtx t fun c => { c with lsq := c.lsq ++ [q] }

/-- The transfer at position `k` of a tile's load/store queue. -/
def Dev.xfer? (d : Dev) (t k : Nat) : Option Xfer :=
  match (d.lsq t)[k]? with
  | some (.xfer x) => some x
  | _ => none

/-- A store's conversion is being retried (Table 13.2). -/
def Dev.storeHeld (d : Dev) (t : Nat) : Bool := d.retries.any fun r => decide (r.what = .store t)

/-- The tile saves a context. -/
def Busy.isSaving : Busy → Bool
  | .saving _ => true
  | _ => false

/-- An entry of the queue has started (Table 4.8). -/
def LsQ.started : LsQ → Bool
  | .xfer x => decide (0 < x.donE) || !x.held.isEmpty
  | .inst i => decide (0 < i.row)
  | .cvtClose _ _ | .bsqClose => true

/-- Entry `q` moves: the tile is not stopped and not parked; while a context is saved only an entry that has started goes on (Table 4.8), and
none during a restore or a firing. -/
def Dev.lsGo (d : Dev) (t : Nat) (q : LsQ) : Bool :=
  decide ((d.tile t).ctx.run ≠ .stopped) && !d.isParked (.tile t)
    && (decide ((d.tile t).busy = .none) || ((d.tile t).busy.isSaving && q.started))

/-- The transfer at position `k` may move a block now: instructions start in program order (R131). -/
def Dev.xferGo (d : Dev) (t k : Nat) (x : Xfer) : Bool := d.lsGo t (.xfer x) && ((d.lsq t).take k).all LsQ.started

/-- A store has written its rows, or waits for the retry of a row's conversion (R362). -/
def Dev.storeDone (t k : Nat) (i : LsInst) (r : Option Nat × Dev) : Dev :=
  match r.1 with
  | none => r.2.lsDel t k
  | some row =>
    (r.2.lsSet t k (.inst { i with row := row, bad := setDel i.bad row, ecc := .clean })).retry
      ⟨.store t, 3, ⟨.tile, t⟩, i.pc, 0⟩

/-- The register transfer at position `k`. -/
def Dev.instDo (d : Dev) (t k : Nat) (i : LsInst) : Dev :=
  match i.op with
  | .ldv => (d.ldv t i).lsDel t k
  | .ldvb => (d.ldvb t i).lsDel t k
  | .stv => d.withEccAt t i.pc i.ecc fun x => Dev.storeDone t k i (x.stv t i)
  | .stvb => d.withEccAt t i.pc i.ecc fun x => Dev.storeDone t k i (x.stvb t i)

/-- One block of a transfer has moved; a finished transfer leaves the queue. -/
def Dev.xferStep (d : Dev) (t k : Nat) (x : Xfer) : Dev :=
  if x.donE + 1 < x.len then d.lsSet t k (.xfer { x with donE := x.donE + 1 }) else d.lsDel t k

/-- The next block that has arrived for the LDT at position `k` reaches the tile store (R127, R151). -/
def Dev.ldtDeliver (d : Dev) (t k : Nat) (x : Xfer) (bs : List Byte) (rest : List (List Byte)) : Dev :=
  let top := x.ts + 256 * x.donE + 256
  (((d.lsWrapIf t top).tsWrite t (x.ts + 256 * x.donE) bs).zSee t (x.va + 256 * x.donE) true bs).xferStep t k { x with held := rest }

/-- What entry `k` can do now by itself: a register transfer in its turn, a block that has arrived, a close whose stores have passed. -/
def Dev.lsAct (d : Dev) (t k : Nat) : Option Dev :=
  match (d.lsq t)[k]? with
  | none => none
  | some (.inst i) => if d.lsGo t (.inst i) && d.lsTurn t k && !d.storeHeld t then some (d.instDo t k i) else none
  | some (.xfer x) =>
    match x.held with
    | b :: rest => if d.lsGo t (.xfer x) && d.lsTurn t k then some (d.ldtDeliver t k x b rest) else none
    | [] => none
  | some (.cvtClose n slot) => if ((d.lsq t).take k).any (LsQ.storesBy n) then none else some ((d.swCloseAt t n slot).lsDel t k)
  | some .bsqClose => if ((d.lsq t).take k).any LsQ.isStt then none else some ((Dev.bsqEnd t d).lsDel t k)

/-- The first of `n` entries from `k` on that can do something. -/
def Dev.lsFirst (d : Dev) (t : Nat) : Nat → Nat → Option Dev
  | 0, _ => none
  | n + 1, k =>
    match d.lsAct t k with
    | some e => some e
    | none => d.lsFirst t n (k + 1)

/-- Run what the queue can do, at most `fuel` actions. -/
def Dev.lsRun (t : Nat) : Nat → Dev → Dev
  | 0, d => d
  | n + 1, d =>
    match d.lsFirst t (d.lsq t).length 0 with
    | some e => Dev.lsRun t n e
    | none => d

/-- Actions that a queue holds at most: one an entry, and one a block that has arrived. -/
def lsWork (l : List LsQ) : Nat :=
  l.foldl (fun a q =>
    match q with
    | .xfer x => a + x.held.length + 1
    | _ => a + 1) 0

/-- Run everything that the queue can do now. -/
def Dev.lsDrain (t : Nat) (d : Dev) : Dev := Dev.lsRun t (lsWork (d.lsq t)) d

/-- A load/store instruction enters the queue and the sequencer moves on (R126, R131); a full queue of 8 stalls it. -/
def Dev.lsEnter (d : Dev) (t : Nat) (q : LsQ) (mark : Dev → Dev) : Dev :=
  if 8 ≤ ((d.lsq t).filter LsQ.real).length then d else Dev.lsDrain t (((mark d).lsAdd t q).adv t)

/-- The entry of a register transfer, with its sources read (R126). -/
def Dev.lsInst (d : Dev) (t : Nat) (op : LsOp) (f : LsF) (ecc : Ecc) (bad : List Nat) : LsQ :=
  .inst { op := op, f := f, a := d.lsA t f, b := d.lsB t f, dsc := SMap.get 0 (d.tile t).ctx.dsc (f.dsc.toNat % 8)
          pc := (d.tile t).ctx.pc, ecc := ecc, bad := bad }

/-- LDV (Table 4.7). -/
def execLdv (t : Nat) (f : LsF) (ecc : Ecc) (s : State) : Host.Outcome State Fault Refusal :=
  s.instr t fun d => d.lsEnter t (d.lsInst t .ldv f ecc []) id

/-- LDVB (Table 4.7). -/
def execLdvb (t : Nat) (f : LsF) (ecc : Ecc) (s : State) : Host.Outcome State Fault Refusal :=
  s.instr t fun d => d.lsEnter t (d.lsInst t .ldvb f ecc []) id

/-- STV (Table 4.7); `bad` are the rows at which the two copies of the converter differ (R362). -/
def execStv (t : Nat) (f : LsF) (ecc : Ecc) (bad : List Nat) (s : State) : Host.Outcome State Fault Refusal :=
  s.instr t fun d => d.lsEnter t (d.lsInst t .stv f ecc bad) id

/-- STVB (Table 4.7); `bad` are the rows at which the two copies of the converter differ (R362). -/
def execStvb (t : Nat) (f : LsF) (ecc : Ecc) (bad : List Nat) (s : State) : Host.Outcome State Fault Refusal :=
  s.instr t fun d => d.lsEnter t (d.lsInst t .stvb f ecc bad) id

/-- The entry of an LDT or STT: misaligned addresses are rounded down (R129). -/
def Dev.newXfer (d : Dev) (t : Nat) (f : LsF) (load : Bool) : Xfer :=
  { load := load, va := d.lsA t f / 256 * 256, ts := d.lsB t f / 256 * 256, len := f.len.toNat + 1, donE := 0 }

/-- Start an LDT or STT (R129, R131). -/
def Dev.startXfer (d : Dev) (t : Nat) (f : LsF) (load : Bool) : Dev :=
  d.lsEnter t (.xfer (d.newXfer t f load)) fun x =>
    x.orIf (d.lsA t f % 256 != 0 || d.lsB t f % 256 != 0) (rTilLsStatus t) lsAlign

/-- LDT (R127, R129). -/
def execLdt (t : Nat) (f : LsF) (s : State) : Host.Outcome State Fault Refusal := s.instr t fun d => d.startXfer t f true

/-- STT (R127, R129). -/
def execStt (t : Nat) (f : LsF) (s : State) : Host.Outcome State Fault Refusal := s.instr t fun d => d.startXfer t f false

/-- A CLOSE of the Bisque segment takes effect after every earlier STT has passed (R349). -/
def Dev.bsqClose (t : Nat) (d : Dev) : Dev :=
  if (d.lsq t).any LsQ.isStt then d.lsAdd t .bsqClose else Dev.bsqEnd t d

/-- A close of converter `n`'s slot takes effect after every earlier store through it has passed (R65). -/
def Dev.swClose (d : Dev) (t n : Nat) : Dev :=
  if (d.lsq t).any (LsQ.storesBy n) then d.lsAdd t (.cvtClose n (d.slotOf t n)) else d.swCloseAt t n (d.slotOf t n)

/-- CVT_CLOSE (R65): writing 1 to TIL_CVTn_FMT.CLOSE. -/
def execCvtClose (t n : Nat) (s : State) : Host.Outcome State Fault Refusal :=
  s.runIf (tileOk t && decide (n < 2)) fun d => d.swClose t n

/-- CVT_SLOT_CHANGE (R66): a SLOT value different from the current one closes the current slot once. -/
def execCvtSlotChange (t n : Nat) (slot : BitVec 12) (s : State) : Host.Outcome State Fault Refusal :=
  s.runIf (tileOk t && decide (n < 2)) fun d =>
    if d.slotOf t n = slot.toNat then d else (d.swClose t n).setFld (rTilCvtFmt t n) 19 8 slot.toNat

/-! ### Moving blocks -/

/-- A tile's transfer parks on a translation fault (R130). -/
def Dev.parkTile (d : Dev) (t va : Nat) (acc : Access) (cause level : Nat) (entry : BitVec 64) : Dev :=
  d.park (.tile t) va acc (d.tile t).ctx.stream cause level entry

/-- A block of the LDT at position `k` has arrived; it reaches the tile store in program order. -/
def Dev.ldtArrive (d : Dev) (t k : Nat) (x : Xfer) (bs : List Byte) : Dev :=
  Dev.lsDrain t (d.lsSet t k (.xfer { x with held := x.held ++ [bs] }))

/-- Read one block for an LDT from virtual address `va` (R176). -/
def Dev.ldtRead (d : Dev) (t k : Nat) (x : Xfer) (va : Nat) (u : Upset) : Dev :=
  match d.translate (dieOf t) (some t) va .read with
  | (.dead, d1) => d1
  | (.fault c l e, d1) => d1.parkTile t va .read c l e
  | (.ok pa, d1) =>
    match d1.refuse pa with
    | some d2 => d2
    | none =>
      let d2 := d1.readCounts pa u
      if d1.glazeBad pa u then d2.retry ⟨.ldt t k, d1.readCheck pa u, ⟨.tile, t⟩, pa, 0⟩
      else d2.ldtArrive t k x (d2.block pa)

/-- A retry of this transfer is outstanding. -/
def Dev.ldtHeld (d : Dev) (t k : Nat) : Bool := d.retries.any fun r =>
  match r.what with
  | .ldt a b => a == t && b == k
  | _ => false

/-- Move the next block of an LDT (R150, R151, R350, R351). -/
def Dev.ldtBlock (d : Dev) (t k : Nat) (x : Xfer) (u : Upset) : Dev :=
  let a := x.va + 256 * (x.donE + x.held.length)
  let ren := d.fld (rTilBsqCtl t) 1 1 = 1
  match (if ren then d.bsqIndex t a else none) with
  | none => d.ldtRead t k x a u
  | some i =>
    if d.fld (rTilBsqCtl t) 0 0 = 1 && decide ((d.rd (rTilBsqNext t)).toNat ≤ i) then
      (d.orReg (rTilBsqStatus t) 1).ldtArrive t k x zeroBlock
    else if d.mapBit t (d.rd (rTilBsqMapTs t)).toNat i then
      (d.bump (rTilBsqZfilled t) 1).ldtArrive t k x zeroBlock
    else d.ldtRead t k x (d.rd64 (rTilBsqPbaseLo t) + 256 * d.bsqBelow t i) u

/-- LDT_BLOCK_ARRIVAL (R129, R131, R151, R350): the next block of the LDT at position `k` of the load/store queue arrives; transfers may arrive in
any order, and a Bisque load, whose address depends on the map, comes in program order. -/
def execLdtBlockArrival (t k : Nat) (u : Upset) (us : List Upset) (s : State) : Host.Outcome State Fault Refusal :=
  s.runIfC us (tileOk t) fun d =>
    match d.xfer? t k with
    | none => d
    | some x =>
      let ordered := d.fld (rTilBsqCtl t) 1 1 = 1
      if !x.load || x.len ≤ x.donE + x.held.length || !d.xferGo t k x || d.ldtHeld t k || (ordered && !d.lsTurn t k) then d
      else d.ldtBlock t k x u

/-- Write one block of an STT at virtual address `va`, then go on with `k`. -/
def Dev.sttWrite (d : Dev) (t va : Nat) (bs : List Byte) (k : Dev → Dev) : Dev :=
  match d.translate (dieOf t) (some t) va .write with
  | (.dead, d1) => d1
  | (.fault c l e, d1) => d1.parkTile t va .write c l e
  | (.ok pa, d1) =>
    match d1.refuse pa with
    | some d2 => d2
    | none => k (d1.writeBlock pa bs)

/-- Move the next block of an STT (R150, R347, R348). -/
def Dev.sttBlock (d : Dev) (t k : Nat) (x : Xfer) : Dev :=
  let a := x.va + 256 * x.donE
  let ts := x.ts + 256 * x.donE
  let bs := d.tsRead t ts 256
  let fin (y : Dev) : Dev := Dev.lsDrain t (((y.lsWrapIf t (ts + 256)).zSee t a false bs).xferStep t k x)
  let wen := d.fld (rTilBsqCtl t) 0 0 = 1
  match (if wen then d.bsqIndex t a else none) with
  | none => d.sttWrite t a bs fin
  | some i =>
    let next := (d.rd (rTilBsqNext t)).toNat
    let mts := (d.rd (rTilBsqMapTs t)).toNat
    let wf := (d.rd (rTilBsqWfill t)).toNat
    let mark (y : Dev) (z : Bool) : Dev :=
      ((y.bsqFill t next i).setMapBit t mts i z).wr (rTilBsqNext t) (BitVec.ofNat 32 (i + 1))
    if i < next then fin (d.orReg (rTilBsqStatus t) 1)
    else if allZero bs then fin ((mark d true).bump (rTilBsqElided t) 1)
    else d.sttWrite t (d.rd64 (rTilBsqPbaseLo t) + 256 * wf) bs fun y =>
      fin ((mark y false).wr (rTilBsqWfill t) (BitVec.ofNat 32 ((wf + 1) % 2 ^ 17)))

/-- STT_BLOCK_WRITE (R127, R131, R150, R347): the next block of the STT at position `k` is read from the tile store, in its turn, and
written. -/
def execSttBlockWrite (t k : Nat) (ecc : Ecc) (us : List Upset) (s : State) : Host.Outcome State Fault Refusal :=
  s.runIfC us (tileOk t) fun d =>
    match d.xfer? t k with
    | none => d
    | some x =>
      if x.load || !d.xferGo t k x || !d.lsTurn t k then d
      else d.withEccAt t (x.va + 256 * x.donE) ecc fun d => d.sttBlock t k x

/-- BSQ_CLOSE (R349). -/
def execBsqClose (t : Nat) (s : State) : Host.Outcome State Fault Refusal := s.runIf (tileOk t) (Dev.bsqClose t)

end Sys2Proof.Machine
end

