-- ==== Sys2Proof/Machine/Cube.lean ====
section
/-!
DEFINITION. The cubes: operand slices (R79, R83), pass sums and non-finite contributions (R85, Table 3.5), the exact accumulators
(R86 to R89), the issue queue with its interlocks (R91 to R94), the current ramp (R96 to R99), and the accumulator drain (R118,
R119).
-/

namespace Sys2Proof.Machine

/-- Kp of a mode (Table 3.1). -/
def modeKp (m : Nat) : Nat := if m = 0 then 4 else if m = 1 then 4 else if m = 2 then 8 else 2

/-- Format code of operand A in a mode (Table 3.1). -/
def modeA (m : Nat) : Nat := if m = 0 then 3 else 2

/-- Format code of operand B in a mode (Table 3.1). -/
def modeB (m : Nat) : Nat := if m = 0 then 3 else if m = 1 then 4 else if m = 2 then 5 else 2

/-- A slice of one operand row: exponent code, elements, and whether an address wrapped. -/
structure Slice where
  e    : Nat
  els  : List Elem
  wrap : Bool
deriving DecidableEq, Repr

/-- One element of an operand (R83, R41). -/
def Ctx.readOp (c : Ctx) (q : Desc) (fc e r k : Nat) : Elem :=
  let w := fmtWidth fc
  let b := (Mem.get 0 c.store (q.elemAddr fc r k % tsSize)).toNat
  readElem fc e (b / 2 ^ (k * w % 8) % 2 ^ w)

/-- The slice of row `r`, columns `k0` to `k0 + kp - 1` (R79). -/
def Ctx.slice (c : Ctx) (q : Desc) (fc kp r k0 : Nat) : Slice :=
  let xa := q.expAddr fc r k0
  let e := (Mem.get 0 c.store (xa % tsSize)).toNat
  { e := e
    els := (List.range kp).map fun j => c.readOp q fc e r (k0 + j)
    wrap := decide (tsSize ≤ xa) || (List.range kp).any fun j => decide (tsSize ≤ q.elemAddr fc r (k0 + j)) }

/-- Merge of non-finite tags (Table 3.5): NaN wins, opposite infinities make NaN, 0 is finite. -/
def tagMerge (a b : Nat) : Nat := if a = 0 then b else if b = 0 then a else if a = b then a else 1

/-- Tag of the product of two elements, one of a non-finite block (Table 3.5). The table gives no row for the product of two infinities: it takes the
infinity of the product's sign (DESIGN CHOICE, log 63). -/
def tagProd : Elem → Elem → Nat
  | .nan, _ => 1
  | _, .nan => 1
  | .inf a, .inf b => if a != b then 3 else 2
  | .inf a, .num v => if v = 0 then 1 else if a != decide (v < 0) then 3 else 2
  | .num v, .inf a => if v = 0 then 1 else if a != decide (v < 0) then 3 else 2
  | .num _, .num _ => 0

/-- Integer of an element. -/
def elemInt : Elem → Int
  | .num v => v
  | _ => 0

/-- Exact pass sum (R75). -/
def passSum (a b : List Elem) : Int := (a.zip b).foldl (fun s p => s + elemInt p.1 * elemInt p.2) 0

/-- The residue of an element, from its sign and magnitude (Table 13.1). -/
def elemResidue (e : Elem) : Nat := residueSM (decide (elemInt e < 0)) (elemInt e).natAbs

/-- The residue of a pass sum, from those of the elements (Table 13.1). -/
def passResidue (a b : List Elem) : Nat :=
  (a.zip b).foldl (fun r p => residueAdd r (residueMul (elemResidue p.1) (elemResidue p.2))) 0

/-- Tag of a sum that is negated (R90). -/
def tagNeg (g : Nat) : Nat := if g = 2 then 3 else if g = 3 then 2 else g

/-- Contribution of one pair of rows in a mode (R85, R86, Table 3.5). -/
def contrib (m : Nat) (neg : Bool) (a b : Slice) : Contrib :=
  if a.e = 255 || b.e = 255 then
    let g := (a.els.zip b.els).foldl (fun t p => tagMerge t (tagProd p.1 p.2)) 0
    .nonfin (if neg then tagNeg g else g)
  else if a.e = 0 || b.e = 0 then .idle
  else
    let s := passSum a.els b.els
    let r := passResidue a.els b.els
    .sum (if neg then -s else s) ((a.e : Int) - 127 - fmtFrac (modeA m) + ((b.e : Int) - 127 - fmtFrac (modeB m)))
      (if neg then residueNeg r else r)

/-- Contributions of one cube: 16 pairs of its four A rows and four B rows, element `4i + j`. -/
def cubeCell (m : Nat) (neg : Bool) (as_ bs : List Slice) : List Contrib :=
  as_.flatMap fun a => bs.map fun b => contrib m neg a b

/-- Slices of 32 rows from `r0`, for the rows of the selected groups of four. -/
def Ctx.slices (c : Ctx) (q : Desc) (fc kp r0 k0 : Nat) (mask : BitVec 8) : List (List Slice) :=
  (List.range 8).map fun g =>
    if mask.getLsbD g then (List.range 4).map fun i => c.slice q fc kp (r0 + 4 * g + i) k0 else []

/-- Cubes an instruction selects: cube 8 cr + cc when both mask bits are 1 (Table 3.2). -/
def selected (f : CubeInsn) : List Nat :=
  (List.range 64).filter fun c => f.rmask.getLsbD (c / 8) && f.cmask.getLsbD (c % 8)

/-- One pass from two operand descriptors (R79). -/
def Ctx.onePass (c : Ctx) (f : CubeInsn) (m acc : Nat) (clr neg : Bool) (qa qb : Desc) (mA k0 nB : Nat) : Pass × Bool :=
  let kp := modeKp m
  let sa := c.slices qa (modeA m) kp mA k0 f.rmask
  let sb := c.slices qb (modeB m) kp nB k0 f.cmask
  ({ acc := acc, clr := clr
     cells := (selected f).map fun x => (x, cubeCell m neg (nth [] sa (x / 8)) (nth [] sb (x % 8))) },
    sa.any (fun l => l.any (·.wrap)) || sb.any (fun l => l.any (·.wrap)))

/-- The passes of an instruction, in order (R79; R90 and Table 3.6 in mode 4), with the wrap mark. -/
def Ctx.passesOf (c : Ctx) (q : CubeQ) : List Pass × Bool :=
  let f := q.f
  let m := f.mode.toNat
  let kp := modeKp m
  let k0 := q.k0 / kp * kp
  let ad := f.adesc.toNat
  let bd := f.bdesc.toNat
  if m ≤ 3 then
    let r := c.onePass f m f.acc.toNat f.clr false (c.desc ad) (c.desc bd) q.mA k0 q.nB
    ([r.1], r.2)
  else
    let a := f.acc.toNat / 2 * 2
    let ar := c.desc ad
    let ai := c.desc (ad + 1)
    let br := c.desc bd
    let bi := c.desc (bd + 1)
    let p1 := c.onePass f 3 a f.clr false ar br q.mA k0 q.nB
    let p2 := c.onePass f 3 a false (!f.conj) ai bi q.mA k0 q.nB
    let p3 := c.onePass f 3 (a + 1) f.clr f.conj ar bi q.mA k0 q.nB
    let p4 := c.onePass f 3 (a + 1) false false ai br q.mA k0 q.nB
    ([p1.1, p2.1, p3.1, p4.1], p1.2 || p2.2 || p3.2 || p4.2)

/-! ### Accumulators -/

/-- Counts of a pass: flushes, saturations, transitions to non-finite (Table 3.13). -/
structure AccCnt where
  flush  : Nat
  sat    : Nat
  nonfin : Nat
deriving DecidableEq, Repr

/-- `v * 2^n`, toward zero, with the mark of dropped nonzero bits (R86). -/
def shiftTz (v n : Int) : Int × Bool :=
  if 0 ≤ n then (v * (2 ^ n.toNat : Nat), false)
  else
    let k := (-n).toNat
    let q : Int := (v.natAbs / 2 ^ k : Nat)
    (if v < 0 then -q else q, decide (v.natAbs % 2 ^ k ≠ 0))

/-- Exponents of the used pairs that are largest (R86). -/
def topExp (cs : List Contrib) : Option Int :=
  cs.foldl (fun m c =>
    match c with
    | .sum _ p _ => some (match m with
      | none => p
      | some x => max x p)
    | _ => m) none

/-- Mark the non-finite contributions of a pass (R86, R88). -/
def accTags (a : Acc) (cs : List Contrib) : Acc × Nat :=
  let ts := (a.tag.zip cs).map fun p =>
    match p.2 with
    | .nonfin g => tagMerge p.1 g
    | _ => p.1
  let any := cs.any fun c =>
    match c with
    | .nonfin _ => true
    | _ => false
  ({ a with tag := ts, live := a.live || any },
    ((a.tag.zip ts).filter fun p => p.1 == 0 && p.2 != 0).length)

/-- Move the anchor up to `x` (R86). -/
def accMove (a : Acc) (x : Int) : Acc × Nat :=
  let sh := (a.v.zip a.tag).map fun p => if p.2 = 0 then shiftTz p.1 (a.x - x) else (p.1, false)
  let rs := (a.v.zip (a.tag.zip a.res)).map fun p => if p.2.1 = 0 then residueShift p.2.2 p.1 (a.x - x) else p.2.2
  ({ a with x := x, v := sh.map (·.1), res := rs }, (sh.filter (·.2)).length)

/-- The carried residue of one element after a contribution is added (Table 13.1). -/
def addResidue (a : Acc) (v : Int) (tag r : Nat) (c : Contrib) : Nat :=
  match c with
  | .sum s e q =>
    if tag = 0 then
      let u := v + (shiftTz s (e - a.x)).1
      if (clampSym 47 u).2 then residueClamp (decide (u < 0)) else residueAdd r (residueShift q s (e - a.x))
    else r
  | _ => r

/-- Add the used contributions (R86). -/
def accAdd (a : Acc) (cs : List Contrib) : Acc × Nat × Nat :=
  let rs := ((a.v.zip a.tag).zip cs).map fun p =>
    match p.2 with
    | .sum s e _ =>
      if p.1.2 = 0 then
        let t := shiftTz s (e - a.x)
        let c := clampSym 47 (p.1.1 + t.1)
        (c.1, t.2, c.2)
      else (p.1.1, false, false)
    | _ => (p.1.1, false, false)
  let qs := ((a.v.zip (a.tag.zip a.res)).zip cs).map fun p => addResidue a p.1.1 p.1.2.1 p.1.2.2 p.2
  ({ a with v := rs.map (·.1), res := qs }, (rs.filter (·.2.1)).length, (rs.filter (·.2.2)).length)

/-- R86: add one pass into an accumulator tile. -/
def addPass (a : Acc) (cs : List Contrib) : Acc × AccCnt :=
  let t := accTags a cs
  match topExp cs with
  | none => (t.1, ⟨0, 0, t.2⟩)
  | some pm =>
    let a1 := if t.1.anchored then t.1 else { t.1 with anchored := true, x := pm - 20, live := true }
    let mv := if a1.x < pm - 20 then accMove a1 (pm - 20) else (a1, 0)
    let ad := accAdd mv.1 cs
    (ad.1, ⟨mv.2 + ad.2.1, ad.2.2, t.2⟩)

/-- Key of an accumulator tile of a cube. -/
def accKey (cube acc : Nat) : Nat := 8 * cube + acc

/-- Accumulator tile of a cube; an unlisted one is empty (R89). -/
def Ctx.getAcc (c : Ctx) (cube acc : Nat) : Acc := SMap.get {} c.acc (accKey cube acc)

/-- Store an accumulator tile; an empty one is not listed. -/
def Ctx.setAcc (c : Ctx) (cube acc : Nat) (a : Acc) : Ctx :=
  { c with acc := if a.live || a.anchored then SMap.set c.acc (accKey cube acc) a else SMap.del c.acc (accKey cube acc) }

/-- Empty an accumulator tile (R89). -/
def Ctx.dropAcc (c : Ctx) (cube acc : Nat) : Ctx := { c with acc := SMap.del c.acc (accKey cube acc) }

/-- Apply a pass to one cube's accumulator tile. -/
def applyCell (p : Pass) (r : Ctx × AccCnt) (cell : Nat × List Contrib) : Ctx × AccCnt :=
  let a := if p.clr then {} else r.1.getAcc cell.1 p.acc
  let n := addPass a cell.2
  (r.1.setAcc cell.1 p.acc n.1, ⟨r.2.flush + n.2.flush, r.2.sat + n.2.sat, r.2.nonfin + n.2.nonfin⟩)

/-- An upset flips bits of an accumulator element, not of the residue carried with it, which has logic of its own (R363). -/
def Acc.flip (a : Acc) (e m : Nat) : Acc := { a with v := setNth a.v (e % 16) (flipInt 48 (nth 0 a.v (e % 16)) m) }

/-- The checker (R364): the first element whose carried residue differs from the residue of its value bits, as the pair of them. -/
def Acc.residueBad (a : Acc) : Option (Nat × Nat) :=
  ((a.res.zip a.v).map fun p => (p.1, residue15 p.2)).find? fun p => p.1 != p.2

/-- What a pass makes of the accumulators, where upsets flip bits of its results (cube, element, bits). -/
def Ctx.passed (c : Ctx) (p : Pass) (flips : List (Nat × Nat × Nat)) : Ctx × AccCnt :=
  let r := p.cells.foldl (applyCell p) (c, ⟨0, 0, 0⟩)
  (flips.foldl (fun y f =>
    if p.cells.any (fun x => x.1 == f.1) then y.setAcc f.1 p.acc ((y.getAcc f.1 p.acc).flip f.2.1 f.2.2) else y) r.1, r.2)

/-- The lowest cube of a pass whose results fail the residue check, with the carried and the computed residue (R364). -/
def Ctx.passBad (c : Ctx) (p : Pass) : Option (Nat × Nat × Nat) :=
  p.cells.findSome? fun x => (c.getAcc x.1 p.acc).residueBad.map fun r => (x.1, r.1, r.2)

/-- A pass that the check lets through is visible (cycle 7 of Table 3.7): its accumulators are written and its events counted. -/
def Dev.passDone (d : Dev) (t : Nat) (r : Ctx × AccCnt) : Dev :=
  (((d.modTile t fun x => { x with ctx := r.1, passes := x.passes.tail }).bump (rTilAccFlush t) r.2.flush).bump
    (rTilAccSat t) r.2.sat).bump (rTilAccNonfin t) r.2.nonfin

/-- DETAIL of a residue mismatch (Table 13.8): carried, computed. -/
def residueDetail (r : Nat × Nat) : Nat := r.1 + 16 * r.2

/-! ### The ramp -/

/-- Duty of a cube: the lower of its ramp level and of the cap level it has reached (R99). -/
def Ramp.duty (r : Ramp) : Nat := min r.level r.cap

/-- A cube that works is in its hold at this cycle (R98): it has let a cycle pass in which it would have accepted, since an instruction last named
it (DEDUCED, log 64). -/
def Ramp.inHold (r : Ramp) (cc : Nat) : Bool :=
  (List.range (min 8 (cc - r.seen))).any fun i => rampAccepts r.duty ((r.seen + i - r.base) % 8)

/-- A cube accepts a pass in this cycle (R96 to R99): an idle cube starts its ramp when the cap allows any duty; an instruction that arrives during
the hold or the step-down issues at once at the present duty. -/
def rampOk (r : Ramp) (cap cc : Nat) : Bool :=
  if r.level = 0 then decide (0 < cap)
  else decide (0 < r.duty) && (r.down || r.inHold cc || rampAccepts r.duty ((cc - r.base) % 8))

/-- A pass, or `n` of them in consecutive cycles, is accepted from this cycle on: an idle cube starts at level 1 under the cap of its row, and after a
hold or during a step-down the steps count from this cycle. -/
def rampUse (r : Ramp) (cap cc n : Nat) : Ramp :=
  if r.level = 0 then { level := 1, base := cc, seen := cc + n, down := false, cap := cap, cbase := cc }
  else { r with base := if r.down || r.inHold cc then cc else r.base, seen := cc + n, down := false }

/-- An instruction names the cube and waits in this cycle: a hold or a step-down ends (R98). -/
def rampWant (r : Ramp) (cc : Nat) : Ramp :=
  if r.level = 0 then r else { r with base := if r.down || r.inHold cc then cc else r.base, seen := max r.seen (cc + 1), down := false }

/-- Apply a function to the ramps of cubes. -/
def Tile.onRamps (x : Tile) (cs : List Nat) (f : Ramp → Ramp) : Tile :=
  { x with ramps := cs.foldl (fun m c => SMap.set m c (f (SMap.get {} m c))) x.ramps }

/-- A cube retry holds the issue queue (Table 13.2). -/
def Dev.cubeHeld (d : Dev) (t : Nat) : Bool := d.retries.any fun r =>
  match r.what with
  | .cubePass x => x == t
  | _ => false

/-- The accumulator tiles an instruction writes. -/
def accsOf (f : CubeInsn) : List Nat :=
  if f.mode = 4 then [f.acc.toNat / 2 * 2, f.acc.toNat / 2 * 2 + 1] else [f.acc.toNat]

/-- Sticky bits of Table 3.4 that an issue sets, but for WRAP. An instruction that performs no pass, for an empty mask or MODE 5 to 7, sets none of
them (DESIGN CHOICE, log 65). -/
def Dev.cubeSticky (d : Dev) (t : Nat) (q : CubeQ) : Dev :=
  let m := q.f.mode.toNat
  let c := (d.tile t).ctx
  let want (fc n : Nat) : Bool := (c.desc n).fmt != fc
  let bad := want (modeA m) q.f.adesc.toNat || want (modeB m) q.f.bdesc.toNat
    || (m == 4 && (want (modeA m) (q.f.adesc.toNat + 1) || want (modeB m) (q.f.bdesc.toNat + 1)))
  (d.orIf (q.k0 % modeKp m != 0 || (m == 4 && q.f.acc.toNat % 2 == 1)) (rTilStatus t) stMisalign).orIf bad (rTilStatus t) stFmtmis

/-- Issue the instruction at the head of the queue: read operands (R125), start its passes (R91), count it. One of mode 4 takes four issue cycles and
counts 4 with empty masks too (DESIGN CHOICE, log 65). -/
def Dev.cubeIssue (d : Dev) (t : Nat) (q : CubeQ) (rest : List CubeQ) : Dev :=
  let m := q.f.mode.toNat
  let n := if m = 4 then 4 else 1
  let work := decide (m ≤ 4) && !(selected q.f).isEmpty
  let d0 := d.modTile t fun x =>
    { x with cq := rest, qFree := d.cc + n, endSet := q.f.last, group := x.group + 1 }
  let d1 := (d0.bump64 (rCubIssuedLo t) n).outscope t
  if !work then d1.orIf (decide (5 ≤ m)) (rTilStatus t) stBadop
  else d1.withEcc t q.ecc fun d1 =>
    let ps := (d.tile t).ctx.passesOf q
    let d2 := (d1.cubeSticky t q).orIf ps.2 (rTilStatus t) stWrap
    d2.modTile t fun x =>
      { (x.onRamps (selected q.f) fun r => rampUse r (d.capOf t) d.cc n) with
        passes := x.passes ++ ps.1
        accLast := (accsOf q.f).foldl (fun l a => SMap.set l a (d.cc + n - 1 + 8)) x.accLast }

/-- Try to issue the head of a tile's cube issue queue in this cycle (R92, R93, R97): at most one attempt a cycle; a wait for a
dependence counts in CUB_DEP_STALLS, a wait for the ramp or cap in CUB_RAMP_LOST. A cycle of both waits counts as a wait for the dependence, and
only the first of a mode 4 instruction's four cycles is held to the ramp (DESIGN CHOICE, log 66). -/
def Dev.cubeTry (d : Dev) (t : Nat) : Dev :=
  let x := d.tile t
  match x.cq with
  | [] => d
  | q :: rest =>
    if d.cc < x.qFree || d.cubeHeld t then d
    else
      let wait (y : Dev) : Dev := y.modTile t fun z => { z with qFree := d.cc + 1 }
      let act := decide (q.f.mode.toNat ≤ 4) && !(selected q.f).isEmpty
      let want (y : Dev) : Dev := wait (y.modTile t fun z => z.onRamps (selected q.f) fun r => rampWant r d.cc)
      if act && (accsOf q.f).any (fun a => decide (d.cc < SMap.get 0 x.accLast a)) then want (d.bump (rCubDepStalls t) 1)
      else if act && (selected q.f).any (fun c => !rampOk (SMap.get {} x.ramps c) (d.capOf t) d.cc) then
        want (d.bump (rCubRampLost t) 1)
      else d.cubeIssue t q rest

/-- The cube issue queue is empty and every issued cube instruction is visible (R104). -/
def Dev.quiet (d : Dev) (t : Nat) : Bool := (d.tile t).cq.isEmpty && (d.tile t).passes.isEmpty

/-- TIL_GROUP_LIMIT; values below 256 act as 256 (Table 3.13). -/
def Dev.groupLimit (d : Dev) (t : Nat) : Nat := max 256 (d.fld (rTilGroupLimit t) 15 0)

/-- A request to take the tile waits and the limit is reached: the sequencer issues no cube instruction and drains (R104). -/
def Dev.forcing (d : Dev) (t : Nat) : Bool := !(d.tile t).reqs.isEmpty && decide (d.groupLimit t ≤ (d.tile t).group)

/-- CMM (R79 to R83): the sequencer reads AROW, KREG and BROW and places the instruction in the cube issue queue of 16; it issues
as soon as R92, R93 and R97 let it; `ecc` is what its operand reads will meet (R125). A full queue stalls the sequencer, and so does a forced drain (R104). -/
def execCmm (t : Nat) (f : CubeInsn) (ecc : Ecc) (s : State) : Host.Outcome State Fault Refusal :=
  s.instr t fun d =>
    let x := d.tile t
    if 16 ≤ x.cq.length || d.forcing t then d
    else
      let c := x.ctx
      let k0 := ((c.getSq f.kreg.toNat).toNat + f.kimm.toNat) % 2 ^ 64
      let q : CubeQ := ⟨f, (c.getSq f.arow.toNat).toNat, k0, (c.getSq f.brow.toNat).toNat, ecc⟩
      ((d.modTile t fun x => { x with cq := x.cq ++ [q], group := if d.quiet t && x.endSet then 0 else x.group }).adv t).cubeTry t

/-- Write the oldest pass in flight, in which upsets flip bits: where the residue check finds it, nothing is written and the pass has one retry. Of
several cubes that fail in one pass the lowest is charged (DESIGN CHOICE, log 11). -/
def Dev.passWrite (d : Dev) (t : Nat) (flips : List (Nat × Nat × Nat)) : Dev :=
  match (d.tile t).passes with
  | [] => d
  | p :: _ =>
    let r := (d.tile t).ctx.passed p flips
    match r.1.passBad p with
    | none => d.passDone t r
    | some b =>
      let u : HwUnit := ⟨.cube, 64 * t + b.1⟩
      d.retry ⟨.cubePass t, 1, u, (d.tile t).ctx.pc, residueDetail b.2⟩

/-- CUBE_PASS_WRITE (R86, R364): the oldest pass in flight is written, or, where a cube's residue differs, retried once. -/
def execCubePassWrite (t : Nat) (flips : List (Nat × Nat × Nat)) (s : State) : Host.Outcome State Fault Refusal :=
  s.runIf (tileOk t) fun d => if d.cubeHeld t then d else d.passWrite t flips

/-- The ramp level after a step of 8 cc (R96, R98): one lower in a step-down, one higher when an instruction named the cube in the step, else as it
was. -/
def Ramp.rise (r : Ramp) (cc : Nat) : Ramp :=
  if r.level = 0 || cc < r.base + 8 then r
  else
    let lv := if r.down then r.level - 1 else if r.base < r.seen then min 4 (r.level + 1) else r.level
    { r with level := lv, base := cc, down := r.down && decide (lv ≠ 0) }

/-- The cap level after a step of 8 cc (R99): one nearer to the cap of the row. -/
def Ramp.capStep (r : Ramp) (cap cc : Nat) : Ramp :=
  if r.cap = cap || cc < r.cbase + 8 then r
  else { r with cap := if cap < r.cap then r.cap - 1 else r.cap + 1, cbase := cc }

/-- A tile runs the test program of a firing: its partner is taken too (R372). -/
def Dev.inTest (d : Dev) (t : Nat) : Bool :=
  match (d.tile t).busy with
  | .firing u => decide ((d.tile u).busy = .firing t)
  | _ => false

/-- A cube of a tile that fires works, as far as its cap allows it: the test program's passes count in its duty and ramp (R373). -/
def Dev.testUse (d : Dev) (t : Nat) (r : Ramp) : Ramp :=
  if d.inTest t && rampOk r (d.capOf t) d.cc then rampUse r (d.capOf t) d.cc 1 else r

/-- CUBE_RAMP_STEP (R96, R98, R99): 8 cc after the last step, the duty of a cube moves one step toward its ramp and cap target. -/
def execCubeRampStep (t c : Nat) (s : State) : Host.Outcome State Fault Refusal :=
  s.runIf (tileOk t && decide (c < 64)) fun d =>
    d.modTile t fun x => x.onRamps [c] fun r => ((d.testUse t r).rise d.cc).capStep (d.capOf t) d.cc

/-- Cycles of the hold: CUB_RAMP_HOLD, of which values below 32 act as 32 (Table 3.15). -/
def Dev.rampHold (d : Dev) (t : Nat) : Nat := max 32 (d.fld (rCubRampHold t) 15 0)

/-- CUBE_RAMP_HOLD_EXPIRY (R98): the hold has passed with no instruction, and the cube takes its first step down. -/
def execCubeRampHoldExpiry (t c : Nat) (s : State) : Host.Outcome State Fault Refusal :=
  s.runIf (tileOk t && decide (c < 64)) fun d =>
    d.modTile t fun x => x.onRamps [c] fun r =>
      if r.level = 0 || r.down || decide (d.cc < r.seen + d.rampHold t) then r
      else { r with level := r.level - 1, down := decide (r.level ≠ 1), base := d.cc }

/-- CDESC (R82, Table 3.20). -/
def execCdesc (t dsc ra rb : Nat) (s : State) : Host.Outcome State Fault Refusal :=
  s.instr t fun d => d.modCtx t fun c =>
    { c with dsc := SMap.set c.dsc (dsc % 8) ((c.getSq rb) ++ (c.getSq ra)) }.adv

/-- A cube instruction that writes an accumulator tile is queued or in flight (R94). -/
def Tile.accBusy (x : Tile) (acc : Nat) : Bool :=
  x.cq.any (fun q => (accsOf q.f).any (· == acc)) || x.passes.any (fun p => p.acc == acc)

/-- CACC (R89, R94, Table 3.20): releases the tile in the selected cubes once every earlier writer is visible. -/
def execCacc (t acc : Nat) (rmask cmask : BitVec 8) (s : State) : Host.Outcome State Fault Refusal :=
  s.instr t fun d =>
    if (d.tile t).accBusy (acc % 8) then d
    else
      let cs := (List.range 64).filter fun c => rmask.getLsbD (c / 8) && cmask.getLsbD (c % 8)
      d.modCtx t fun c => (cs.foldl (fun y k => y.dropAcc k (acc % 8)) c).adv

/-! ### Draining -/

/-- Conversion of one accumulator element (R119). -/
def drainElem (a : Acc) (e : Nat) : FRes :=
  if !a.live then { bits := 0 }
  else
    let tag := nth 0 a.tag e
    let v := nth 0 a.v e
    if tag = 1 then { bits := 0x7FC00000 }
    else if tag = 2 then { bits := infBits fmt32 false }
    else if tag = 3 then { bits := infBits fmt32 true }
    else if v = 0 then { bits := 0 }
    else fencode fmt32 false (.fin (decide (v < 0)) v.natAbs a.x)

/-- The cube and element that element `(r, c)` of quadrant `q` comes from (R118). -/
def drainFrom (q r c : Nat) : Nat × Nat :=
  (8 * (2 * (q / 4) + r / 4) + (2 * (q % 4) + c / 4), 4 * (r % 4) + c % 4)

/-- The cubes whose elements a quadrant reads (R118): R119's text says 16, its own map gives these four (DEDUCED, log 23). -/
def drainCubes (q : Nat) : List Nat :=
  [(0, 0), (0, 1), (1, 0), (1, 1)].map fun p => 8 * (2 * (q / 4) + p.1) + (2 * (q % 4) + p.2)

/-- Fields of a VDRAIN (Table 4.2): quadrant, accumulator tile, REL. -/
def drainQ (f : VecF) : Nat := f.imm.toNat / 2048 % 16
/-- Accumulator tile of a VDRAIN. -/
def drainAcc (f : VecF) : Nat := f.imm.toNat / 256 % 8
/-- REL of a VDRAIN. -/
def drainRel (f : VecF) : Bool := decide (f.imm.toNat / 128 % 2 = 1)

/-- The accumulator tile and element that element `e` of a drained quadrant comes from, as read: upsets may flip bits on the way (element, bits). -/
def Ctx.drainRead (c : Ctx) (f : VecF) (flips : List (Nat × Nat)) (e : Nat) : Acc × Nat :=
  let p := drainFrom (drainQ f) (e / 8) (e % 8)
  ((flips.filter fun x => x.1 == e).foldl (fun a x => a.flip p.2 x.2) (c.getAcc p.1 (drainAcc f)), p.2)

/-- Results of a drain (R118, R119). -/
def Ctx.drainRes (c : Ctx) (f : VecF) (flips : List (Nat × Nat)) : List FRes :=
  (List.range 64).map fun e => drainElem (c.drainRead f flips e).1 (c.drainRead f flips e).2

/-- The residue check of a drain (R120, R364): the first element whose carried residue differs from that of the bits read. -/
def Ctx.drainBad (c : Ctx) (f : VecF) (flips : List (Nat × Nat)) : Option (Nat × Nat) :=
  (List.range 64).findSome? fun e =>
    let a := c.drainRead f flips e
    let p := (nth 0 a.1.res a.2, residue15 (nth 0 a.1.v a.2))
    if p.1 = p.2 then none else some p

/-- The drain itself (R118, R119): native results, outside the scope of Underpainting mode (R116). -/
def Dev.drain (d : Dev) (t : Nat) (f : VecF) (flips : List (Nat × Nat)) : Dev :=
  let d1 := (d.outscope t).vDo t f [] false 3 ((d.tile t).ctx.drainRes f flips)
  if drainRel f then d1.modCtx t fun y => (drainCubes (drainQ f)).foldl (fun z k => z.dropAcc k (drainAcc f)) y else d1

/-- A drain starts its one retry, which holds the tile. -/
def Dev.drainRetry (d : Dev) (t : Nat) (f : VecF) (detail : Nat) : Dev :=
  let u : HwUnit := ⟨.tile, t⟩
  (d.retry ⟨.drain t f, 2, u, (d.tile t).ctx.pc, detail⟩).modCtx t fun c => { c with run := .retrying }

/-- VDRAIN (R118 to R120): waits by R94; a mismatch of the residue or of the duplicated logic starts one retry. `differ`: the two copies of
the conversion differ; `flips`: bits flipped in the accumulator elements read. -/
def execVdrain (t : Nat) (f : VecF) (differ : Bool) (flips : List (Nat × Nat)) (s : State) : Host.Outcome State Fault Refusal :=
  s.vec t f 0 [] fun d =>
    if (d.tile t).accBusy (drainAcc f) then d
    else match (d.tile t).ctx.drainBad f flips with
      | some r => d.drainRetry t f (residueDetail r)
      | none => if differ then d.drainRetry t f 0 else d.drain t f flips

end Sys2Proof.Machine
end

