-- ==== Sys2Proof/Machine/SparseJobs.lean ====
section
/-!
DEFINITION. DMALAUNCH's common part (Table 3.23, R189), and the tile-local sparse jobs: the expander and the index merger (R140 to
R147).
-/

namespace Sys2Proof.Machine

/-- Tile-store offset that a DMALAUNCH names: bits [17:0] of RA with bits [5:0] ignored (Table 3.23). -/
def Dev.launchOff (d : Dev) (t ra : Nat) : Nat := ((d.tile t).ctx.getSq ra).toNat % tsSize / 64 * 64

/-- The record that a DMALAUNCH names. -/
def Dev.launchRec (d : Dev) (t ra : Nat) : List Byte := d.tsRead t (d.launchOff t ra) 64

/-- Write the common head of a record in a tile's store: STATUS and FAULTTAG (Table 7.5). -/
def Dev.recHead (d : Dev) (t off status tag : Nat) : Dev := d.tsWrite t (off + 4) (toLe 2 status ++ toLe 2 tag)

/-- Sync object of a record (bytes 2 and 3, bits [12:0]). -/
def recSync (rec : List Byte) : Nat := field rec 2 2 % 8192

/-- A DMALAUNCH whose record has one of the given kinds; another kind is another row's launch (DESIGN CHOICE, log 1). `ecc` is what the read of the
record meets (R125). -/
def State.launch (s : State) (t ra : Nat) (ecc : Ecc) (kinds : Nat → Bool) (f : Nat → List Byte → Dev → Dev) :
    Host.Outcome State Fault Refusal :=
  s.instr t fun d =>
    let rec_ := d.launchRec t ra
    if kinds (field rec_ 0 1) then d.withEcc t ecc (f (d.launchOff t ra) rec_) else d

/-- A sparse job starts on the launching tile's merger hardware (R140); its status is running. One launched while another runs starts too, and the
jobs may end in any order (DESIGN CHOICE, log 67). -/
def Dev.startJob (t off : Nat) (rec_ : List Byte) (d : Dev) : Dev :=
  (((d.outscope t).recHead t off 1 0).modCtx t fun c => { c with jobs := c.jobs ++ [{ off := off, img := rec_ }] }).adv t

/-- EXPAND24 (R140, Table 5.3). -/
def execExpand24 (t ra : Nat) (ecc : Ecc) (s : State) : Host.Outcome State Fault Refusal :=
  s.launch t ra ecc (· == 0x20) fun off r d => d.startJob t off r

/-- MERGE (R140, Table 5.3). -/
def execMerge (t ra : Nat) (ecc : Ecc) (s : State) : Host.Outcome State Fault Refusal :=
  s.launch t ra ecc (· == 0x21) fun off r d => d.startJob t off r

/-! ### The expander -/

/-- Fields of an EXPAND24 record. -/
structure Expand where
  src   : Nat
  meta_ : Nat
  dst   : Nat
  spit  : Nat
  mpit  : Nat
  dpit  : Nat
  rows  : Nat
  klen  : Nat
  width : Nat
  done  : Nat
deriving DecidableEq, Repr

/-- Read them (Table 5.3). -/
def expandOf (r : List Byte) : Expand :=
  { src := field r 8 4 % tsSize, meta_ := field r 12 4 % tsSize, dst := field r 16 4 % tsSize,
    spit := field r 20 2, mpit := field r 22 2, dpit := field r 24 2, rows := field r 26 2,
    klen := field r 28 2, width := field r 30 1, done := field r 32 2 }

/-- Dense codes of one group from its two kept codes and its nibble, with the mark of equal positions (R143, R144). -/
def expandGroup (c0 c1 nib : Nat) : List Nat × Bool :=
  let p0 := nib % 4
  let p1 := nib / 4 % 4
  ((List.range 4).map fun p => if p = p0 then c0 else if p = p1 then c1 else 0, p0 == p1)

/-- Element width of an EXPAND24: WIDTH 3 is B4, 2 is B8 (Table 5.3). -/
def Expand.bits (x : Expand) : Nat := if x.width = 3 then 4 else 8

/-- One group of a row: codes `2g` and `2g + 1` of the packed row, elements `4g` to `4g + 3` of the dense row. -/
def Dev.expandOne (d : Dev) (t : Nat) (x : Expand) (row g : Nat) : Dev :=
  let w := x.bits
  let v := leNat (d.tsRead t (x.src + row * x.spit + g * w / 4) (w / 4))
  let nib := (Mem.get 0 (d.tile t).ctx.store ((x.meta_ + row * x.mpit + g / 2) % tsSize)).toNat / 16 ^ (g % 2) % 16
  let o := expandGroup (v % 2 ^ w) (v / 2 ^ w % 2 ^ w) nib
  let n := nth 0 o.1 0 + nth 0 o.1 1 * 2 ^ w + nth 0 o.1 2 * 2 ^ (2 * w) + nth 0 o.1 3 * 2 ^ (3 * w)
  let d1 := d.tsWrite t (x.dst + row * x.dpit + g * w / 2) (toLe (w / 2) n)
  if o.2 then (d1.bump (rTilBadIndex t) 1).orReg (rTilStatus t) stBadidx else d1

/-- The expansion of the next `n` rows, with the marks of a KLEN rounded down and of a wrapped address. -/
def Dev.expandRun (d : Dev) (t : Nat) (x : Expand) (n : Nat) : Dev :=
  let k := x.klen / 4 * 4
  let last := x.done + n - 1
  let w := x.bits
  let top := max (x.src + last * x.spit + k * w / 16) (max (x.meta_ + last * x.mpit + (k / 4 + 1) / 2) (x.dst + last * x.dpit + k * w / 8))
  let d1 := d.orIf (x.klen != k) (rTilStatus t) stMisalign
  let d2 := if decide (0 < n) && decide (0 < k) then d1.lsWrapIf t top else d1
  iterFrom (fun row y => iter (k / 4) (fun g z => z.expandOne t x row g) y) n x.done d2

/-- The next rows of an EXPAND24 job, at most `n`, with its progress field; a WIDTH other than 2 or 3 writes nothing and sets LSFMT. -/
def Dev.expandJob (d : Dev) (t : Nat) (j : SparseJob) (n : Nat) : SparseJob × Dev :=
  let x := expandOf j.img
  let m := min n (x.rows - x.done)
  if x.width = 2 || x.width = 3 then
    let p := toLe 2 (x.done + m)
    ({ j with img := putField j.img 32 p }, (d.expandRun t x m).tsWrite t (j.off + 32) p)
  else (j, d.orReg (rTilLsStatus t) lsFmt)

/-! ### The merger -/

/-- Fields of a MERGE record that stay fixed. -/
structure MergeP where
  astr  : Nat
  bstr  : Nat
  out   : Nat
  alen  : Nat
  blen  : Nat
  limit : Nat
  cap   : Nat
deriving DecidableEq, Repr

/-- Read them (Table 5.3). -/
def mergeOf (r : List Byte) : MergeP :=
  { astr := field r 8 4 % tsSize, bstr := field r 12 4 % tsSize, out := field r 16 4 % tsSize,
    alen := field r 20 2, blen := field r 22 2, limit := field r 24 4, cap := field r 28 2 }

/-- The variables of R145's pseudocode. -/
structure MergeV where
  i    : Nat
  j    : Nat
  n    : Nat
  la   : Int := -1
  lb   : Int := -1
  bad  : Nat := 0
  uns  : Nat := 0
  full : Bool := false
  wrap : Bool := false
deriving DecidableEq, Repr

/-- Index (at 0) or payload (at 4) of an entry of a stream. -/
def Dev.entryAt (d : Dev) (t base i part : Nat) : Nat := leNat (d.tsRead t (base + 8 * i + part) 4)

/-- The loop of R145's pseudocode; `fuel` bounds the entries consumed (R147). Addresses wrap as for a load/store, and an entry examined or a pair
written past 262,143 sets LSWRAP (DESIGN CHOICE, log 68). -/
def mergeLoop (t : Nat) (p : MergeP) : Nat → MergeV → Dev → MergeV × Dev
  | 0, v, d => (v, d)
  | fuel + 1, v, d =>
    if !(decide (v.i < p.alen) && decide (v.j < p.blen)) then (v, d)
    else
      let a := d.entryAt t p.astr v.i 0
      let b := d.entryAt t p.bstr v.j 0
      let v := { v with wrap := v.wrap || decide (tsSize < p.astr + 8 * v.i + 8) || decide (tsSize < p.bstr + 8 * v.j + 8) }
      if p.limit ≤ a then mergeLoop t p fuel { v with bad := v.bad + 1, i := v.i + 1 } d
      else if (a : Int) ≤ v.la then mergeLoop t p fuel { v with uns := v.uns + 1, i := v.i + 1 } d
      else if p.limit ≤ b then mergeLoop t p fuel { v with bad := v.bad + 1, j := v.j + 1 } d
      else if (b : Int) ≤ v.lb then mergeLoop t p fuel { v with uns := v.uns + 1, j := v.j + 1 } d
      else if a < b then mergeLoop t p fuel { v with la := a, i := v.i + 1 } d
      else if b < a then mergeLoop t p fuel { v with lb := b, j := v.j + 1 } d
      else if v.n = p.cap then ({ v with full := true }, d)
      else
        let bytes := toLe 4 (d.entryAt t p.astr v.i 4) ++ toLe 4 (d.entryAt t p.bstr v.j 4)
        mergeLoop t p fuel
          { v with n := v.n + 1, la := a, lb := b, i := v.i + 1, j := v.j + 1,
                   wrap := v.wrap || decide (tsSize < p.out + 8 * v.n + 8) }
          (d.tsWrite t (p.out + 8 * v.n) bytes)

/-- At most `n` entries of a MERGE job (R145, R146): pairs, counts and progress fields. At its end byte 38 is written whole, so that OUTFULL is clear
where the job met no OUTCAP (DESIGN CHOICE, log 69). -/
def Dev.mergeJob (d : Dev) (t : Nat) (j : SparseJob) (n : Nat) (ends : Bool) : SparseJob × Dev :=
  let r := j.img
  let o := mergeLoop t (mergeOf r) n { i := field r 32 2, j := field r 34 2, n := field r 36 2, la := j.la, lb := j.lb } d
  let v := o.1
  let p := toLe 2 v.i ++ toLe 2 v.j ++ toLe 2 v.n
  ({ j with img := putField r 32 p, la := v.la, lb := v.lb },
    (((o.2.bump (rTilBadIndex t) v.bad).orIf (v.bad != 0) (rTilStatus t) stBadidx).bump (rTilMergeUnsorted t) v.uns).orIf v.wrap
      (rTilLsStatus t) lsWrap |>.tsWrite t (j.off + 32) (if ends then p ++ toLe 1 (if v.full then 1 else 0) else p))

/-- Steps that end a job: more than its rows, or than the entries of both streams (R147). -/
def SparseJob.whole (j : SparseJob) : Nat := 65536 + (mergeOf j.img).alen + (mergeOf j.img).blen

/-- Some steps of a sparse job, by its KIND, or all that are left. -/
def Dev.jobWork (d : Dev) (t : Nat) (j : SparseJob) (n : Option Nat) : SparseJob × Dev :=
  if field j.img 0 1 = 0x20 then d.expandJob t j (n.getD j.whole) else d.mergeJob t j (n.getD j.whole) n.isNone

/-- The sparse jobs of a tile stop at a step boundary (R142): the first has done `steps` of them, and so on; each leaves its progress fields in its
record, from which it continues. -/
def Dev.jobsStop (t : Nat) : List Nat → List SparseJob → Dev → List SparseJob × Dev
  | n :: ns, j :: js, d =>
    let r := d.jobWork t j (some n)
    let q := Dev.jobsStop t ns js r.2
    (r.1 :: q.1, q.2)
  | [], js, d => (js, d)
  | _, [], d => ([], d)

/-- The tile's background work moves: not stopped, no context save or restore begun. -/
def Dev.jobsGo (d : Dev) (t : Nat) : Bool :=
  decide ((d.tile t).ctx.run ≠ .stopped) && decide ((d.tile t).busy = .none)

/-- SPARSE_JOB_END (R140 to R147): job `k` of the tile finishes: its output, its progress fields, STATUS 3 and its signal. `ecc` is what its reads of
the store meet (R125). -/
def execSparseJobEnd (t k : Nat) (ecc : Ecc) (s : State) : Host.Outcome State Fault Refusal :=
  s.runIf (tileOk t) fun d =>
    match (d.tile t).ctx.jobs[k]? with
    | none => d
    | some j =>
      if !d.jobsGo t then d
      else d.withEccAt t j.off ecc fun d =>
        ((((d.jobWork t j none).2).recHead t j.off 3 0).modCtx t fun c => { c with jobs := delNth c.jobs k }).signal (recSync j.img)

end Sys2Proof.Machine
end

