-- ==== Sys2Proof/Machine/Dma.lean ====
section
/-!
DEFINITION. The DMA complexes of the C-dies (R189 to R193): launch, queue, engines, block moves, pre-emption, completion.
-/

namespace Sys2Proof.Machine

/-- The agents of the job work: not after a job-fatal event, until JOB_RESET (R425, R426). -/
def Dev.alive (d : Dev) : Bool := decide (d.job ≠ 2)

/-- C-dies 0 to 7 (Table 0.2). -/
def dieOk (n : Nat) : Bool := decide (n < 8)

/-- The DMA complex of a die. -/
def Dev.dmaDie (d : Dev) (n : Nat) : DmaDie := SMap.get {} d.dma n

/-- Replace it. -/
def Dev.setDmaDie (d : Dev) (n : Nat) (x : DmaDie) : Dev := { d with dma := SMap.set d.dma n x }

/-- Change the store of the context that launched a record: the running one, or the saved one of that stream (R209, R210). -/
def Dev.storeOf (d : Dev) (t stream prio : Nat) (f : Mem → Mem) : Dev :=
  let x := d.tile t
  let here (y : Tile) : Tile := { y with ctx := { y.ctx with store := f y.ctx.store } }
  if x.ctx.stream = stream && decide (x.ctx.run ≠ .idle) then d.setTile t (here x)
  else match SMap.get none (x.slots.map fun p => (p.1, some p.2)) prio with
    | some sv =>
      if sv.ctx.stream = stream then
        d.setTile t { x with slots := SMap.set x.slots prio { sv with ctx := { sv.ctx with store := f sv.ctx.store } } }
      else d.setTile t (here x)
    | none => d.setTile t (here x)

/-- Write bytes of a tile's record; a COPY command's record is kept inside the device (R429). -/
def Dev.recPoke (d : Dev) (r : DmaRec) (at_ : Nat) (bs : List Byte) : Dev :=
  match r.orig with
  | .cmd _ => d
  | .tile t off => d.storeOf t r.stream r.prio fun m => Mem.writeMod 0 tsSize m (off + at_) bs

/-- Write STATUS and FAULTTAG (Table 7.5). -/
def Dev.recStatus (d : Dev) (r : DmaRec) (status tag : Nat) : Dev := d.recPoke r 4 (toLe 2 status ++ toLe 2 tag)

/-- Write DONE and DROWS (Table 7.5). -/
def Dev.recProgress (d : Dev) (r : DmaRec) : Dev := (d.recPoke r 40 (toLe 4 r.donE)).recPoke r 48 (toLe 4 r.drows)

/-- Rows of a record: COPY and FILL use 1. -/
def DmaRec.nrows (r : DmaRec) : Nat := if r.kind = 2 then r.rows else 1

/-- Blocks of a record. -/
def DmaRec.total (r : DmaRec) : Nat := r.nrows * r.blocks

/-- Blocks still to move. -/
def DmaRec.left (r : DmaRec) : Nat := r.total - (r.drows * r.blocks + r.donE)

/-- One block further. -/
def DmaRec.next (r : DmaRec) : DmaRec :=
  if r.donE + 1 < r.blocks then { r with donE := r.donE + 1 } else { r with donE := 0, drows := r.drows + 1 }

/-- Byte address or offset of the next block at the source. -/
def DmaRec.srcAddr (r : DmaRec) : Nat := r.src + (if r.kind = 2 then r.drows * r.spitch else 0) + 256 * r.donE

/-- Byte address or offset of the next block at the destination. -/
def DmaRec.dstAddr (r : DmaRec) : Nat := r.dst + (if r.kind = 2 then r.drows * r.dpitch else 0) + 256 * r.donE

/-- SRC lies in the launching tile's store. -/
def DmaRec.srcTs (r : DmaRec) : Bool := decide (r.ends % 2 = 1) && decide (r.kind ≠ 3)

/-- DST lies in the launching tile's store. -/
def DmaRec.dstTs (r : DmaRec) : Bool := decide (r.ends / 2 % 2 = 1)

/-- The record names the store of a tile. -/
def DmaRec.names (r : DmaRec) (t : Nat) : Bool :=
  match r.orig with
  | .tile x _ => x == t && (r.srcTs || r.dstTs)
  | .cmd _ => false

/-- The launching tile of a record that names a store. -/
def DmaRec.tileNo (r : DmaRec) : Nat :=
  match r.orig with
  | .tile t _ => t
  | .cmd _ => 0

/-- A record from its 64 bytes (Table 7.5). -/
def dmaRecOf (b : List Byte) (orig : DmaFrom) (stream prio seq : Nat) : DmaRec :=
  { orig := orig, kind := field b 0 1, ends := field b 1 1, sync := recSync b, src := field b 8 8, dst := field b 16 8,
    blocks := field b 24 4, rows := field b 28 4, spitch := field b 32 4, dpitch := field b 36 4,
    pat := BitVec.ofNat 32 (field b 44 4), donE := field b 40 4, drows := field b 48 4, stream := stream, prio := prio,
    seq := seq, parked := false }

/-- Insert a record behind those of its priority (R192). -/
def dmaPut (r : DmaRec) : List DmaRec → List DmaRec
  | [] => [r]
  | x :: l => if x.prio < r.prio then r :: x :: l else x :: dmaPut r l

/-- Insert a record ahead of those of its priority (R193). -/
def dmaBack (r : DmaRec) : List DmaRec → List DmaRec
  | [] => [r]
  | x :: l => if x.prio ≤ r.prio then r :: x :: l else x :: dmaBack r l

/-- Insert a record in launch order within its priority (R209). -/
def dmaOrdered (r : DmaRec) : List DmaRec → List DmaRec
  | [] => [r]
  | x :: l => if x.prio < r.prio || (x.prio == r.prio && decide (r.seq < x.seq)) then r :: x :: l else x :: dmaOrdered r l

/-- A die's queue of 64 records has a free slot (R192). -/
def Dev.dmaRoom (d : Dev) (n : Nat) : Bool := decide ((d.dmaDie n).queue.length < 64)

/-- A record enters the queue of a die. -/
def Dev.dmaPush (d : Dev) (n : Nat) (r : DmaRec) : Dev :=
  let x := d.dmaDie n
  { d.setDmaDie n { x with queue := dmaPut r x.queue } with dmaSeq := d.dmaSeq + 1 }

/-- A tile launches a DMA record (R189, R192): a full queue stalls the tile, which has not issued the instruction yet. -/
def Dev.dmaLaunch (t off : Nat) (b : List Byte) (d : Dev) : Dev :=
  if d.dmaRoom (dieOf t) then
    let c := (d.tile t).ctx
    (((d.dmaPush (dieOf t) (dmaRecOf b (.tile t off) c.stream c.prio d.dmaSeq))).recHead t off 0 0).adv t
  else d

/-- DMA_COPY (R189). -/
def execDmaCopy (t ra : Nat) (ecc : Ecc) (s : State) : Host.Outcome State Fault Refusal :=
  s.launch t ra ecc (· == 1) fun off b d => d.dmaLaunch t off b

/-- DMA_COPY2D (R189). -/
def execDmaCopy2d (t ra : Nat) (ecc : Ecc) (s : State) : Host.Outcome State Fault Refusal :=
  s.launch t ra ecc (· == 2) fun off b d => d.dmaLaunch t off b

/-- DMA_FILL (R189). -/
def execDmaFill (t ra : Nat) (ecc : Ecc) (s : State) : Host.Outcome State Fault Refusal :=
  s.launch t ra ecc (· == 3) fun off b d => d.dmaLaunch t off b

/-- KIND values that some table lists (Tables 5.3, 7.5 and 8.8). -/
def kindListed (k : Nat) : Bool := k == 1 || k == 2 || k == 3 || k == 0x20 || k == 0x21 || k == 0x30

/-- DMA_BAD_KIND (Table 7.5, R191): completes at once with STATUS 4, and signals. -/
def execDmaBadKind (t ra : Nat) (ecc : Ecc) (s : State) : Host.Outcome State Fault Refusal :=
  s.launch t ra ecc (fun k => !kindListed k) fun off b d => (((d.recHead t off 4 0).adv t).signal (recSync b))

/-! ### Moving blocks -/

/-- The record on an engine. -/
def Dev.dmaOn (d : Dev) (n e : Nat) : Option DmaRec := SMap.get none ((d.dmaDie n).engines.map fun p => (p.1, some p.2)) e

/-- Replace the record on an engine. -/
def Dev.dmaSet (d : Dev) (n e : Nat) (r : DmaRec) : Dev :=
  let x := d.dmaDie n
  d.setDmaDie n { x with engines := SMap.set x.engines e r }

/-- Free an engine. -/
def Dev.dmaFree (d : Dev) (n e : Nat) : Dev :=
  let x := d.dmaDie n
  d.setDmaDie n { x with engines := SMap.del x.engines e }

/-- A retry of an engine's block is outstanding. -/
def Dev.dmaHeld (d : Dev) (n e : Nat) : Bool := d.retries.any fun r =>
  match r.what with
  | .dma a b => a == n && b == e
  | _ => false

/-- An engine's record parks on a fault (R194, Table 7.6). -/
def Dev.dmaPark (d : Dev) (n e : Nat) (r : DmaRec) (va : Nat) (acc : Access) (cause level : Nat) (entry : BitVec 64) : Dev :=
  ((((d.dmaSet n e { r with parked := true }).recProgress r).recStatus r 2 0).bump (rDmaParked n) 1).park (.dma n e) va acc
    r.stream cause level entry

/-- The unit charged when a DMA read fails its retry away from the source (Table 13.2). -/
def dmaPath (n : Nat) : HwUnit := ⟨.agentPath, 4 * n⟩

/-- Bytes of the next block at the source; `u` is none when a retry has passed the check, and `ecc` is what a read of a tile store meets (R125). -/
def Dev.dmaRead (d : Dev) (n e : Nat) (r : DmaRec) (u : Option Upset) (ecc : Ecc) (k : List Byte → Dev → Dev) : Dev :=
  if r.kind = 3 then k ((List.range 64).flatMap fun _ => toLe 4 r.pat.toNat) d
  else if r.srcTs then
    d.withEccAt r.tileNo (r.srcAddr / 256 * 256 % tsSize) ecc fun x => k (x.tsRead r.tileNo (r.srcAddr / 256 * 256) 256) x
  else
    match d.translate n none (r.srcAddr / 256 * 256) .read with
    | (.dead, d1) => d1
    | (.fault c l x, d1) => d1.dmaPark n e r r.srcAddr .read c l x
    | (.ok pa, d1) =>
      match d1.refuse pa with
      | some d2 => d2
      | none =>
        match u with
        | none => k (d1.block pa) d1
        | some w =>
          let d2 := d1.readCounts pa w
          if d1.glazeBad pa w then d2.retry ⟨.dma n e, d1.readCheck pa w, dmaPath n, pa, 0⟩ else k (d1.block pa) d2

/-- Write a block at the destination. -/
def Dev.dmaWrite (d : Dev) (n e : Nat) (r : DmaRec) (bs : List Byte) (k : Dev → Dev) : Dev :=
  if r.dstTs then k (d.tsWrite r.tileNo (r.dstAddr / 256 * 256) bs)
  else
    match d.translate n none (r.dstAddr / 256 * 256) .write with
    | (.dead, d1) => d1
    | (.fault c l x, d1) => d1.dmaPark n e r r.dstAddr .write c l x
    | (.ok pa, d1) =>
      match d1.refuse pa with
      | some d2 => d2
      | none => k (d1.writeBlock pa bs)

/-- Move one block (R190, R191). -/
def Dev.dmaBlock (d : Dev) (n e : Nat) (r : DmaRec) (u : Option Upset) (ecc : Ecc) : Dev :=
  let off := (r.kind != 3 && r.srcAddr % 256 != 0) || r.dstAddr % 256 != 0
  (d.orIf off (rDmaStatus n) 0x10000).dmaRead n e r u ecc fun bs y =>
    y.dmaWrite n e r bs fun z => (z.bump64 (rDmaBlocksLo n) 1).dmaSet n e r.next

/-- The record that an engine can move a block of now. -/
def Dev.dmaGo (d : Dev) (n e : Nat) : Option DmaRec :=
  match d.dmaOn n e with
  | some r => if d.alive && !r.parked && !d.dmaHeld n e && decide (0 < r.left) then some r else none
  | none => none

/-- Move up to `m` blocks that nothing befalls. -/
def Dev.dmaRun (n e : Nat) : Nat → Dev → Dev
  | 0, d => d
  | m + 1, d =>
    match d.dmaGo n e with
    | some r => Dev.dmaRun n e m (d.dmaBlock n e r (some .clean) .clean)
    | none => d

/-- Move one block that something may befall. -/
def Dev.dmaOne (d : Dev) (n e : Nat) (u : Upset) (ecc : Ecc) : Dev :=
  if u = .clean && ecc = .clean then d
  else
    match d.dmaGo n e with
    | some r => d.dmaBlock n e r (some u) ecc
    | none => d

/-- The lowest-numbered free engine of a die. -/
def Dev.dmaIdle (d : Dev) (n : Nat) : Option Nat := findFrom (fun e => !SMap.has (d.dmaDie n).engines e) 8 0

/-- DMA_RECORD_START (R192): a free engine of die `d` takes the record at the head of the queue, moves `n` blocks, and where `u`
or `ecc` is an upset the block after them meets it. -/
def execDmaRecordStart (dn n : Nat) (u : Upset) (ecc : Ecc) (us : List Upset) (s : State) : Host.Outcome State Fault Refusal :=
  s.runIfC us (dieOk dn) fun d =>
    match d.dmaIdle dn, (d.dmaDie dn).queue with
    | some e, r :: rest =>
      if !d.alive || d.dieOut dn then d
      else
        let d1 := ((d.setDmaDie dn { d.dmaDie dn with queue := rest }).dmaSet dn e r).recStatus r 1 0
        (Dev.dmaRun dn e n d1).dmaOne dn e u ecc
    | _, _ => d

/-- The engine whose record is stopped for a waiting record of priority `p` (R193): all eight are busy with records below `p`; of
the lowest priority, the one launched last. -/
def Dev.dmaVictim (d : Dev) (n p : Nat) : Option (Nat × DmaRec) :=
  let es := (d.dmaDie n).engines
  if es.length < 8 || es.any (fun x => decide (p ≤ x.2.prio)) then none
  else
    (es.filter fun x => !x.2.parked && !d.dmaHeld n x.1).foldl (fun a x =>
      match a with
      | none => some x
      | some y => if x.2.prio < y.2.prio || (x.2.prio == y.2.prio && decide (y.2.seq < x.2.seq)) then some x else some y) none

/-- DMA_PREEMPT (R193). -/
def execDmaPreempt (dn : Nat) (s : State) : Host.Outcome State Fault Refusal :=
  s.runIf (dieOk dn) fun d =>
    match (d.dmaDie dn).queue with
    | [] => d
    | q :: _ =>
      match d.dmaVictim dn q.prio with
      | none => d
      | some (e, r) =>
        if !d.alive then d
        else
          let x := d.dmaDie dn
          let d1 := d.setDmaDie dn { x with engines := SMap.del x.engines e, queue := dmaBack r x.queue }
          ((d1.recProgress r).recStatus r 0 0).bump (rDmaPreempts dn) 1

/-- A record whose blocks are all moved ends (R191): STATUS 3, its signal, and the reply of a COPY (Table 15.4). -/
def Dev.dmaEnd (d : Dev) (n e : Nat) (r : DmaRec) : Dev :=
  let d1 := (((d.dmaFree n e).recProgress r).recStatus r 3 0).signal r.sync
  match r.orig with
  | .cmd id => d1.finishId id 0 r.total
  | .tile _ _ => d1

/-- DMA_RECORD_COMPLETE (R191): engine `e` moves the blocks that are left, the first of which meets `u` or `ecc`, and the record
ends. -/
def execDmaRecordComplete (dn e : Nat) (u : Upset) (ecc : Ecc) (us : List Upset) (s : State) : Host.Outcome State Fault Refusal :=
  s.runIfC us (dieOk dn) fun d =>
    match d.dmaOn dn e with
    | none => d
    | some r0 =>
      let d1 := d.dmaOne dn e u ecc
      let d2 := Dev.dmaRun dn e r0.left d1
      match d2.dmaOn dn e with
      | none => d2
      | some r => if d2.alive && !r.parked && !d2.dmaHeld dn e && decide (r.left = 0) then d2.dmaEnd dn e r else d2

/-! ### Records and their tile (R205, R209) -/

/-- Records that name a tile's store and are not at their end, for the stream that runs on it. -/
def Dev.dmaNaming (d : Dev) (t : Nat) : Bool :=
  let st := (d.tile t).ctx.stream
  let x := d.dmaDie (dieOf t)
  x.queue.any (fun r => r.names t && r.stream == st) || x.engines.any (fun p => p.2.names t && p.2.stream == st)
    || x.susp.any (fun r => r.names t && r.stream == st)

/-- A block of a record that names a tile's store is being read again, so that the record has not reached a block boundary (R205). -/
def Dev.dmaRetrying (d : Dev) (t : Nat) : Bool :=
  (d.dmaDie (dieOf t)).engines.any fun p => p.2.names t && d.dmaHeld (dieOf t) p.1

/-- Stop every record that names a tile's store; it takes STATUS 5 (R205). A parked record keeps its STATUS and its engine
(Table 7.9). -/
def Dev.dmaSuspend (d : Dev) (t : Nat) : Dev :=
  let n := dieOf t
  let x := d.dmaDie n
  let take (r : DmaRec) : Bool := r.names t && !r.parked
  let es := x.engines.filter fun p => take p.2
  let rs := x.queue.filter take ++ es.map (·.2)
  let d1 := d.setDmaDie n
    { queue := x.queue.filter fun r => !take r, engines := x.engines.filter fun p => !take p.2, susp := x.susp ++ rs }
  rs.foldl (fun y r => (y.recProgress r).recStatus r 5 0) d1

/-- The records suspended with a stream return to their queue (R209). -/
def Dev.dmaResume (d : Dev) (t stream : Nat) : Dev :=
  let n := dieOf t
  let x := d.dmaDie n
  let mine (r : DmaRec) : Bool := r.names t && r.stream == stream
  let rs := x.susp.filter mine
  let d1 := d.setDmaDie n { x with susp := x.susp.filter (fun r => !mine r), queue := rs.foldl (fun q r => dmaOrdered r q) x.queue }
  rs.foldl (fun y r => y.recStatus r 0 0) d1

end Sys2Proof.Machine
end

