-- ==== Sys2Proof/Machine/TileCtl.lean ====
section
/-!
DEFINITION. Starting a tile (R428), its end (Table 3.23), sync instructions and fences (R441, R95), pre-emption points (R104), context
save and restore (R205 to R210), the release of a waiter (R439).
-/

namespace Sys2Proof.Machine

/-! ### Sync instructions and fences -/

/-- TILE_SIGNAL (R441). -/
def execTileSignal (t : Nat) (obj : BitVec 13) (s : State) : Host.Outcome State Fault Refusal :=
  s.instr t fun d => (d.adv t).signal obj.toNat

/-- TILE_ADD (R441): the addend is the low 32 bits of SA. -/
def execTileAdd (t : Nat) (obj : BitVec 13) (sa : Nat) (s : State) : Host.Outcome State Fault Refusal :=
  s.instr t fun d =>
    (d.adv t).setCount obj.toNat (d.count obj.toNat + BitVec.ofNat 32 ((d.tile t).ctx.getSq sa).toNat)

/-- TILE_WAIT (R441): holds the sequencer at the WAIT until the object satisfies the low 32 bits of SA. -/
def execTileWait (t : Nat) (obj : BitVec 13) (sa : Nat) (s : State) : Host.Outcome State Fault Refusal :=
  s.instr t fun d =>
    let v : Word := BitVec.ofNat 32 ((d.tile t).ctx.getSq sa).toNat
    if satisfies (d.count obj.toNat) v then d.adv t
    else (d.modCtx t fun c => { c with run := .waiting }).addWaiter (.tile t) obj.toNat v

/-- The condition of a fence: 0 LS, 1 CUBE, 2 ALL (Table 3.9). An instruction in the cube queue has not read its operands. -/
def Dev.fenceMet (d : Dev) (t kind : Nat) : Bool :=
  let x := d.tile t
  (kind == 1 || !x.ctx.lsq.any LsQ.real) && (kind == 0 || x.cq.isEmpty) && (kind != 2 || x.passes.isEmpty)

/-- A fence passes when its condition holds, and holds the sequencer otherwise. -/
def Dev.fence (t kind : Nat) (d : Dev) : Dev :=
  if d.fenceMet t kind then d.adv t else d.modCtx t fun c => { c with run := .fenced kind }

/-- FENCE_LS (R95, Table 3.9). -/
def execFenceLs (t : Nat) (s : State) : Host.Outcome State Fault Refusal := s.instr t (Dev.fence t 0)

/-- FENCE_CUBE (R95, Table 3.9). -/
def execFenceCube (t : Nat) (s : State) : Host.Outcome State Fault Refusal := s.instr t (Dev.fence t 1)

/-- FENCE_ALL (R95, Table 3.9). -/
def execFenceAll (t : Nat) (s : State) : Host.Outcome State Fault Refusal := s.instr t (Dev.fence t 2)

/-- FENCE_RELEASE (R95): a held fence's condition is met. -/
def execFenceRelease (t : Nat) (s : State) : Host.Outcome State Fault Refusal :=
  s.runIf (tileOk t) fun d =>
    match (d.tile t).ctx.run with
    | .fenced k =>
      if d.fenceMet t k && decide ((d.tile t).busy = .none) then d.modCtx t fun c => { c with run := .running }.adv else d
    | _ => d

/-! ### Starting -/

/-- A tile is free for a stream of priority `p` (R203, R428): no program runs, nothing occupies its save path, no context of an
equal or higher priority is saved. -/
def Dev.tileFree (d : Dev) (t p : Nat) : Bool :=
  let x := d.tile t
  decide (x.ctx.run = .idle) && decide (x.busy = .none) && !x.slots.any fun s => decide (p ≤ s.1)

/-- The command that takes a tile next: of those that wait for it, the highest priority, then the first accepted. -/
def Dev.waitingFor (d : Dev) (t : Nat) : Option Cmd :=
  (d.cmds.filter fun c => c.disp && inSet c.start t).foldl (fun a c =>
    match a with
    | none => some c
    | some b => if b.prio < c.prio then some c else some b) none

/-- A tile agent is parked for a stream. -/
def Dev.parkedAs (d : Dev) (t stream : Nat) : Bool :=
  d.parks.any fun p => decide (p.agent = .tile t) && p.stream == stream

/-- Copy `n` blocks of an image from virtual address `va` to a tile-store offset (R428). A translation fault parks the tile for the
command's stream, and the start is tried again when the fault is resolved. -/
def Dev.imageCopy (t stream : Nat) : Nat → Nat → Nat → Dev → Dev × Bool
  | 0, _, _, d => (d, true)
  | n + 1, va, ts, d =>
    match d.translate (dieOf t) (some t) va .read with
    | (.dead, d1) => (d1, false)
    | (.fault c l e, d1) => (d1.park (.tile t) va .read stream c l e, false)
    | (.ok pa, d1) =>
      match d1.refuse pa with
      | some d2 => (d2, false)
      | none =>
        match d1.readBlock (some ⟨.tile, t⟩) pa with
        | (d2, false) => (d2, false)
        | (d2, true) => Dev.imageCopy t stream n (va + 256) (ts + 256) (d2.tsWrite t ts (d2.block pa))

/-- The context a LAUNCH gives a tile (R428): the rest is as the last program left it. -/
def launchCtx (c : Ctx) (h : CmdHdr) (id prio idx : Nat) (l : LaunchP) : Ctx :=
  let c1 : Ctx := { c with run := .running, stream := h.stream, prio := prio, cmd := some id, pc := l.entry, loops := [] }
  (c1.setSq 1 (BitVec.ofNat 64 idx)).setSq 2 l.arg

/-- A command no longer waits for a tile. -/
def Dev.startTaken (d : Dev) (id t : Nat) : Dev :=
  { d with cmds := d.cmds.map fun c => if c.id = id then { c with start := setDel c.start t } else c }

/-- TIL_UPNT_STATUS.ACTIVE: the tile runs a stream in Underpainting mode (Table 2.12). -/
def Dev.setUpnt (d : Dev) (t : Nat) (on : Bool) : Dev := d.setFld (rTilUpntStatus t) 0 0 (if on then 1 else 0)

/-- Start a command's work on a free tile: a LAUNCH's program (R428), or a part of an UPDATE (R332). A program that has issued no cube instruction
stands as if its last one had END set, so that it is at a pre-emption point (DESIGN CHOICE, log 70). -/
def Dev.startOn (d : Dev) (t : Nat) (c : Cmd) : Dev :=
  match c.op with
  | .launch l =>
    let r := Dev.imageCopy t c.h.stream l.imgblk l.image.toNat 0 d
    if r.2 then
      let d1 := r.1.setUpnt t l.upnt
      (d1.modTile t fun x =>
        { x with ctx := launchCtx x.ctx c.h c.id c.prio (t - l.tile0) l, endSet := true, group := 0 }).startTaken c.id t
    else r.1
  | _ =>
    ((d.setUpnt t false).modTile t fun x =>
      { x with ctx := { x.ctx with run := .updating, stream := c.h.stream, prio := c.prio, cmd := some c.id } }).startTaken c.id t

/-- Start the command that waits for a tile, if the tile is free for it. -/
def Dev.startWaiting (d : Dev) (t : Nat) : Dev :=
  match d.waitingFor t with
  | some c => if d.tileFree t c.prio && !d.parkedAs t c.h.stream && d.alive then d.startOn t c else d
  | none => d

/-- LAUNCH_TILE_START (R428). -/
def execLaunchTileStart (t : Nat) (us : List Upset) (s : State) : Host.Outcome State Fault Refusal :=
  s.runIfC us (tileOk t) fun d => d.startWaiting t

/-- A tile restores the context of a stream of lower priority than `p`. -/
def Busy.restoresBelow (b : Busy) (p : Nat) : Bool :=
  match b with
  | .restoring q => decide (q < p)
  | _ => false

/-- A command takes a tile: at once if the tile is free, by pre-emption from a stream of lower priority (R203), one whose context is still being
restored among them, and otherwise when the tile becomes free. -/
def Dev.claimTile (d : Dev) (c : Cmd) (t : Nat) : Dev :=
  let x := d.tile t
  if d.tileFree t c.prio then d.startOn t c
  else if (x.ctx.run ≠ .idle && decide (x.ctx.prio < c.prio)) || x.busy.restoresBelow c.prio then
    d.setTile t { x with reqs := x.reqs ++ [⟨false, c.id⟩] }
  else d

/-! ### The end of a program -/

/-- The highest slot that holds a saved context. -/
def Tile.topSlot (x : Tile) : Option Nat := (x.slots.map (·.1)).getLast?

/-- The partner of a firing that asks for a tile. -/
def Tile.fireReq (x : Tile) : Option Nat := (x.reqs.find? (·.firing)).map (·.cmd)

/-- A tile that has become free is taken by a firing that waits for it (R372); otherwise it restores its highest saved context, unless a stream of higher
priority waits for it (R209, R428). No tile restores one while the job has failed (R426). -/
def Dev.afterEnd (d : Dev) (t : Nat) : Dev :=
  match (d.tile t).fireReq with
  | some u => d.modTile t fun x => { x with busy := .firing u, reqs := x.reqs.filter fun r => !r.firing }
  | none =>
  match (d.tile t).topSlot with
  | none => d
  | some q =>
    match d.waitingFor t with
    | some c =>
      if decide (q < c.prio) || !d.alive then d else d.modTile t fun x => { x with busy := .restoring q }
    | none => if d.alive then d.modTile t fun x => { x with busy := .restoring q } else d

/-- A tile's command learns that one of its tiles has ended, and completes with its last tile (Table 15.4). -/
def Dev.tileDone (d : Dev) (t : Nat) : Dev :=
  match (d.tile t).ctx.cmd with
  | none => d
  | some id =>
    match d.cmd? id with
    | none => d
    | some c =>
      let st := decide (d.rd (rTilStatus t) ≠ 0)
      let c1 : Cmd :=
        { c with
          tiles := setDel c.tiles t
          bad := c.bad + (if st then 1 else 0)
          low := if st && (c.bad == 0 || decide (t < c.low)) then t else c.low }
      let d1 := d.setCmd c1
      if c1.tiles.isEmpty then d1.finish c1 0 (c1.bad % 65536 + 65536 * c1.low) else d1

/-- Retries that a tile waits for. -/
def Dev.tileRetry (d : Dev) (t : Nat) : Bool := d.retries.any fun r =>
  match r.what with
  | .cubePass x | .drain x _ | .store x | .ldt x _ | .save x | .restore x => x == t
  | _ => false

/-- The conditions of Table 3.23 under which a HALT takes effect. -/
def Dev.haltReady (d : Dev) (t : Nat) : Bool :=
  let x := d.tile t
  decide (x.ctx.run = .halting) && decide (x.busy = .none) && d.quiet t && x.ctx.lsq.isEmpty && x.ctx.jobs.isEmpty
    && !d.dmaNaming t && !d.tileRetry t && !d.isParked (.tile t)

/-- TILE_HALTED (R428, Table 3.23). -/
def execTileHalted (t : Nat) (s : State) : Host.Outcome State Fault Refusal :=
  s.runIf (tileOk t) fun d =>
    if !d.haltReady t then d
    else (((d.tileDone t).setUpnt t false).modTile t fun x => { x with ctx := { x.ctx with run := .idle, cmd := none } }).afterEnd t

/-! ### Pre-emption -/

/-- A program holds the tile and may be taken from it. -/
def Run.takeable : Run → Bool
  | .running | .waiting | .fenced _ | .halting | .updating => true
  | _ => false

/-- The tile is at a pre-emption point without being forced (R104), is parked on a fault (R210), or works for the update engine (R334). -/
def Dev.natural (d : Dev) (t : Nat) : Bool :=
  (d.tile t).endSet || decide ((d.tile t).ctx.run = .waiting) || decide ((d.tile t).ctx.run = .updating) || d.isParked (.tile t)

/-- The tile is at a pre-emption point (R104). -/
def Dev.atPoint (d : Dev) (t : Nat) : Bool :=
  (d.tile t).ctx.run.takeable && decide ((d.tile t).busy = .none) && d.quiet t && !d.tileRetry t && !d.dmaRetrying t
    && (d.natural t || d.forcing t)

/-- A request to take the tile still stands: a firing, or a command of higher priority that still waits for it. -/
def Dev.reqStands (d : Dev) (t : Nat) (r : TakeReq) : Bool :=
  r.firing ||
    (match d.cmd? r.cmd with
     | some c => inSet c.start t && decide ((d.tile t).ctx.prio < c.prio)
     | none => false)

/-- A context save begins (R205): the DMA records that name the store stop first, and the sparse jobs stop at their next step boundary (R142), after
`steps` steps each. -/
def Dev.beginSave (d : Dev) (t : Nat) (steps : List Nat) : Dev :=
  let d1 := d.dmaSuspend t
  let j := Dev.jobsStop t steps (d1.tile t).ctx.jobs d1
  j.2.modTile t fun x => { x with busy := .saving x.ctx.prio, ctx := { x.ctx with jobs := j.1 } }

/-- The tile is taken by the first request that stands. -/
def Dev.takeTile (d : Dev) (t : Nat) (steps : List Nat) : Dev :=
  match (d.tile t).reqs.filter (d.reqStands t) with
  | [] => d.modTile t fun x => { x with reqs := [] }
  | r :: rs =>
    let d1 := d.modTile t fun x => { x with reqs := rs }
    if r.firing then d1.modTile t fun x => { x with busy := .firing r.cmd } else d1.beginSave t steps

/-- PREEMPTION_POINT (R104); `steps` are the steps that the tile's sparse jobs have done by then (R142). -/
def execPreemptionPoint (t : Nat) (steps : List Nat) (s : State) : Host.Outcome State Fault Refusal :=
  s.runIf (tileOk t) fun d =>
    if !d.atPoint t then d
    else
      let d1 := if d.natural t then d else d.bump (rTilGroupForced t) 1
      (d1.modTile t fun x => { x with group := 0 }).takeTile t steps

/-- Registers of the tile context (R157, R361, Table 2.7, Table 2.9): converter state, sparse and Bisque registers. -/
def ctxRegs (t : Nat) : List Nat :=
  ((List.range 15).map fun i => rTilZctl t + 4 * i) ++ ((List.range 12).map fun i => rTilBsqCtl t + 4 * i)
    ++ ((List.range 2).flatMap fun n => [rTilCvtFmt t n, rTilCvtRmax t n, rTilCvtEmax t n, rTilCvtSpmeta t n, rTilCvtSppitch t n])
    ++ [rTilUpntStatus t]

/-- Waiters of a tile's WAIT go with its context. -/
def Dev.moveWaiter (d : Dev) (a b : WaitWho) : Dev :=
  { d with waiters := d.waiters.map fun w => if w.who = a then { w with who := b } else w }

/-- The context is in its slot: what stays on the tile is the store, the registers, the accumulators (R89 lists no save among what empties one)
and the scalar state, as they stand; what moved away, the load/store queue, sparse jobs, loops and the local records of the converters, is empty. -/
def Dev.saved (d : Dev) (t q : Nat) : Dev :=
  let x := d.tile t
  let sv : Saved := { ctx := x.ctx, regs := (ctxRegs t).map fun o => (o, d.rd o), endSet := x.endSet }
  let c : Ctx := { x.ctx with run := .idle, cmd := none, loops := [], sw := [], lsq := [], jobs := [] }
  let d1 := (d.setTile t { x with ctx := c, slots := SMap.set x.slots q sv, busy := .none }).moveWaiter (.tile t) (.saved t q)
  let d2 := iter 2 (fun n y => (y.wr (rTilCvtRmax t n) 0).wr (rTilCvtEmax t n) 0) d1
  ((d2.setUpnt t false).bump (rTilCtxSaves t) 1).startWaiting t

/-- After a save, a tile that no command takes restores its context. -/
def Dev.saveDone (d : Dev) (t q : Nat) : Dev :=
  let d1 := d.saved t q
  if (d1.tile t).ctx.run = .idle then d1.afterEnd t else d1

/-- Physical address of a context slot (R206, Table 7.8). -/
def slotPa (t q : Nat) : Nat := hbmSpan * dieOf t + 251255586816 + (3 * (t % 600) + q) * 327680

/-- CONTEXT_SAVE_DONE (R205 to R207): a glaze mismatch in the save has one retry, and the tile is charged (R208); `ecc` is what its
reads of the store meet (R125). -/
def execContextSaveDone (t : Nat) (glazeOk : Bool) (ecc : Ecc) (us : List Upset) (s : State) : Host.Outcome State Fault Refusal :=
  s.runIfC us (tileOk t) fun d =>
    match (d.tile t).busy with
    | .saving q =>
      if d.tileRetry t || (!d.isParked (.tile t) && (d.lsq t).any fun x => x.real && x.started) then d
      else d.withEccAt t 0 ecc fun d =>
        if glazeOk then d.saveDone t q else d.retry ⟨.save t, 5, ⟨.tile, t⟩, slotPa t q, 0⟩
    | _ => d

/-- Parked records of a restored stream whose fault was resolved meanwhile go on (Table 7.9). -/
def Dev.freeParked (d : Dev) (t stream : Nat) : Dev :=
  let mine (p : Park) : Bool := p.resolved && p.stream == stream &&
    (match p.agent with
     | .tile x => x == t
     | .dma n e => (match d.dmaOn n e with
       | some r => r.names t
       | none => false)
     | _ => false)
  let d1 := d.parks.foldl (fun y p =>
    match p.agent with
    | .dma n e => if mine p then (match y.dmaOn n e with
        | some r => (y.dmaSet n e { r with parked := false }).recStatus r 1 0
        | none => y) else y
    | _ => y) d
  { d1 with parks := d1.parks.filter fun p => !mine p }

/-- A command that came for the tile while a stream of lower priority was being restored asks for it now (R203). -/
def Dev.askAgain (d : Dev) (t : Nat) : Dev :=
  match d.waitingFor t with
  | some c => d.modTile t fun x => if x.ctx.prio < c.prio then { x with reqs := x.reqs ++ [⟨false, c.id⟩] } else x
  | none => d

/-- A restored stream resumes (R209, R210). -/
def Dev.restored (d : Dev) (t q : Nat) : Dev :=
  let x := d.tile t
  match SMap.get none (x.slots.map fun p => (p.1, some p.2)) q with
  | none => d.setTile t { x with busy := .none }
  | some sv =>
    let d1 := (d.setTile t { x with ctx := sv.ctx, slots := SMap.del x.slots q, busy := .none, endSet := sv.endSet, group := 0 }).moveWaiter
      (.saved t q) (.tile t)
    let d2 := sv.regs.foldl (fun y p =>
      if p.1 = rTilUpntStatus t then y.setFld p.1 0 0 (bitsOf p.2 0 0) else y.wr p.1 p.2) d1
    (Dev.lsDrain t ((d2.freeParked t sv.ctx.stream).dmaResume t sv.ctx.stream)).askAgain t

/-- CONTEXT_RESTORE_DONE (R209): restores check glaze (R207), with one retry charged to the tile (R208). -/
def execContextRestoreDone (t : Nat) (glazeOk : Bool) (s : State) : Host.Outcome State Fault Refusal :=
  s.runIf (tileOk t) fun d =>
    match (d.tile t).busy with
    | .restoring q =>
      if d.tileRetry t || !d.alive then d
      else if glazeOk then d.restored t q
      else d.retry ⟨.restore t, 5, ⟨.tile, t⟩, slotPa t q, 0⟩
    | _ => d

/-! ### Releasing waiters -/

/-- A tile held by a WAIT resumes after it. -/
def Dev.waitOver (d : Dev) (t : Nat) : Dev :=
  d.modTile t fun x =>
    { x with
      ctx := { x.ctx with run := .running }.adv
      group := if x.cq.isEmpty && x.passes.isEmpty then 0 else x.group }

end Sys2Proof.Machine
end

