-- ==== Sys2Proof/Machine/Fabric.lean ====
section
/-!
DEFINITION. The fabric links: acceptance, replay and credits (R259 to R265), forwarding (R266), lane sparing (R274, R275), ABORT flits
(R277). What a frame does at its destination is a parameter here; Machine/Exchange.lean gives it.
-/

namespace Sys2Proof.Machine

/-- Fabric ports 0 to 31 (R252). -/
def portOk (p : Nat) : Bool := decide (p < 32)

/-- On-wire XID of a key in a generation (R289). -/
def wireOf (gen key : Nat) : Nat :=
  gen * 2 ^ 24 + (if 2 ^ 26 ≤ key then Config.wheelXid (key - 2 ^ 26) else if key = 2 ^ 25 then Config.shiftXid else key) % 2 ^ 24

/-- On-wire XID of an operation (R289). -/
def Xop.wire (x : Xop) : Nat := wireOf x.gen x.key

/-- A sequence number is at or before another, modulo 2^32 (R259). -/
def seqLe (a b : Nat) : Bool := decide ((b + 2 ^ 32 - a) % 2 ^ 32 < 2 ^ 31)

/-- ACK and CREDIT of a head or LINK flit (R261, R265). -/
def Dev.ackIn (d : Dev) (p : Nat) (ack : Word) (credit : List Nat) : Dev :=
  let f := d.fab p
  d.setFab p { f with
    rtx := f.rtx.filter fun x => !seqLe x.2.fseq.toNat ack.toNat
    cred := (List.range 4).map fun v => nth 0 f.cred v + nth 0 credit v }

/-- ACK value to return: the highest frame accepted in order. -/
def Fab.ackNow (f : Fab) : Word := BitVec.ofNat 32 (f.rxSeq + 2 ^ 32 - 1)

/-- A LINK flit is sent; what it returns starts again at zero (R262). -/
def Dev.sendLink (d : Dev) (p : Nat) (nak : Bool) : Dev :=
  let f := d.fab p
  (d.setFab p { f with back := [0, 0, 0, 0], seen := 0, naked := nak || f.naked }).emit
    (.link p ⟨nak, BitVec.ofNat 32 f.rxSeq, f.ackNow, f.back, true, {}⟩)

/-- `n` flits arrive on an UP port: what the code found in their codewords is counted (R255), and at the 64th flit since the last return a LINK
flit returns ACK (R262). -/
def Dev.flitsIn (d : Dev) (p n : Nat) (fec : FecIn) : Dev :=
  let d1 := (d.bump (rXchPortFecCorr p) fec.corr).bump (rXchPortFecUncorr p) fec.uncorr
  let seen := (d1.fab p).seen + n
  let d2 := if 64 ≤ seen then d1.sendLink p false else d1
  d2.setFab p { d2.fab p with seen := seen % 64 }

/-- A frame is not accepted (R260): it and later frames are discarded until it arrives again; one NAK each time it is missed. -/
def Dev.rejectFrame (d : Dev) (p : Nat) (f : Frame) : Dev :=
  if f.fseq.toNat = (d.fab p).rxSeq || !(d.fab p).naked then d.sendLink p true else d

/-- A frame that is expected, and fails for a reason other than its glaze words, ends a run of glaze failures (R263). -/
def Dev.rejectOther (d : Dev) (p : Nat) (f : Frame) : Dev :=
  let d1 := d.rejectFrame p f
  if f.fseq.toNat = (d.fab p).rxSeq then d1.setFab p { d1.fab p with gfail := none } else d1

/-- Data flits whose CRC-32C differs from their GLAZE word. -/
def frameBad (f : Frame) : List Nat :=
  (List.range f.blocks.length).filter fun i => crc32c (nth [] f.blocks i) != nth 0 f.glaze i

/-- XCH_CFG.REPLAYMAX (R263): 0 acts as 1. -/
def Dev.replayMax (d : Dev) : Nat := max 1 (d.fld rXchCfg 15 12)

/-- A frame is accepted: sequence, ACK and credits (R260, R261). -/
def Dev.acceptFrame (d : Dev) (p : Nat) (f : Frame) (k : Dev → Dev) : Dev :=
  let x := d.fab p
  k ((d.setFab p { x with rxSeq := (x.rxSeq + 1) % 2 ^ 32, naked := false, gfail := none }).ackIn p f.ack f.credit)

/-- Flits in a channel's receive buffer that wait for a receive that is parked on its half (R270). -/
def Dev.parkedIn (d : Dev) (p vc : Nat) : Nat :=
  (d.inbox.filter fun b =>
    b.port == p && b.vc == vc && d.xops.any fun x => x.wire == b.xid.toNat && x.own.any fun o => o.1 == p / 16).length

/-- Replays of the expected frame, this arrival among them, whose only failure is the glaze of the same data flits (R263). -/
def Fab.glazeRun (f : Fab) (bad : List Nat) : Nat :=
  match f.gfail with
  | some (b, c) => if b = bad then c + 1 else 1
  | none => if f.naked then 1 else 0

/-- A routed frame arrives (R260, R263): `k` gets the data flits whose word is wrong and were accepted all the same. A channel whose share of 128 flits
is held by parked flits accepts none (R270; no NAK is sent: DESIGN CHOICE, log 55). -/
def Dev.linkIn (d0 : Dev) (p : Nat) (f : Frame) (k : List Nat → Dev → Dev) : Dev :=
  if !d0.portUp p then d0
  else
    let d := d0.flitsIn p (if f.fec.uncorr = 0 then frameFlits f else 0) f.fec
    if f.fec.uncorr ≠ 0 then d.rejectOther p f
    else if !f.hcrcOk then (d.bump (rXchPortHcrcBad p) 1).rejectOther p f
    else if f.fseq.toNat ≠ (d.fab p).rxSeq then d.rejectFrame p f
    else if 128 ≤ d.parkedIn p f.hops then d
    else
      let bad := frameBad f
      let n := (d.fab p).glazeRun bad
      if bad.isEmpty then d.acceptFrame p f (k [])
      else if d.replayMax ≤ n then (d.bump (rXchPortGlazeBad p) bad.length).acceptFrame p f (k bad)
      else (d.setFab p { d.fab p with gfail := some (bad, n) }).rejectFrame p f

/-- The device's own node id. -/
def Dev.node (d : Dev) : Nat := d.fld rXchNode 13 0

/-- An accepted frame is forwarded, or reaches its destination (R266). -/
def Dev.routeIn (d : Dev) (p : Nat) (f : Frame) (here : Dev → Dev) : Dev :=
  if f.dst = d.node then here d
  else if f.hops = 3 then (d.bump rXchHoplimitDrops 1).credBack p f.hops (frameFlits f)
  else
    match d.routePort f.dst with
    | some _ => d.routeOn ⟨some (p, f.hops), { f with hops := f.hops + 1 }⟩
    | none => d.routeOn ⟨some (p, f.hops), f⟩

/-- Replay from a sequence number (R261); a frame already replayed 16 times takes the port DOWN (R264). -/
def Dev.replayFrom (d : Dev) (p : Nat) (n : Nat) : Dev :=
  let f := d.fab p
  let (old, again) := (f.rtx.filter fun x => !seqLe n x.2.fseq.toNat, f.rtx.filter fun x => seqLe n x.2.fseq.toNat)
  if again.any fun x => decide (16 ≤ x.1) then d.portDown p
  else
    let d1 := d.setFab p { f with rtx := old ++ again.map fun x => (x.1 + 1, x.2) }
    again.foldl (fun y x => (y.bump (rXchPortReplays p) 1).emit (.replay p x.2.fseq.toNat)) d1

/-- LINK (R261). -/
def execLink (p : Nat) (l : LinkF) (s : State) : Host.Outcome State Fault Refusal :=
  s.runIf (portOk p) fun d =>
    if !d.portUp p then d
    else if l.fec.uncorr ≠ 0 then d.flitsIn p 0 l.fec
    else
      let d0 := d.flitsIn p 1 l.fec
      if !l.crcOk then d0.bump (rXchPortHcrcBad p) 1
      else
        let d1 := d0.ackIn p l.ack l.credit
        if l.nak then d1.replayFrom p l.nseq.toNat else d1

/-- REPLAY_TIMEOUT (R261): from the oldest unacknowledged frame. -/
def execReplayTimeout (p : Nat) (s : State) : Host.Outcome State Fault Refusal :=
  s.runIf (portOk p) fun d =>
    match (d.fab p).rtx with
    | [] => d
    | x :: _ => if d.portUp p then d.replayFrom p x.2.fseq.toNat else d

/-- The first frame of a send queue that its channel's credits and the retransmission buffer admit; a frame does not pass an earlier
one of its channel (R261, R265). -/
def pickTx (cred : List Nat) (room : Nat) : List TxE → List Nat → Option (TxE × List TxE)
  | [], _ => none
  | e :: l, blocked =>
    let v := e.frame.hops
    if !inSet blocked v && decide (frameFlits e.frame ≤ nth 0 cred v) && decide (frameFlits e.frame ≤ room) then some (e, l)
    else match pickTx cred room l (v :: blocked) with
      | some (x, r) => some (x, e :: r)
      | none => none

/-- FRAME_TRANSMIT (R261, R262, R265). -/
def execFrameTransmit (p : Nat) (s : State) : Host.Outcome State Fault Refusal :=
  s.runIf (portOk p) fun d =>
    let f := d.fab p
    let used := f.rtx.foldl (fun a x => a + frameFlits x.2) 0
    match (if d.portUp p then pickTx f.cred (512 - used) f.txq [] else none) with
    | none => d
    | some (e, rest) =>
      let fr : Frame := { e.frame with fseq := BitVec.ofNat 32 f.txSeq, ack := f.ackNow, credit := f.back }
      let d1 := d.setFab p { f with
        txq := rest, rtx := f.rtx ++ [(0, fr)], txSeq := (f.txSeq + 1) % 2 ^ 32, back := [0, 0, 0, 0], seen := 0
        cred := setNth f.cred fr.hops (nth 0 f.cred fr.hops - frameFlits fr) }
      let d2 := match e.held with
        | some (q, vc) => d1.credBack q vc (frameFlits fr)
        | none => d1
      d2.emit (.frame p fr)

/-- IDLE (R258): discarded. -/
def execIdle (p : Nat) (fec : FecIn) (s : State) : Host.Outcome State Fault Refusal :=
  s.runIf (portOk p) fun d => if d.portUp p then d.flitsIn p (if fec.uncorr = 0 then 1 else 0) fec else d

/-- KIND values of Table 9.2. -/
def flitListed (k : BitVec 8) : Bool := decide (k.toNat ≤ 8)

/-- BAD_FLIT (R258). -/
def execBadFlit (p : Nat) (kind : BitVec 8) (fec : FecIn) (s : State) : Host.Outcome State Fault Refusal :=
  s.runIf (portOk p) fun d =>
    if !d.portUp p then d
    else if fec.uncorr ≠ 0 then d.flitsIn p 0 fec
    else if flitListed kind then d.flitsIn p 1 fec
    else (d.flitsIn p 1 fec).bump (rXchPortBadflit p) 1

/-- An ABORT flit that no codeword lost (R277): `p` is the port it came on. -/
def Dev.abortIn (d : Dev) (p : Nat) (epoch origin : BitVec 16) (cause : BitVec 8) : Dev :=
  if inSet d.aborts epoch.toNat then d
  else
    let d1 := ({ d with aborts := (epoch.toNat :: d.aborts).take 8 }.wr rXchAbortLast (BitVec.ofNat 32 (2 ^ 16 + epoch.toNat))).bump
      rXchAbortsSeen 1
    let d2 := iter 32 (fun q x =>
      if q ≠ p && x.portUp q then
        let f := Out.abortFlit q epoch.toNat origin.toNat cause.toNat
        ((x.emit f).emit f).emit f
      else x) d1
    if epoch.toNat = d2.epoch then d2.jobFatal else d2

/-- ABORT_FLIT (R277). -/
def execAbortFlit (p : Nat) (epoch origin : BitVec 16) (cause : BitVec 8) (crcOk : Bool) (fec : FecIn) (s : State) :
    Host.Outcome State Fault Refusal :=
  s.runIf (portOk p) fun d =>
    if !d.portUp p then d
    else if fec.uncorr ≠ 0 then d.flitsIn p 0 fec
    else if !crcOk then (d.flitsIn p 1 fec).bump (rXchPortHcrcBad p) 1
    else (d.flitsIn p 1 fec).abortIn p epoch origin cause

/-- PORT_TRAINED (R257): a peer that reports the device's own node id disables the port. FSEQ restarts (R259). A port of a quarantined half goes DOWN
(R381). -/
def execPortTrained (p node pport : Nat) (s : State) : Host.Outcome State Fault Refusal :=
  s.runIf (portOk p) fun d =>
    if d.fld (rXchPortStatus p) 2 0 ≠ 1 then d
    else if d.isQuar ⟨.xchHalf, p / 16⟩ then d.setFld (rXchPortStatus p) 2 0 4
    else
      let d1 := d.setFab p { noreq := (d.fab p).noreq }
      let d2 := d1.wr (rXchPortPeer p) (BitVec.ofNat 32 (2 ^ 31 + pport % 32 * 2 ^ 16 + node % 16384))
      if node % 16384 = d.node then (d2.setFld (rXchPortStatus p) 2 0 5).setFld (rXchPortStatus p) 8 8 1
      else d2.setFld (rXchPortStatus p) 2 0 2

/-! ### Lane sparing -/

/-- The lowest-numbered free, enabled spare that is cabled to a port (R253). -/
def Dev.freeSpare (d : Dev) (p : Nat) : Option Nat :=
  findFrom (fun i =>
    let v := d.rd (rXchSpare (p / 16 * 8 + i))
    bitsOf v 5 5 == 1 && bitsOf v 6 6 == 0 && bitsOf v 4 0 == p
      && !(d.fab p).spares.any fun s => s.spare == p / 16 * 8 + i) 8 0 |>.map (p / 16 * 8 + ·)

/-- An end has no spare for a lane (R275): sticky bit and event; an unaligned lane takes the port DOWN. -/
def Dev.noSpare (d : Dev) (p : Nat) (aligned : Bool) : Dev :=
  let d1 := (d.setFld (rXchPortStatus p) 9 9 1).raise 5
  if aligned then d1 else d1.portDown p

/-- A spare pair starts training (Table 9.6). -/
def Dev.trainSpare (d : Dev) (p lane spare : Nat) : Dev :=
  (d.setFld (rXchPortStatus p) 2 0 3).setFab p { d.fab p with spares := (d.fab p).spares ++ [⟨lane, spare, false⟩] }

/-- The spare pair in training for a lane of a port. -/
def Dev.sparing (d : Dev) (p lane : Nat) : Option Sparing := (d.fab p).spares.find? fun s => s.lane == lane

/-- A receiver finds a lane over threshold, with `corr` symbols corrected within 1 ms, or out of alignment (R274). -/
def Dev.laneBad (d : Dev) (aligned : Bool) (corr : Nat) : Bool := !aligned || decide (1024 * d.fld rXchCfg 31 24 < corr)

/-- An end of the pair has no spare: the receiver makes no further request for the lane until NOSPARE is cleared (R275). -/
def Dev.spareRefused (d : Dev) (p lane : Nat) (aligned : Bool) : Dev :=
  (d.setFab p { d.fab p with noreq := setIns (d.fab p).noreq lane }).noSpare p aligned

/-- LANE_SPARE_REQUEST (R274, R275): the request goes out and the peer, whose answer `granted` is, gives its own spare or refuses; the spare named in
a refused request stays free. -/
def execLaneSpareRequest (p lane : Nat) (aligned : Bool) (corr : Nat) (granted : Bool) (s : State) : Host.Outcome State Fault Refusal :=
  s.runIf (portOk p && decide (lane < 4)) fun d =>
    if !d.portUp p || (d.sparing p lane).isSome || !d.laneBad aligned corr then d
    else if inSet (d.fab p).noreq lane && decide (d.fld (rXchPortStatus p) 9 9 = 1) then (if aligned then d else d.portDown p)
    else match d.freeSpare p with
      | some n =>
        if granted then (d.trainSpare p lane n).emit (.spareReq p lane n)
        else (d.emit (.spareReq p lane n)).spareRefused p lane aligned
      | none => d.spareRefused p lane aligned

/-- SPARE_REQUEST_RECEIVE (R275, Table 9.6). -/
def execSpareRequestReceive (p lane spare : Nat) (aligned : Bool) (s : State) : Host.Outcome State Fault Refusal :=
  s.runIf (portOk p && decide (lane < 4) && decide (spare < 16)) fun d =>
    if !d.portUp p then d
    else match d.sparing p lane with
      | some q => d.emit (.spareAnswer p lane (some q.spare))
      | none =>
        match d.freeSpare p with
        | some n => (d.trainSpare p lane n).emit (.spareAnswer p lane (some n))
        | none => (d.emit (.spareAnswer p lane none)).noSpare p aligned

/-- SPARE_LOCKED (R274, Table 9.6): lane ids that do not match take the port DOWN. -/
def execSpareLocked (p lane : Nat) (idsMatch : Bool) (s : State) : Host.Outcome State Fault Refusal :=
  s.runIf (portOk p && decide (lane < 4)) fun d =>
    match d.sparing p lane with
    | some _ =>
      if idsMatch then
        d.setFab p { d.fab p with spares := (d.fab p).spares.map fun s => if s.lane = lane then { s with locked := true } else s }
      else d.portDown p
    | none => d

/-- Physical lane of spare `n` (R252). -/
def spareLane (n : Nat) : Nat := 72 * (n / 8) + 64 + n % 8

/-- LANE_SWITCH (R274, Table 9.6); a runtime sparing counts as a failed retest of the lane it retires, which is permanent from the second
(R383). -/
def execLaneSwitch (p lane : Nat) (s : State) : Host.Outcome State Fault Refusal :=
  s.runIf (portOk p && decide (lane < 4)) fun d =>
    match d.sparing p lane with
    | some q =>
      if !q.locked then d
      else
        let u : HwUnit := ⟨.fabricLane, d.fld (rXchPortLanemap p) (8 * lane + 7) (8 * lane)⟩
        let d0 := (d.bind u (spareLane q.spare)).laneFail 9 10 u
        let d1 := (d0.setFld (rXchPortLanemap p) (8 * lane + 7) (8 * lane) (spareLane q.spare)).bump (rXchPortSpares p) 1
        let d2 := (d1.setFld (rXchSpare q.spare) 23 16 (4 * p + lane)).setFld (rXchSpare q.spare) 6 6 1
        let rest := (d2.fab p).spares.filter fun s => s.lane != lane
        (if rest.isEmpty then d2.setFld (rXchPortStatus p) 2 0 2 else d2).setFab p { d2.fab p with spares := rest }
    | none => d

end Sys2Proof.Machine
end

