-- ==== Sys2Proof/Machine/Access.lean ====
section
/-!
DEFINITION. Reading and writing device memory by virtual address: the engines' accesses, which park on a fault (R194), and the Studio's
reads of named records at validation (R424); exchange records and group records (Tables 10.1 and 10.2).
-/

namespace Sys2Proof.Machine

/-- The die whose shared cache an agent uses (R187): its own, or the first of the C-dies nearest to an exchange half (R18). -/
def agentDie : Agent → Nat
  | .tile t => dieOf t
  | .dma n _ => n
  | .wheel n => n
  | .xrecv h => 4 * h
  | .xsend h => 4 * h

/-- The tile whose own cache an agent uses. -/
def agentTile : Agent → Option Nat
  | .tile t => some t
  | _ => none

/-- Go on with the value of a step that has one. -/
def ifDone {α : Type} (r : Dev × Option α) (k : α → Dev → Dev) : Dev :=
  match r with
  | (d, some a) => k a d
  | (d, none) => d

/-- Go on with the value of a step, to another step. -/
def thenDo {α β : Type} (r : Dev × Option α) (k : α → Dev → Dev × Option β) : Dev × Option β :=
  match r with
  | (d, some a) => k a d
  | (d, none) => (d, none)

/-- The addresses at which an access of `n` bytes from `va` enters each block. -/
def cover (va n : Nat) : List Nat :=
  if n = 0 then [] else va :: (List.range ((va + n - 1) / 256 - va / 256)).map fun i => (va / 256 + 1 + i) * 256

/-- Physical addresses of an agent's accesses; the first that faults parks the agent. -/
def Dev.vaPas (ag : Agent) (stream : Nat) (acc : Access) : List Nat → Dev → Dev × Option (List Nat)
  | [], d => (d, some [])
  | va :: vs, d =>
    match d.translate (agentDie ag) (agentTile ag) va acc with
    | (.dead, d1) => (d1, none)
    | (.fault c l e, d1) => (d1.park ag va acc stream c l e, none)
    | (.ok pa, d1) =>
      match d1.refuse pa with
      | some d2 => (d2, none)
      | none =>
        match Dev.vaPas ag stream acc vs d1 with
        | (d2, some ps) => (d2, some (pa :: ps))
        | r => r

/-- The unit charged for an agent's failed read that is not the source's fault (Table 13.2). -/
def agentUnit : Agent → HwUnit
  | .tile t => ⟨.tile, t⟩
  | .dma n _ => ⟨.agentPath, 4 * n⟩
  | .wheel n => ⟨.agentPath, 4 * n + 1⟩
  | .xrecv h => ⟨.xchHalf, h⟩
  | .xsend h => ⟨.xchHalf, h⟩

/-- The blocks at physical addresses, each checked for glaze with its one fresh read (R176, R365). -/
def Dev.takeBlocks (reader : Option HwUnit) : List Nat → Dev → Dev × Option (List Byte)
  | [], d => (d, some [])
  | pa :: ps, d =>
    match d.readBlock reader pa with
    | (d1, false) => (d1, none)
    | (d1, true) =>
      match Dev.takeBlocks reader ps d1 with
      | (d2, some bs) => (d2, some (d1.block pa ++ bs))
      | r => r

/-- Read bytes by virtual address. -/
def Dev.vread (ag : Agent) (stream va n : Nat) (d : Dev) : Dev × Option (List Byte) :=
  thenDo (Dev.vaPas ag stream .read (cover va n) d) fun pas d1 =>
    thenDo (Dev.takeBlocks (some (agentUnit ag)) pas d1) fun bs d2 => (d2, some ((bs.drop (va % 256)).take n))

/-- Write bytes at physical addresses, block by block; a part of a block reads the old one first (R177). -/
def Dev.putBlocks : List Nat → List Byte → Dev → Dev
  | [], _, d => d
  | pa :: ps, bs, d =>
    let part := bs.take (256 - pa % 256)
    let d1 := if part.length = 256 then d.writeBlock pa part else d.takeCode.2.writePart pa part d.takeCode.1
    Dev.putBlocks ps (bs.drop (256 - pa % 256)) d1

/-- Write bytes by virtual address; nothing is written if any of it faults. -/
def Dev.vwrite (ag : Agent) (stream va : Nat) (bs : List Byte) (d : Dev) : Dev × Option Unit :=
  thenDo (Dev.vaPas ag stream .write (cover va bs.length) d) fun pas d1 => (Dev.putBlocks pas bs d1, some ())

/-! ### Reads at validation -/

/-- Outcome of a check at validation: a value, a rejection, or a fault of the unit that holds a record. -/
inductive Chk (α : Type) where
  | ok (v : α)
  | bad (status detail : Nat)
  | dead
deriving DecidableEq, Repr

/-- Go on with the value of a check. -/
def andChk {α β : Type} (r : Dev × Chk α) (k : α → Dev → Dev × Chk β) : Dev × Chk β :=
  match r with
  | (d, .ok a) => k a d
  | (d, .bad s x) => (d, .bad s x)
  | (d, .dead) => (d, .dead)

/-- ST_BAD_PARAM. -/
def stBadParam : Nat := 2

/-- DETAIL for a field of a structure (Table 15.6): 0 the parameter area, 1 the record, 2 its table, 3 its group record. -/
def badField (param off st : Nat) : Nat := param + (if st = 0 then 0 else (off + 1) * 2 ^ 16 + st * 2 ^ 48)

/-- A walk for a record that the Studio reads (R424): a fault posts nothing, and the command is rejected with ST_BAD_ADDR. -/
def stuWalk (va : Nat) : Trans × Option TlbEntry × Dev → Dev × Chk Nat
  | (.dead, _, d) => (d, .dead)
  | (.fault _ _ _, _, d) => (d, .bad 0x0B va)
  | (.ok pa, _, d) =>
    match d.refuse pa with
    | some d1 => (d1, .dead)
    | none => (d, .ok pa)

/-- Physical addresses of a record that the Studio reads (R424). -/
def Dev.stuPas : List Nat → Dev → Dev × Chk (List Nat)
  | [], d => (d, .ok [])
  | va :: vs, d =>
    if 2 ^ 52 ≤ va || d.fld rMmuCtl 0 0 == 0 then (d, .bad 0x0B va)
    else
      andChk (stuWalk va (d.walkRoot 0 va false)) fun pa d1 => andChk (Dev.stuPas vs d1) fun ps d2 => (d2, .ok (pa :: ps))

/-- Bytes of a record that the Studio reads. -/
def Dev.stuRead (va n : Nat) (d : Dev) : Dev × Chk (List Byte) :=
  andChk (Dev.stuPas (cover va n) d) fun pas d1 =>
    match Dev.takeBlocks none pas d1 with
    | (d2, some bs) => (d2, .ok ((bs.drop (va % 256)).take n))
    | (d2, none) => (d2, .dead)

/-! ### Exchange and group records -/

/-- Fields of an exchange record (Table 10.1). -/
structure XRec where
  op      : Nat
  dtype   : Nat
  group   : Nat
  xid     : Nat
  src     : Nat
  srcx    : Nat
  dst     : Nat
  blocks  : Nat
  timeout : Nat
  sync    : Nat
  peer    : Nat
  count   : Nat
  table   : Nat
  flags   : Nat
deriving DecidableEq, Repr

/-- The fields of 64 record bytes. -/
def xrec (b : List Byte) : XRec :=
  { op := field b 0 1, dtype := field b 1 1, group := field b 2 2, xid := field b 4 4 % 2 ^ 24, src := field b 8 8
    srcx := field b 16 8, dst := field b 24 8, blocks := field b 32 4, timeout := field b 36 4, sync := field b 40 2 % 8192
    peer := field b 42 2, count := field b 44 4, table := field b 48 8, flags := field b 56 2 }

/-- Integer type. -/
def XRec.itype (r : XRec) : Nat := r.dtype % 4

/-- Source format. -/
def XRec.sfmt (r : XRec) : Nat := r.dtype / 4 % 4

/-- Result format. -/
def XRec.rfmt (r : XRec) : Nat := r.dtype / 16 % 4

/-- STEP. -/
def XRec.isStep (r : XRec) : Bool := r.flags.testBit 0

/-- NORM. -/
def XRec.isNorm (r : XRec) : Bool := r.flags.testBit 1

/-- OWNER. -/
def XRec.isOwner (r : XRec) : Bool := r.flags.testBit 2

/-- The fields of a group record and its member entries (Table 10.2). -/
def grpOf (h m : List Byte) : Grp :=
  { n := field h 0 2, self := field h 2 2, levels := field h 4 1, dims := (List.range 4).map fun i => field h (8 + 2 * i) 2
    stage := field h 16 8, stagelen := field h 24 4, members := (List.range (field h 0 2)).map fun g => field m (4 * g) 4 }

/-- A group of no members. -/
def grpNone : Grp := { n := 0, self := 0, levels := 0, dims := [], stage := 0, stagelen := 0, members := [] }

/-- Read a group record at validation (R285); an entry of 0 is no group. -/
def Dev.stuGroup (no : Nat) (d : Dev) : Dev × Chk (Option Grp) :=
  andChk (Dev.stuRead (d.rd64 rXchGroupBaseLo + 8 * (no % 4096)) 8 d) fun e d1 =>
    if leNat e = 0 then (d1, .ok none)
    else
      andChk (Dev.stuRead (leNat e) 64 d1) fun h d2 =>
        andChk (Dev.stuRead (leNat e + 64) (4 * field h 0 2) d2) fun m d3 => (d3, .ok (some (grpOf h m)))

/-- Read a group record as an engine (R285). -/
def Dev.readGroup (ag : Agent) (stream no : Nat) (d : Dev) : Dev × Option (Option Grp) :=
  thenDo (Dev.vread ag stream (d.rd64 rXchGroupBaseLo + 8 * (no % 4096)) 8 d) fun e d1 =>
    if leNat e = 0 then (d1, some none)
    else
      thenDo (Dev.vread ag stream (leNat e) 64 d1) fun h d2 =>
        thenDo (Dev.vread ag stream (leNat e + 64) (4 * field h 0 2) d2) fun m d3 => (d3, some (some (grpOf h m)))

/-- Product of a list. -/
def prod (l : List Nat) : Nat := l.foldl (· * ·) 1

/-- The first field of a group record that R286 and Table 10.2 do not admit. -/
def Grp.badAt (g : Grp) : Option Nat :=
  if g.n = 0 || decide (16384 < g.n) then some 0
  else if g.n ≤ g.self then some 2
  else if g.levels = 0 || decide (4 < g.levels) then some 4
  else if prod (g.dims.take g.levels) ≠ g.n || (g.dims.drop g.levels).any (· != 1) then some 8
  else none

/-- Members in digit `i`. -/
def Grp.dim (g : Grp) (i : Nat) : Nat := nth 1 g.dims i

/-- Positions from one value of digit `i` to the next (R286). -/
def Grp.stride (g : Grp) (i : Nat) : Nat := prod (g.dims.take i)

/-- Digit `i` of a position (R286). -/
def Grp.digit (g : Grp) (p i : Nat) : Nat := p / g.stride i % g.dim i

/-- Member entry of a position. -/
def Grp.member (g : Grp) (p : Nat) : Nat := nth 0 g.members p

/-- Node id of a position. -/
def Grp.node (g : Grp) (p : Nat) : Nat := g.member p % 16384

/-- Palette index of this device's window to a position. -/
def Grp.win (g : Grp) (p : Nat) : Nat := g.member p / 2 ^ 16 % 64

/-- The position has a window. -/
def Grp.hasWin (g : Grp) (p : Nat) : Bool := (g.member p).testBit 31

/-- Hop peers of a level (R286). -/
def Grp.hop (g : Grp) (i : Nat) : List Nat :=
  ((List.range (g.dim i)).filter (· != g.digit g.self i)).map fun j => g.self - g.digit g.self i * g.stride i + j * g.stride i

/-- All hop peers. -/
def Grp.hops (g : Grp) : List Nat := (List.range g.levels).flatMap g.hop

/-- Every other position. -/
def Grp.others (g : Grp) : List Nat := (List.range g.n).filter (· != g.self)

/-- The pieces, of N, whose digits below `i` are those of position `p`, and whose digit `i` is `j` (R287, R299). -/
def Grp.pieces (g : Grp) (p i j : Nat) : List Nat :=
  (List.range g.n).filter fun q => q % g.stride i == p % g.stride i && g.digit q i == j

end Sys2Proof.Machine
end

