-- ==== Sys2Proof/Machine/Exchange.lean ====
section
/-!
DEFINITION. The fabric exchange engine (R284 to R292, R531 to R534): validation of exchange records, streams of blocks and their
credits, delivery at the destination, receiver operations, holds, one-value exchanges and hops.
-/

namespace Sys2Proof.Machine

/-! ### Validation -/

/-- OPs that an opcode issues (Table 10.3). -/
def xIssued (opc op : Nat) : Bool :=
  if opc = 0x11 then op == 3 || op == 5 || op == 6 || op == 7 || op == 9
  else if opc = 0x12 then op == 2 || op == 4 || op == 0x0A || op == 0x0B
  else op == 8

/-- DTYPE combinations that R293 admits. -/
def dtypeOk (r : XRec) : Bool :=
  decide (r.dtype < 64) && (if r.sfmt = 0 then decide (r.itype < 3) && decide (r.rfmt = 0)
    else decide (r.itype = 0) && (r.rfmt == 1 || r.rfmt == 2))

/-- A bucket-table entry (Table 10.6). -/
structure BEnt where
  bucket : Nat
  woff   : Nat
  elems  : Nat
  sfmt   : Nat
  rfmt   : Nat
  src    : Nat
  srcx   : Nat
  result : Nat
deriving DecidableEq, Repr

/-- Entry `i` of a bucket table. -/
def bentAt (t : List Byte) (i : Nat) : BEnt :=
  let b := t.drop (48 * i)
  { bucket := field b 0 4, woff := field b 4 4, elems := field b 8 4, sfmt := field b 12 1, rfmt := field b 13 1
    src := field b 16 8, srcx := field b 24 8, result := field b 32 8 }

/-- The entries of a bucket table, numbered. -/
def bents (t : List Byte) : List (Nat × BEnt) := (List.range (t.length / 48)).map fun i => (i, bentAt t i)

/-- Entries of one bucket. -/
def bucketEnts (t : List Byte) (b : Nat) : List (Nat × BEnt) := (bents t).filter fun e => e.2.bucket == b

/-- Blocks of work of a bucket in a group of `n` (R297). -/
def bucketBlocks (t : List Byte) (n b : Nat) : Nat :=
  roundUp (4 * (bucketEnts t b).foldl (fun a e => max a (e.2.woff + e.2.elems)) 0) (256 * n) / 256

/-- The bucket that follows a number, or the first. -/
def nextBucket (t : List Byte) (b : Option Nat) : Option Nat :=
  (bents t).foldl (fun a e =>
    let ok := match b with
      | some x => decide (x < e.2.bucket)
      | none => true
    match a with
    | none => if ok then some e.2.bucket else none
    | some y => if ok then some (min y e.2.bucket) else some y) none

/-- The first fault of an entry against Table 10.6, as a field offset. -/
def bentBad (t : List Byte) (i : Nat) : Option Nat :=
  let b := t.drop (48 * i)
  let e := bentAt t i
  if decide (0 < i) && decide (e.bucket < (bentAt t (i - 1)).bucket) then some 0
  else if e.sfmt = 3 && e.elems % 32 != 0 then some 8
  else if e.sfmt = 0 || decide (3 < e.sfmt) then some 12
  else if e.rfmt = 0 || decide (2 < e.rfmt) then some 13
  else if field b 14 2 ≠ 0 then some 14
  else if field b 44 4 ≠ 0 then some 44
  else none

/-- Ranges `[a, a + n)` and `[b, b + m)` meet. -/
def meets (a n b m : Nat) : Bool := decide (0 < n) && decide (0 < m) && decide (a < b + m) && decide (b < a + n)

/-- Two entries of one bucket overlap, the second being `i` (R297). -/
def bentOverlap (t : List Byte) (i : Nat) : Bool :=
  (bents (t.take (48 * i))).any fun e =>
    let f := bentAt t i
    e.2.bucket == f.bucket && meets e.2.woff e.2.elems f.woff f.elems

/-- Check a bucket table (R297): entry and field of the first fault. -/
def bucketTableBad (t : List Byte) (n : Nat) : Option (Nat × Nat) :=
  let cnt := t.length / 48
  let last := (bentAt t (cnt - 1)).bucket
  (List.range cnt).findSome? fun i =>
    match bentBad t i with
    | some f => some (i, f)
    | none =>
      if bentOverlap t i then some (i, 4)
      else
        let b := (bentAt t i).bucket
        let first := i == 0 || (bentAt t (i - 1)).bucket != b
        let w := 256 * bucketBlocks t n b
        if first && b != last && (decide (w < 16777216) || decide (268435456 < w)) then some (i, 0) else none

/-- A permute-table entry (Table 10.9). -/
structure PEnt where
  round : Nat
  from_ : Nat
  to_   : Nat
  soff  : Nat
  doff  : Nat
  len   : Nat
deriving DecidableEq, Repr

/-- Entry `i` of a permute table. -/
def pentAt (t : List Byte) (i : Nat) : PEnt :=
  let b := t.drop (32 * i)
  { round := field b 0 2, from_ := field b 2 2, to_ := field b 4 2, soff := field b 8 8, doff := field b 16 8, len := field b 24 4 }

/-- The entries of a permute table. -/
def pents (t : List Byte) : List PEnt := (List.range (t.length / 32)).map (pentAt t)

/-- The first fault of an entry of a permute table (R310, Table 10.9), as a field offset. -/
def pentBad (t : List Byte) (n blocks i : Nat) : Option Nat :=
  let b := t.drop (32 * i)
  let e := pentAt t i
  let all := (List.range (t.length / 32)).filter (· != i)
  if decide (0 < i) && decide (e.round < (pentAt t (i - 1)).round) then some 0
  else if n ≤ e.from_ || all.any (fun j => decide (j < i) && (pentAt t j).round == e.round && (pentAt t j).from_ == e.from_) then some 2
  else if n ≤ e.to_ || all.any (fun j => decide (j < i) && (pentAt t j).round == e.round && (pentAt t j).to_ == e.to_) then some 4
  else if field b 6 2 ≠ 0 then some 6
  else if e.soff % 256 ≠ 0 then some 8
  else if e.doff % 256 ≠ 0 || all.any (fun j =>
      let f := pentAt t j
      (f.to_ == e.to_ && meets e.doff (256 * e.len) f.doff (256 * f.len))
        || (f.from_ == e.to_ && decide (e.round < f.round) && meets e.doff (256 * e.len) f.soff (256 * f.len))) then some 16
  else if blocks < e.len then some 24
  else if field b 28 4 ≠ 0 then some 28
  else none

/-- Check a permute table: entry and field of the first fault. -/
def permTableBad (t : List Byte) (n blocks : Nat) : Option (Nat × Nat) :=
  (List.range (t.length / 32)).findSome? fun i => (pentBad t n blocks i).map fun f => (i, f)

/-- Blocks of one piece: BLOCKS for an ALL_GATHER, a part of the region for a reduction. -/
def pieceLen (r : XRec) (n : Nat) : Nat := if r.op = 3 then r.blocks else r.blocks / n

/-- One past the largest of a list of pieces. -/
def topOf (l : List Nat) : Nat := l.foldl (fun a p => max a (p + 1)) 0

/-- Blocks, from the start of its window, that an operation can write on the peer at position `p` (R281, R531). -/
def needOn (r : XRec) (g : Grp) (tbl : List Byte) (p : Nat) : Nat :=
  let lv := (List.range g.levels).filter fun i => g.digit p i != g.digit g.self i
  let sc := lv.foldl (fun a i => max a (topOf (g.pieces g.self i (g.digit p i)))) 0
  let ga := lv.foldl (fun a i => max a (topOf (g.pieces g.self i (g.digit g.self i)))) 0
  if r.op = 2 then max 1 (sc * pieceLen r g.n)
  else if r.op = 4 then max 1 (max sc ga * pieceLen r g.n)
  else if r.op = 3 then ga * pieceLen r g.n
  else if r.op = 5 then r.blocks
  else if r.op = 7 then (if r.count = 1 then r.blocks else 2 * r.blocks)
  else if r.op = 8 then (pents tbl).foldl (fun a e => if e.from_ == g.self && e.to_ == p then max a e.len else a) 0
  else if r.op = 0x0A then 2097152
  else 1

/-- Positions that an operation exchanges blocks with. -/
def xPartners (r : XRec) (g : Grp) (tbl : List Byte) : List Nat :=
  if r.op = 5 || r.op = 6 then [r.peer]
  else if r.op = 7 then [(g.self + 1) % g.n, (g.self + g.n - 1) % g.n]
  else if r.op = 8 then g.others.filter fun p => (pents tbl).any fun e =>
    (e.from_ == g.self && e.to_ == p) || (e.from_ == p && e.to_ == g.self)
  else if r.op = 9 then []
  else g.hops

/-- Positions that an operation sends blocks to. -/
def xTargets (r : XRec) (g : Grp) (tbl : List Byte) : List Nat :=
  if r.op = 6 then []
  else if r.op = 7 then [(g.self + 1) % g.n]
  else if r.op = 8 then g.others.filter fun p => (pents tbl).any fun e => e.from_ == g.self && e.to_ == p
  else xPartners r g tbl

/-- The first Palette entry that R286 or R281 does not admit: every hop peer of the group has a window, and so has every partner. -/
def Dev.winBad (d : Dev) (r : XRec) (g : Grp) (tbl : List Byte) : Option Nat :=
  match (g.hops ++ xPartners r g tbl).find? fun p => !g.hasWin p with
  | some p => some (g.win p)
  | none =>
    ((xTargets r g tbl).find? fun p =>
      let v := d.rd (rPalEntryPeer (g.win p))
      bitsOf v 15 15 == 0 || bitsOf v 16 16 == 0 || decide ((d.rd (rPalEntryRlen (g.win p))).toNat < needOn r g tbl p)).map g.win

/-- An operation with this XID runs in the present generation (R292). -/
def Dev.xRuns (d : Dev) (xid : Nat) : Bool :=
  d.xops.any fun x => x.key == xid && x.gen == d.fld rXchGen 7 0 && decide (x.stage ≠ .draining)

/-- The first field of an exchange record that is at fault, before its group is read. -/
def xBad1 (opc : Nat) (r : XRec) : Option Nat :=
  if !xIssued opc r.op then some 0
  else if (r.op = 2 || r.op = 4) && !dtypeOk r then some 1
  else if 4095 < r.group then some 2
  else none

/-- The first field at or after XID that is at fault, up to COUNT. -/
def Dev.xBad2 (d : Dev) (b : List Byte) (r : XRec) (g : Grp) : Option Nat :=
  if field b 7 1 ≠ 0 || d.xRuns r.xid then some 4
  else if (r.op = 2 || r.op = 4) && (decide (r.blocks = 0) || r.blocks % g.n != 0) then some 32
  else if r.timeout = 0 then some 36
  else if 8192 ≤ field b 40 2 then some 40
  else if (r.op = 5 || r.op = 6) && decide (g.n ≤ r.peer) then some 42
  else if r.op = 7 && (g.levels != 1 || decide (r.count = 0) || decide (g.n ≤ r.count)) then some 44
  else if r.op = 0x0A && decide (16777215 < r.count) then some 44
  else none

/-- The fields after TABLE. -/
def xBad3 (b : List Byte) : Option Nat :=
  if 8 ≤ field b 56 2 then some 56 else if field b 58 6 ≠ 0 then some 58 else none

/-- Bytes of the table that a record names. -/
def xTableLen (r : XRec) : Nat := if r.op = 0x0A then 48 * r.count else if r.op = 8 then 32 * r.count else 0

/-- The fault of a table. -/
def xTableBad (r : XRec) (g : Grp) (t : List Byte) : Option Nat :=
  if r.op = 0x0A then (bucketTableBad t g.n).map fun p => 48 * p.1 + p.2
  else if r.op = 8 then (permTableBad t g.n r.blocks).map fun p => 32 * p.1 + p.2
  else none

/-- Reject at a field, or go on. -/
def rejectAt {α : Type} (f : Option Nat) (st : Nat) (d : Dev) (k : Dev → Dev × Chk α) : Dev × Chk α :=
  match f with
  | some off => (d, .bad stBadParam (badField 0 off st))
  | none => k d

/-- Validate an exchange record (R284 to R286, R292, R293, R296, R297, R309, R310, R281): the record, its group and its table. -/
def Dev.xCheck (opc va : Nat) (d : Dev) : Dev × Chk (List Byte × Grp × List Byte) :=
  andChk (Dev.stuRead va 64 d) fun b d1 =>
    let r := xrec b
    if r.op = 7 && decide (r.sync = 8191) then (d1, .bad 5 8192)
    else
      rejectAt (xBad1 opc r) 1 d1 fun d2 =>
        andChk (Dev.stuGroup r.group d2) fun og d3 =>
          match og with
          | none => (d3, .bad stBadParam (badField 0 2 1))
          | some g =>
            rejectAt g.badAt 3 d3 fun d4 =>
              rejectAt (d4.xBad2 b r g) 1 d4 fun d5 =>
                andChk (Dev.stuRead r.table (xTableLen r) d5) fun t d6 =>
                  rejectAt (xTableBad r g t) 2 d6 fun d7 =>
                    rejectAt (xBad3 b) 1 d7 fun d8 =>
                      match d8.winBad r g t with
                      | some w => (d8, .bad 0x11 w)
                      | none => (d8, .ok (b, g, t))

/-! ### Running operations -/

/-- The operation with a key. -/
def Dev.xop? (d : Dev) (key : Nat) : Option Xop := d.xops.find? fun x => x.key == key && decide (x.stage ≠ .draining)

/-- Replace an operation, found by its own number. -/
def Dev.setX (d : Dev) (x : Xop) : Dev :=
  { d with xops := d.xops.map fun y => if y.uid = x.uid then x else y }

/-- Drop an operation. -/
def Dev.delX (d : Dev) (x : Xop) : Dev :=
  { d with xops := d.xops.filter fun y => y.uid != x.uid }.dropWaiters (waitsRing x.uid)

/-- The record of an operation. -/
def Xop.r (x : Xop) : XRec := xrec x.rec_

/-- XCH_CFG.XWIN (R270). -/
def Dev.xwin (d : Dev) : Nat := min (max (d.fld rXchCfg 23 16) 8) 64

/-- Node ids of the peers of an operation: the group position that a SEND or RECV names, the neighbours of a RING, every other member
otherwise. -/
def Xop.peers (x : Xop) : List Nat :=
  if x.key < 2 ^ 24 && (x.op = 5 || x.op = 6 || x.op = 7) then (xPartners x.r x.grp x.table).map x.grp.node
  else x.grp.others.map x.grp.node

/-- An originated routed frame with the fields every one carries (Table 9.3). -/
def Dev.frame0 (d : Dev) (kind dst xid : Nat) : Frame :=
  { kind := kind, hops := 0, last := false, xop := 0, fseq := 0, dst := dst, src := d.node, epoch := BitVec.ofNat 16 d.epoch
    wseq := 0, xid := BitVec.ofNat 32 xid, win := 0, sub := 0, offset := 0, value := 0, step := 0, faultId := 0, glaze := []
    blocks := [], ack := 0, credit := [0, 0, 0, 0], hcrcOk := true }

/-- Send a frame of the device's own. -/
def Dev.originate (d : Dev) (f : Frame) : Dev := d.routeOn ⟨none, f⟩

/-- Code of an agent among the parks that hold an operation. -/
def agentCode : Agent → Nat
  | .xrecv h => h
  | .xsend h => 2 + h
  | .wheel n => 4 + n
  | .dma n e => 16 + 8 * n + e
  | .tile t => 1024 + t

/-- Send a HOLD to each peer of an operation (R202, R273, Table 9.4). -/
def Dev.sendHolds (d : Dev) (x : Xop) (fault : Nat) : Dev :=
  x.peers.foldl (fun y n => y.originate { y.frame0 3 n x.wire with value := 1, faultId := BitVec.ofNat 32 fault }) d

/-- Send a RESUME to each peer. -/
def Dev.sendResumes (d : Dev) (x : Xop) : Dev := x.peers.foldl (fun y n => y.originate (y.frame0 4 n x.wire)) d

/-- The agent of the newest park holds an operation up (R202): its own count stops, and its peers are held. -/
def Dev.holdX (d : Dev) (x : Xop) : Dev :=
  match d.parks.getLast? with
  | none => d
  | some p =>
    let x1 := { x with own := x.own ++ [(agentCode p.agent, p.va)] }
    let d1 := d.setX x1
    if x.own.isEmpty then d1.sendHolds x1 (p.fault.getD 0) else d1

/-- Send a HOLD or RESUME for an exchange that is not launched here yet (R202). -/
def Dev.earlyFrames (d : Dev) (e : EarlyHold) (kind fault : Nat) : Dev :=
  (e.grp.others.map e.grp.node).foldl (fun y n =>
    y.originate { y.frame0 kind n (wireOf e.gen e.key) with value := if kind = 3 then 1 else 0, faultId := BitVec.ofNat 32 fault }) d

/-- Hold an exchange that the newest park keeps from its launch (R202). -/
def Dev.holdEarly (d : Dev) (key : Nat) (g : Grp) (die : Nat) : Dev :=
  match d.parks.getLast? with
  | none => d
  | some p =>
    let e : EarlyHold := { key := key, gen := d.fld rXchGen 7 0, grp := g, die := die, va := p.va }
    let d1 := { d with early := d.early ++ [e] }
    if d.early.any fun o => o.key == key then d1 else d1.earlyFrames e 3 (p.fault.getD 0)

/-- What a Wheel's park held before its launch goes on. -/
def Dev.unholdEarly (d : Dev) (p : Park) : Dev :=
  let mine (e : EarlyHold) : Bool := decide (p.agent = .wheel e.die) && e.va == p.va
  let rest := d.early.filter fun e => !mine e
  (d.early.filter mine).foldl (fun y e => if rest.any fun o => o.key == e.key then y else y.earlyFrames e 4 0) { d with early := rest }

/-- A park of an exchange agent or Wheel ends: the operations it held go on, and their peers with them. -/
def Dev.unholdX (d0 : Dev) (p : Park) : Dev :=
  let d := d0.unholdEarly p
  d.xops.foldl (fun y x =>
    if x.own.any (fun o => o == (agentCode p.agent, p.va)) then
      let x1 := { x with own := x.own.erase (agentCode p.agent, p.va) }
      let y1 := y.setX x1
      if x1.own.isEmpty then y1.sendResumes x1 else y1
    else y) d

/-- Go on with an access of an operation, or hold the operation where the access parked; `n` parks stood before it. -/
def xDo {α : Type} (x : Xop) (n : Nat) (r : Dev × Option α) (k : α → Dev → Dev) : Dev :=
  match r with
  | (d, some a) => k a d
  | (d, none) => if n < d.parks.length then d.holdX x else d

/-- No park holds the operation. -/
def Xop.free (x : Xop) : Bool := x.own.isEmpty

/-- Exchange half of a port (R19). -/
def halfOf (p : Nat) : Nat := p / 16

/-- The half whose port is the first link to a node (R534). -/
def Dev.sendHalf (d : Dev) (node : Nat) : Nat :=
  match d.routePort node with
  | some p => halfOf p
  | none => 0

/-- The half nearer to the C-die that a translation lies on (R18). -/
def transHalf : Trans → Nat
  | .ok pa =>
    match locate pa with
    | .hbm k _ => k / 8
    | .shelf die _ => die / 4
    | _ => 0
  | _ => 0

/-- The half nearer to the C-die that holds a virtual address (R534, R18); 0 where no page maps it. -/
def Dev.homeHalf (d : Dev) (va : Nat) : Nat := transHalf (Dev.walk (d.withCodes []) 0 4 (d.rd64 rMmuRootLo) (va % 2 ^ 52) false).1

/-- The half that an operation's launch and own contribution run on (R534). -/
def Dev.xHome (d : Dev) (x : Xop) : Nat :=
  if x.op = 5 || x.op = 9 || x.op = 0x0B || (decide (2 ^ 24 ≤ x.key) && decide (x.key < 2 ^ 26)) || x.r.dst = 0 then 0
  else d.homeHalf x.r.dst

/-! ### Digests -/

/-- Digest of one block (R303). -/
def blockDigest (wire snd rcv off : Nat) (b : List Byte) : BitVec 64 :=
  crc64 (b ++ toLe 4 wire ++ toLe 2 snd ++ toLe 2 rcv ++ toLe 8 off)

/-- Blocks sent for the first time enter the sent digest (R303). -/
def Dev.digSent (d : Dev) (wire rcv off : Nat) (bs : List (List Byte)) : Dev :=
  let m := d.node
  let s := (bs.zip (List.range bs.length)).foldl (fun a p => a ^^^ blockDigest wire m rcv (off + 256 * p.2) p.1) d.dig.sdig
  { d with dig := { d.dig with sent := d.dig.sent + bs.length, sdig := s } }

/-- A block delivered enters the received digest (R303). -/
def Dev.digRecv (d : Dev) (b : InBlk) : Dev :=
  { d with dig := { d.dig with recvd := d.dig.recvd + 1, rdig := d.dig.rdig ^^^ blockDigest b.xid.toNat b.src d.node b.off b.data } }

/-! ### Sending -/

/-- Blocks sent to a node and not credited (R270). -/
def Xop.flight (x : Xop) (node : Nat) : Nat := x.sends.foldl (fun a q => if q.node = node then a + q.flight else a) 0

/-- The first stream that may send: blocks left, room in its window, no park on its half. -/
def Dev.readyQ (d : Dev) (x : Xop) : Option (Nat × SendQ × Seg) :=
  (List.range x.sends.length).findSome? fun i =>
    match x.sends[i]? with
    | some q =>
      match q.segs with
      | s :: _ =>
        if x.flight q.node < d.xwin && !x.own.any (fun o => o.1 == 2 + d.sendHalf q.node) then some (i, q, s) else none
      | [] => none
    | none => none

/-- A stream after `n` blocks of its first run. -/
def SendQ.after (q : SendQ) (s : Seg) (n : Nat) : SendQ :=
  let rest := q.segs.drop 1
  { q with
    segs := if s.n ≤ n then rest else { s with off := s.off + 256 * n, va := s.va + 256 * n, n := s.n - n } :: rest
    flight := q.flight + n
    log := q.log ++ [{ s with n := n }] }

/-- The HEAD frame of some blocks of a stream (R289, R531, R533, Table 9.3). -/
def Dev.headFrame (d : Dev) (x : Xop) (q : SendQ) (off : Nat) (last : Bool) (bs : List (List Byte)) : Frame :=
  { d.frame0 1 q.node x.wire with
    last := last, xop := BitVec.ofNat 8 q.xop, wseq := BitVec.ofNat 16 (d.fld (rPalEntrySeq q.win) 31 16)
    win := d.fld (rPalEntryPeer q.win) 29 24, sub := BitVec.ofNat 24 q.sub, offset := off
    glaze := bs.map crc32c, blocks := bs }

/-- Cut bytes into blocks. -/
def blocksOf : Nat → List Byte → List (List Byte)
  | 0, _ => []
  | n + 1, bs => bs.take 256 :: blocksOf n (bs.drop 256)

/-- Send one frame of a stream. -/
def Dev.sendOne (d : Dev) (x : Xop) (i : Nat) (q : SendQ) (s : Seg) : Dev :=
  let n := match s.lit with
    | some _ => 1
    | none => min (min (d.xwin - x.flight q.node) 53) s.n
  let go (bs : List (List Byte)) (y : Dev) : Dev :=
    let q1 := q.after s n
    ((y.digSent x.wire q.node s.off bs).setX { x with sends := setNth x.sends i q1 }).originate
      (y.headFrame x q s.off q1.segs.isEmpty bs)
  match s.lit with
  | some b => go [b] d
  | none => xDo x d.parks.length (Dev.vread (.xsend (d.sendHalf q.node)) x.stream s.va (256 * n) d) fun bs y => go (blocksOf n bs) y

/-- Send what the streams of an operation may send now. -/
def Dev.pumpN (uid : Nat) : Nat → Dev → Dev
  | 0, d => d
  | n + 1, d =>
    match d.xops.find? fun x => x.uid == uid && !x.sends.isEmpty with
    | none => d
    | some x =>
      match (if d.alive then d.readyQ x else none) with
      | none => d
      | some (i, q, s) => Dev.pumpN uid n (d.sendOne x i q s)

/-- Send what an operation may send now. -/
def Dev.pump (d : Dev) (x : Xop) : Dev := Dev.pumpN x.uid (65 * (x.sends.length + 1)) d

/-- Every block of an operation is sent and credited. -/
def Xop.credited (x : Xop) : Bool := x.sends.all fun q => q.segs.isEmpty && q.flight == 0

/-- Credits return from a node: from the oldest stream to it first; streams to it are forgotten when nothing of them is out. -/
def creditQ (node : Nat) : Nat → List SendQ → List SendQ
  | _, [] => []
  | n, q :: l =>
    if q.node = node then { q with flight := q.flight - n } :: creditQ node (n - q.flight) l else q :: creditQ node n l

/-- Forget what is sent and credited. -/
def Xop.tidy (x : Xop) : Xop :=
  { x with sends := x.sends.filter fun q => !(q.segs.isEmpty && x.flight q.node == 0) }

/-! ### Completion -/

/-- An operation ends for its command: its SYNC is signalled and its reply written (Table 10.3, R422); streams with blocks out remain
until they are credited. -/
def Dev.xEnd (d : Dev) (x : Xop) (sig : Bool) (detail : Nat) : Dev :=
  let x1 := { x.tidy with cmd := none, stage := .draining, holds := [] }
  let d1 := if x1.sends.isEmpty then d.delX x else d.setX x1
  let d2 := if sig then d1.signal x.r.sync else d1
  match x.cmd with
  | some id => d2.finishId id 0 detail
  | none => d2

/-- SUB without the hop level: the part of it that names an exchange (R533). -/
def subKey (s : Nat) : Nat := s % 16 + s / 256 * 256

/-- Close exchanges (R301): what was set aside for them is discarded, and each such frame counted. -/
def Dev.closeX (d : Dev) (wire : Nat) (subs : List Nat) : Dev :=
  let hit (b : InBlk) : Bool := b.xid.toNat == wire && inSet subs (subKey b.sub)
  let gone := d.inbox.filter hit
  let frs := gone.foldl (fun a b => setIns a b.fr) []
  let d1 := { d with inbox := d.inbox.filter fun b => !hit b, closedX := d.closedX ++ subs.map fun s => (wire, s) }
  (gone.foldl (fun y b => y.credBack b.port b.vc 1) d1).bump rXchStaleDrops frs.length

/-! ### One-value exchanges and hops -/

/-- The SUB of an exchange (R533). -/
def subOf (part level bucket : Nat) : Nat := part + 16 * level + 256 * (bucket % 65536)

/-- Receiver operation and width of a one-value exchange, by PART; a budget shift adds a pair of INT32 (R402), a layer statistic is an INT64 (R244). -/
def Xop.valueOp (x : Xop) (part : Nat) : Nat × Nat :=
  if x.key = 2 ^ 25 then (1, 8) else if part = 3 || part = 5 || decide (2 ^ 26 ≤ x.key) then (2, 8) else (3, 4)

/-- Start a level of a one-value exchange: the running value goes to every hop peer of the level (R533). -/
def Dev.startValue (d : Dev) (x : Xop) (part level : Nat) : Dev :=
  let op := x.valueOp part
  let blk := toLe op.2 x.val ++ List.replicate (256 - op.2) 0
  let qs := (x.grp.hop level).map fun p =>
    (⟨x.grp.node p, x.grp.win p, op.1, subOf part level x.bucket, [⟨0, 0, 1, some blk⟩], 0, []⟩ : SendQ)
  let x1 := { x with stage := .value part, level := level, vdone := false, need := qs.length, got := [], sends := x.sends ++ qs }
  (d.setX x1).pump x1

/-- Where the region of an operation lies and how it is cut: byte OFFSET of its first block, blocks of a piece, receiver operation
(R287, R293, R296, R531). -/
def Xop.geom (x : Xop) : Nat × Nat × Nat :=
  if x.op = 0x0A then ((x.bucket % 2) * 268435456, bucketBlocks x.table x.grp.n x.bucket / x.grp.n, 1)
  else (0, pieceLen x.r x.grp.n, if x.r.sfmt = 0 then nth 1 [1, 2, 3] x.r.itype else 1)

/-- Runs of blocks for some pieces. -/
def Xop.runs (x : Xop) (ps : List Nat) : List Seg :=
  let (place, q, _) := x.geom
  (ps.map fun p => (⟨place + 256 * (p * q), x.r.dst / 256 * 256 + place + 256 * (p * q), q, none⟩ : Seg)).filter fun s => s.n != 0

/-- Start hop `level` of a reduce-scatter: part `j` goes to the hop peer whose digit is `j` (R287). -/
def Dev.startScatter (d : Dev) (x : Xop) (level : Nat) : Dev :=
  let g := x.grp
  let (_, q, op) := x.geom
  let qs := (g.hop level).map fun p =>
    (⟨g.node p, g.win p, op, subOf 0 level x.bucket, x.runs (g.pieces g.self level (g.digit p level)), 0, []⟩ : SendQ)
  let mine := (g.pieces g.self level (g.digit g.self level)).length
  let x1 := { x with stage := .scatter, level := level, vdone := false, need := qs.length * mine * q, got := [], sends := x.sends ++ qs }
  (d.setX x1).pump x1

/-- Start hop `level` of an all-gather: what the member holds goes to every hop peer of the level (R287). -/
def Dev.startGather (d : Dev) (x : Xop) (level : Nat) : Dev :=
  let g := x.grp
  let (_, q, _) := x.geom
  let held := g.pieces g.self level (g.digit g.self level)
  let qs := (g.hop level).map fun p =>
    (⟨g.node p, g.win p, 0, subOf 0 level x.bucket, x.runs held, 0, []⟩ : SendQ)
  let x1 := { x with stage := .gather, level := level, vdone := false, need := qs.length * held.length * q, got := [], sends := x.sends ++ qs }
  (d.setX x1).pump x1

/-! ### Arrival at the destination -/

/-- XCREDIT to the sender of a block (R270). -/
def Dev.sendCredit (d : Dev) (node : Nat) (xid : Word) (n : Nat) : Dev :=
  d.originate { d.frame0 7 node xid.toNat with value := BitVec.ofNat 32 n }

/-- REREAD to the sender of a block (R263). -/
def Dev.sendReread (d : Dev) (b : InBlk) : Dev :=
  d.originate { d.frame0 8 b.src b.xid.toNat with win := b.win, sub := BitVec.ofNat 24 b.sub, offset := b.off }

/-- The generation is the device's own or the next one (R289). -/
def Dev.genOk (d : Dev) (gen : Nat) : Bool := gen == d.fld rXchGen 7 0 || gen == (d.fld rXchGen 7 0 + 1) % 256

/-- The Palette checks of R280. -/
def Dev.palOk (d : Dev) (f : Frame) : Bool :=
  let v := d.rd (rPalEntryPeer f.win)
  bitsOf v 15 15 == 1 && bitsOf v 13 0 == f.src && (if f.xop = 0 then bitsOf v 17 17 == 1 else bitsOf v 18 18 == 1)
    && d.fld (rPalEntrySeq f.win) 15 0 == f.wseq.toNat
    && decide (f.offset + 256 * f.blocks.length ≤ 256 * (d.rd (rPalEntryLlen f.win)).toNat)

/-- Blocks of a frame as they enter the exchange engine. -/
def Dev.inBlocks (d : Dev) (p : Nat) (f : Frame) (bad : List Nat) : List InBlk :=
  (f.blocks.zip (List.range f.blocks.length)).map fun b =>
    { id := d.inSeq + b.2, fr := d.inSeq, port := p, vc := f.hops, src := f.src, xid := f.xid, win := f.win, sub := f.sub.toNat
      off := f.offset + 256 * b.2, xop := f.xop.toNat, data := b.1, held := inSet bad b.2
      last := f.last && b.2 + 1 == f.blocks.length }

/-- A head without data that ends a transfer (Table 9.3): an empty vector of a Wheel (Table 8.10). -/
def Dev.emptyLast (d : Dev) (p : Nat) (f : Frame) : InBlk :=
  { id := d.inSeq, fr := d.inSeq, port := p, vc := f.hops, src := f.src, xid := f.xid, win := f.win, sub := f.sub.toNat, off := f.offset
    xop := f.xop.toNat, data := [], held := false, last := true }

/-- A block resent for a held one takes its place (R263); a second failure is a failed retry. -/
def Dev.reheld (d : Dev) (h : InBlk) (b : InBlk) : Dev :=
  let u : HwUnit := ⟨.xchHalf, halfOf b.port⟩
  if b.held then (d.credBack b.port b.vc 1).unitFault 5 u 0 0
  else
    ({ d with inbox := d.inbox.map fun (x : InBlk) => if x.id = h.id then { x with data := b.data, held := false } else x }.credBack b.port
      b.vc 1).transient 5 u 0 0

/-- The SUB under which an operation takes blocks in at present (R533). -/
def Xop.subNow (x : Xop) : Nat :=
  match x.stage with
  | .value part => subOf part x.level x.bucket
  | .scatter | .gather => subOf 0 x.level x.bucket
  | _ => if x.wheel.isSome then subOf 0 x.level 0 else 0

/-- A block in a frame of its own was taken in before, or waits already: it was sent again, and no held block is left for it (R263). -/
def Dev.resentLate (d : Dev) (b : InBlk) : Bool :=
  d.inbox.any (fun h => h.src == b.src && h.xid == b.xid && h.sub == b.sub && h.off == b.off && h.win == b.win)
    || d.xops.any fun x => x.wire == b.xid.toNat && x.subNow == b.sub && x.op != 7 && x.op != 8 && x.got.any fun g => g == (b.src, b.off)

/-- A HEAD frame reaches its destination (R280, R289, Table 10.4, R263). -/
def Dev.deliver (d : Dev) (p : Nat) (f : Frame) (bad : List Nat) : Dev :=
  let drop (y : Dev) : Dev := y.credBack p f.hops (frameFlits f)
  let gen := f.xid.toNat / 2 ^ 24
  if f.epoch.toNat ≠ d.epoch then drop (d.bump rXchEpochDrops 1)
  else if 3 < f.xop.toNat then drop (d.bump (rXchPortBadflit p) 1)
  else if !d.genOk gen || d.closedX.any (fun c => c == (f.xid.toNat, subKey f.sub.toNat)) then drop (d.bump rXchStaleDrops 1)
  else if !d.palOk f then (drop (d.bump rXchWinReject 1)).jobFatal
  else
    let bs := d.inBlocks p f bad
    let d1 := (d.credBack p f.hops 1)
    let held (b : InBlk) : Option InBlk := d.inbox.find? fun h =>
      h.held && h.src == b.src && h.xid == b.xid && h.sub == b.sub && h.off == b.off && h.win == b.win
    match bs with
    | [] => if f.last then { d1 with inbox := d1.inbox ++ [d.emptyLast p f], inSeq := d1.inSeq + 1 } else d1
    | [b] =>
      match held b with
      | some h => d1.reheld h b
      | none =>
        if d.resentLate b then d1.credBack b.port b.vc 1
        else
          let d2 := { d1 with inbox := d1.inbox ++ [b], inSeq := d1.inSeq + 1 }
          if b.held then d2.sendReread b else d2
    | _ =>
      let d2 := { d1 with inbox := d1.inbox ++ bs, inSeq := d1.inSeq + bs.length }
      (bs.filter (·.held)).foldl (fun y b => y.sendReread b) d2

/-- HEAD (R260, R263, R266, R280). -/
def execHead (p : Nat) (f : Frame) (s : State) : Host.Outcome State Fault Refusal :=
  s.runIf (portOk p) fun d => d.linkIn p { f with kind := 1 } fun bad y => y.routeIn p { f with kind := 1 } fun z => z.deliver p f bad

/-! ### Receiver operations -/

/-- One element of a receiver operation (Table 10.4), with the mark of a clamp. -/
def recvElem (xop : Nat) (a b : Nat) : Nat × Bool :=
  if xop = 1 then Atomic.add32.apply a b else if xop = 2 then Atomic.add64.apply a b else Atomic.umax32.apply a b

/-- The residue of a receiver result, from those of the two inputs (Table 13.1). -/
def recvResidue (xop : Nat) (a b : Nat) : Nat :=
  if xop ≠ 1 && xop ≠ 2 then residueSM false (max a b)
  else
    let x := sInt (if xop = 2 then 64 else 32) a
    let y := sInt (if xop = 2 then 64 else 32) b
    if (recvElem xop a b).2 then residueClamp (decide (x + y < 0))
    else residueAdd (residueSM (decide (x < 0)) x.natAbs) (residueSM (decide (y < 0)) y.natAbs)

/-- The residue of the bits of a receiver result. -/
def recvComputed (xop v : Nat) : Nat := residue15 (if xop ≠ 1 && xop ≠ 2 then (v : Int) else sInt (if xop = 2 then 64 else 32) v)

/-- Width of an element. -/
def recvWidth (xop : Nat) : Nat := if xop = 2 then 8 else 4

/-- A receiver operation on bytes (R288), in which upsets flip bits of the results (element, bits): the result, the number of clamps, and what the
residue check finds first, as the carried and the computed residue (R364). -/
def recvBlock (xop : Nat) (cur new : List Byte) (flips : List (Nat × Nat)) : List Byte × Nat × Option (Nat × Nat) :=
  let w := recvWidth xop
  let a (i : Nat) : Nat := field cur (w * i) w
  let b (i : Nat) : Nat := field new (w * i) w
  let v (i : Nat) : Nat := (flips.filter fun x => x.1 == i).foldl (fun r x => Nat.xor r (x.2 % 2 ^ (8 * w))) (recvElem xop (a i) (b i)).1
  let is := List.range (cur.length / w)
  (is.flatMap fun i => toLe w (v i), (is.filter fun i => (recvElem xop (a i) (b i)).2).length,
    is.findSome? fun i => if recvResidue xop (a i) (b i) = recvComputed xop (v i) then none else some (recvResidue xop (a i) (b i), recvComputed xop (v i)))

/-- The local address of a block: LBASE + OFFSET of the window that WIN names (R531). -/
def Dev.blkVa (d : Dev) (b : InBlk) : Nat :=
  (d.rd (rPalEntryLbaseLo b.win)).toNat / 256 * 256 + (d.rd (rPalEntryLbaseHi b.win)).toNat * 2 ^ 32 + b.off

/-- A RING admits the arrivals of step `s` after SYNC + 1 has counted `s - 1` (R309). -/
def Dev.ringAdmits (d : Dev) (x : Xop) : Bool :=
  decide (x.round < 2) || d.released (.ring x.uid x.round)

/-- The entry of a permute round that names a position as receiver. -/
def Xop.permIn (x : Xop) : Option PEnt := (pents x.table).find? fun e => e.round == x.round && e.to_ == x.grp.self

/-- The entry of a permute round that names a position as sender. -/
def Xop.permOut (x : Xop) : Option PEnt := (pents x.table).find? fun e => e.round == x.round && e.from_ == x.grp.self

/-- An operation takes a block in now (R289, R290, R309, R311, R533). -/
def Dev.admits (d : Dev) (x : Xop) (b : InBlk) : Bool :=
  let dup := x.got.any fun g => g == (b.src, b.off)
  let half := match x.stage with
    | .value _ => d.xHome x
    | _ => halfOf b.port
  let here := b.xid.toNat == x.wire && !b.held && !x.own.any (fun o => o.1 == half)
  here && (match x.stage with
    | .value part => b.sub == subOf part x.level x.bucket && !dup && (x.grp.hop x.level).any (fun p => x.grp.node p == b.src)
    | .scatter => b.sub == subOf 0 x.level x.bucket && b.xop != 0
    | .gather => b.sub == subOf 0 x.level x.bucket && b.xop == 0
    | .plain =>
      b.xop == 0 &&
        (if x.wheel.isSome then b.sub == subOf 0 x.level 0 && (x.grp.hop x.level).any (fun p => x.grp.node p == b.src)
         else if x.op = 6 then x.grp.node x.r.peer == b.src && (dup || decide (x.got.length < x.need))
         else if x.op = 7 then x.grp.node ((x.grp.self + x.grp.n - 1) % x.grp.n) == b.src && d.ringAdmits x
           && decide (x.got.length < x.need)
           && b.off / (256 * x.r.blocks) == x.round % 2
         else (match x.permIn with
           | some e => x.grp.node e.from_ == b.src && decide (x.got.length < x.need)
           | none => false))
    | _ => false)

/-- The operation that takes a block in. -/
def Dev.taker (d : Dev) (b : InBlk) : Option Xop := if d.alive then d.xops.find? fun x => d.admits x b else none

/-- A RECV whose last block is written ends (Table 10.3). -/
def Dev.recvEnd (d : Dev) (x : Xop) : Dev :=
  if x.op = 6 && decide (x.stage = .plain) && decide (x.need ≤ x.got.length) then d.xEnd x true 0 else d

/-- A block has been taken in (R270, R290, R303): counted, credited and digested once, however often it arrives. -/
def Dev.takenIn (d : Dev) (x : Xop) (b : InBlk) : Dev :=
  let dup := x.got.any fun g => g == (b.src, b.off)
  let x1 := if dup then x else { x with got := x.got ++ [(b.src, b.off)] }
  let d1 := ({ d with inbox := d.inbox.filter fun (y : InBlk) => y.id != b.id }.setX x1).credBack b.port b.vc 1
  (if dup then d1 else (d1.sendCredit b.src b.xid 1).digRecv b).recvEnd x1

/-! ### Hops of an all-to-all (R287) -/

/-- Blocks that the staging area gives a piece (DESIGN CHOICE, log 24). -/
def Xop.room (x : Xop) : Nat := max 1 (x.grp.stagelen / max 1 x.grp.n)

/-- OFFSET of block `k` of the piece at place `g` (R287; of a group of one level, where pieces meet nothing of another member: DESIGN CHOICE, log 24). -/
def Xop.placeOff (x : Xop) (g k : Nat) : Nat := if x.grp.levels ≤ 1 then 256 * k else 256 * (g * x.room + k)

/-- Position of a node in a group. -/
def Grp.posOf (g : Grp) (node : Nat) : Nat := (findFrom (fun p => g.node p == node) g.n 0).getD 0

/-- Place and number of an arriving block. -/
def Xop.placeOf (x : Xop) (b : InBlk) : Nat × Nat :=
  if x.grp.levels ≤ 1 then (x.grp.posOf b.src, b.off / 256) else (b.off / 256 / x.room, b.off / 256 % x.room)

/-- The highest level in which a place differs from this device's position: the hop in which a piece for this device arrives. -/
def Grp.topDiff (g : Grp) (p : Nat) : Nat :=
  (List.range g.levels).foldl (fun a i => if g.digit p i != g.digit g.self i then i else a) 0

/-- Hops of an all-to-all are over: the last level's peers have ended their transfers. -/
def Xop.hopsIn (x : Xop) : Bool :=
  decide (x.grp.levels ≤ x.level + 1) && (x.grp.hop x.level).all fun p => inSet x.lasts (x.grp.node p)

/-- Block `k` of the piece from the member at position `s`. -/
def Xop.pieceBlk (x : Xop) (s k : Nat) : Option (List Byte) :=
  (x.blks.find? fun b => b.1 == x.grp.topDiff s && b.2.1 == s && b.2.2.1 == k).map (·.2.2.2)

/-- A run of `n` blocks of that piece, or none while one is missing. -/
def Xop.pieceRun (x : Xop) (s k n : Nat) : Option (List Byte) :=
  (List.range n).foldl (fun a i => a.bind fun bs => (x.pieceBlk s (k + i)).map fun b => bs ++ b) (some [])

/-- Start hop `level` of an all-to-all (R287): to each hop peer the pieces whose digit is the peer's, this device's own and those that arrived in earlier
hops; a transfer without blocks is an empty head. -/
def Dev.startHop (d : Dev) (x : Xop) (level : Nat) : Dev :=
  let g := x.grp
  let seg (p : Nat) : List Seg :=
    ((List.range g.n).filter fun s => g.digit s level == g.digit p level).flatMap fun s =>
      let s1 := s - g.digit s level * g.stride level + g.digit g.self level * g.stride level
      if (List.range level).all fun i => g.digit s i == g.digit g.self i then
        let bs := nth [] x.pieces s
        (bs.zip (List.range bs.length)).map fun b => (⟨x.placeOff s1 b.2, 0, 1, some b.1⟩ : Seg)
      else
        (x.blks.filter fun b => b.2.1 == s && decide (b.1 < level)).map fun b =>
          (⟨x.placeOff s1 b.2.2.1, g.stage / 256 * 256 + x.placeOff s b.2.2.1, 1, none⟩ : Seg)
  let qs := (g.hop level).map fun p => (⟨g.node p, g.win p, 0, subOf 0 level 0, seg p, 0, []⟩ : SendQ)
  let x1 := { x with stage := .plain, level := level, lasts := [], sends := x.sends ++ qs.filter fun q => !q.segs.isEmpty }
  ((qs.filter fun q => q.segs.isEmpty).foldl (fun y q => y.originate (y.headFrame x q 0 true [])) (d.setX x1)).pump x1

/-- A block of an all-to-all is taken in: hops before the last write it into STAGE through its window (R531), the last hands it to the Wheel. -/
def Dev.hopIn (d : Dev) (x : Xop) (b : InBlk) : Dev :=
  let p := x.placeOf b
  let x1 : Xop := { x with lasts := if b.last then setIns x.lasts b.src else x.lasts }
  let dup := x.got.any fun g => g == (b.src, b.off)
  let x2 : Xop := if dup then x1 else { x1 with blks := x1.blks ++ [(x.level, p.1, p.2, b.data)] }
  if b.data.isEmpty then { d with inbox := d.inbox.filter fun (y : InBlk) => y.id != b.id }.setX x1
  else if x.grp.levels ≤ x.level + 1 then d.takenIn x2 b
  else
    xDo x d.parks.length (Dev.vaPas (.xrecv (halfOf b.port)) x.stream .write [d.blkVa b] d) fun pas d1 =>
      (d1.writeBlock (nth 0 pas 0) b.data).takenIn x2 b

/-- A sum whose residue check fails is not written and has one retry; any other goes on (R288, R364). -/
def Dev.reduced (d : Dev) (b : InBlk) (half : Nat) (r : List Byte × Nat × Option (Nat × Nat)) (k : Dev → Dev) : Dev :=
  match r.2.2 with
  | some m => d.retry ⟨.recv b.id, 4, ⟨.xchHalf, half⟩, 0, residueDetail m⟩
  | none => k (d.bump rXchRedSat r.2.1)

/-- Take one block in: combine it in the engine's own storage for a one-value exchange, or write it to its window. Upsets may flip bits of its sums. -/
def Dev.recvDo (d : Dev) (x : Xop) (b : InBlk) (flips : List (Nat × Nat)) : Dev :=
  match x.stage with
  | .value part =>
    let w := (x.valueOp part).2
    let r := recvBlock b.xop (toLe w x.val) (b.data.take w) flips
    d.reduced b (d.xHome x) r fun y => y.takenIn { x with val := leNat r.1 } b
  | _ =>
    if x.wheel.isSome then d.hopIn x b
    else if b.xop != 0 && x.got.any (fun g => g == (b.src, b.off)) then
      { d with inbox := d.inbox.filter fun (y : InBlk) => y.id != b.id }.credBack b.port b.vc 1
    else
      xDo x d.parks.length (Dev.vaPas (.xrecv (halfOf b.port)) x.stream .write [d.blkVa b] d) fun pas d1 =>
        let pa := nth 0 pas 0
        if b.xop = 0 then (d1.writeBlock pa b.data).takenIn x b
        else
          let u := d1.takeCode.1
          let d2 := d1.takeCode.2.readCounts pa u
          if d2.glazeBad pa u then d2.retry ⟨.recv b.id, d2.readCheck pa u, ⟨.xchHalf, halfOf b.port⟩, pa, 0⟩
          else
            let r := recvBlock b.xop (d2.block pa) b.data flips
            d2.reduced b (halfOf b.port) r fun y => (y.writeBlock pa r.1).takenIn x b

/-- A retry of a block's addition is outstanding. -/
def Dev.recvHeld (d : Dev) (id : Nat) : Bool := d.retries.any fun r =>
  match r.what with
  | .recv i => i == id
  | _ => false

/-- An arriving block with an XOP is taken in; where the check of the sum fails, it has one retry (R288). -/
def Dev.recvRow (k xop : Nat) (flips : List (Nat × Nat)) (d : Dev) : Dev :=
  match d.inbox[k]? with
  | none => d
  | some b =>
    if b.xop ≠ xop || d.recvHeld b.id then d
    else match d.taker b with
      | none => d
      | some x => d.recvDo x b flips

/-- RECV_ADD32 (Table 10.4). -/
def execRecvAdd32 (k : Nat) (flips : List (Nat × Nat)) (us : List Upset) (s : State) : Host.Outcome State Fault Refusal :=
  s.runC us (Dev.recvRow k 1 flips)

/-- RECV_ADD64 (Table 10.4). -/
def execRecvAdd64 (k : Nat) (flips : List (Nat × Nat)) (us : List Upset) (s : State) : Host.Outcome State Fault Refusal :=
  s.runC us (Dev.recvRow k 2 flips)

/-- RECV_UMAX32 (Table 10.4). -/
def execRecvUmax32 (k : Nat) (flips : List (Nat × Nat)) (us : List Upset) (s : State) : Host.Outcome State Fault Refusal :=
  s.runC us (Dev.recvRow k 3 flips)

/-! ### Control flits -/

/-- A routed control flit at its destination: its epoch is judged first (R272, R280); `late` is what else a wrong epoch counts. -/
def Dev.ctlIn (d : Dev) (p : Nat) (f : Frame) (k : Dev → Dev) (late : Dev → Dev := id) : Dev :=
  d.linkIn p f fun _ y => y.routeIn p f fun z =>
    let z1 := z.credBack p f.hops (frameFlits f)
    if f.epoch.toNat ≠ z.epoch then late (z1.bump rXchEpochDrops 1) else k z1

/-- The operation that the device runs under an on-wire XID. -/
def Dev.xWire (d : Dev) (wire : Nat) : Option Xop :=
  if d.alive then
    match d.xops.find? fun x => x.wire == wire && decide (x.stage ≠ .draining) with
    | some x => some x
    | none => d.xops.find? fun x => x.wire == wire
  else none

/-- The operation of an on-wire XID with blocks out to a node. -/
def Dev.xOut (d : Dev) (wire node : Nat) : Option Xop :=
  if d.alive then
    match d.xops.find? fun x => x.wire == wire && decide (0 < x.flight node) with
    | some x => some x
    | none => d.xWire wire
  else none

/-- A routed control flit of a kind carries no data. -/
def asCtl (f : Frame) (kind : Nat) : Frame := { f with kind := kind, blocks := [], glaze := [] }

/-- HOLD (R202, R273). -/
def execHold (p : Nat) (f : Frame) (s : State) : Host.Outcome State Fault Refusal :=
  s.runIf (portOk p) fun d => d.ctlIn p (asCtl f 3) fun y =>
    match y.xWire f.xid.toNat with
    | some x => y.setX { x with holds := setIns x.holds f.src }
    | none => y.bump rXchHoldUnknown 1

/-- RESUME (R202, R273). -/
def execResume (p : Nat) (f : Frame) (s : State) : Host.Outcome State Fault Refusal :=
  s.runIf (portOk p) fun d => d.ctlIn p (asCtl f 4) fun y =>
    match y.xWire f.xid.toNat with
    | some x => y.setX { x with holds := setDel x.holds f.src }
    | none => y.bump rXchHoldUnknown 1

/-- HOLD_REFRESH (R202). -/
def execHoldRefresh (xid : BitVec 32) (s : State) : Host.Outcome State Fault Refusal :=
  s.run fun d =>
    match d.xWire xid.toNat with
    | some x =>
      if x.own.isEmpty then d
      else
        let id := d.parks.findSome? fun p => if x.own.any (fun o => o == (agentCode p.agent, p.va)) then p.fault else none
        d.sendHolds x (id.getD 0)
    | none =>
      match d.early.find? fun e => wireOf e.gen e.key == xid.toNat with
      | some e => d.earlyFrames e 3 ((d.parks.findSome? fun p => if p.va = e.va then p.fault else none).getD 0)
      | none => d

/-- HOLD_EXPIRY (R202): the timeout count restarts. -/
def execHoldExpiry (xid : BitVec 32) (s : State) : Host.Outcome State Fault Refusal :=
  s.run fun d =>
    match d.xWire xid.toNat with
    | some x => d.setX { x with holds := [] }
    | none => d

/-- XCREDIT (R270, R273); a SEND whose last block is credited ends (Table 10.3), and so does an operation kept for its streams. -/
def execXcredit (p : Nat) (f : Frame) (us : List Upset) (s : State) : Host.Outcome State Fault Refusal :=
  s.runIfC us (portOk p) fun d => d.ctlIn p (asCtl f 7) fun y =>
    match y.xOut f.xid.toNat f.src with
    | none => y.bump rXchHoldUnknown 1
    | some x =>
      let x1 : Xop := { x with sends := creditQ f.src f.value.toNat x.sends }
      let y1 := (y.setX x1).pump x1
      match y1.xops.find? fun q => q.uid == x.uid with
      | none => y1
      | some z =>
        let t := z.tidy
        if t.sends.isEmpty && decide (t.stage = .draining) then y1.delX z
        else if t.sends.isEmpty && t.op = 5 && decide (t.stage = .plain) then (y1.setX t).xEnd t true 0
        else y1.setX t

/-- The stream and the run that a block was sent in. -/
def Xop.sentFrom (x : Xop) (node sub off : Nat) : Option (SendQ × Seg) :=
  x.sends.findSome? fun q =>
    if q.node = node && q.sub = sub then
      (q.log.find? fun s => decide (s.off ≤ off) && decide (off < s.off + 256 * s.n)).map fun s => (q, s)
    else none

/-- A block is read from its source again and sent again in a frame of its own (R263); `ok` says that a retry of the read has
passed. -/
def Dev.resend (d : Dev) (x : Xop) (q : SendQ) (s : Seg) (off : Nat) (u : Option Upset) : Dev :=
  let send (bs : List Byte) (y : Dev) : Dev := y.originate (y.headFrame x q off true [bs])
  match s.lit with
  | some b => send b d
  | none =>
    let va := s.va + (off - s.off)
    xDo x d.parks.length (Dev.vaPas (.xsend (d.sendHalf q.node)) x.stream .read [va] d) fun pas d1 =>
      let pa := nth 0 pas 0
      match u with
      | none => send (d1.block pa) d1
      | some w =>
        let d2 := d1.readCounts pa w
        if d1.glazeBad pa w then
          d2.retry ⟨.reread x.key q.sub q.node off, d1.readCheck pa w, ⟨.xchHalf, d.sendHalf q.node⟩, pa, 0⟩
        else send (d1.block pa) d2

/-- REREAD (R263, R273). -/
def execReread (p : Nat) (f : Frame) (u : Upset) (us : List Upset) (s : State) : Host.Outcome State Fault Refusal :=
  s.runIfC us (portOk p) fun d => d.ctlIn p (asCtl f 8) fun y =>
    match y.xOut f.xid.toNat f.src with
    | none => y.bump rXchHoldUnknown 1
    | some x =>
      match x.sentFrom f.src f.sub.toNat f.offset with
      | some (q, g) => y.resend x q g f.offset (some u)
      | none => y.bump rXchHoldUnknown 1

end Sys2Proof.Machine
end

