-- ==== Sys2Proof/Machine/Collect.lean ====
section
/-!
DEFINITION. The operations of the exchange engine (Table 10.3): reductions with a shared scale (R293 to R295), gathers, SEND and RECV, RING,
PERMUTE, BARRIER (R305 to R307), the gradient phase (R296 to R301) and its norm (R335 to R337), VERDICT (R302, R304), timeouts (R291).
-/

namespace Sys2Proof.Machine

/-! ### Launch -/

/-- An operation as it is launched, not yet started. -/
def Dev.newX (d : Dev) (key op : Nat) (rec_ : List Byte) (stream prio : Nat) (g : Grp) : Xop :=
  { uid := d.xSeq, key := key, cmd := none, wheel := none, op := op, rec_ := rec_, stream := stream, prio := prio
    gen := d.fld rXchGen 7 0, grp := g, stage := .idle, level := 0, bucket := 0, need := 0, got := [], sends := [], val := 0
    vdone := false, eg := 0, t0 := d.cc, own := [], wins := g.hops.map g.win, holds := [], round := 0, base := 0, table := [] }

/-- Enter an operation among the running ones. -/
def Dev.addX (d : Dev) (x : Xop) : Dev := { d with xops := d.xops ++ [x], xSeq := d.xSeq + 1 }

/-- An exchange command is dispatched to the engine; a second one with an XID that runs is rejected (R292). -/
def Dev.xLaunch (d : Dev) (c : Cmd) (b : List Byte) (g : Grp) (tbl : List Byte) : Dev :=
  let r := xrec b
  if d.xRuns r.xid then d.rejectCmd c stBadParam (badField 0 4 1)
  else
    d.addX { d.newX r.xid r.op b c.h.stream c.prio g with
      cmd := some c.id, table := tbl, wins := (xPartners r g tbl).map g.win }

/-- Agents of an operation's launch and own contribution (R534). -/
def Dev.srcAg (d : Dev) (x : Xop) : Agent := .xsend (d.xHome x)

/-- See `Dev.srcAg`. -/
def Dev.dstAg (d : Dev) (x : Xop) : Agent := .xrecv (d.xHome x)

/-- Virtual address of the record that an operation's command names. -/
def Dev.recVa (d : Dev) (x : Xop) : Nat :=
  match x.cmd with
  | some id =>
    match d.cmd? id with
    | some c =>
      match c.op with
      | .exch _ va _ _ _ => va.toNat
      | _ => 0
    | none => 0
  | none => 0

/-- An operation waits for the engine: not started, or between two buckets or rounds. -/
def Xop.waits (x : Xop) : Bool := x.free && (decide (x.stage = .idle) || decide (x.stage = .turn))

/-- The engine takes an operation now (R292): it is held by no park, and none of higher priority waits. -/
def Dev.xTurn (d : Dev) (x : Xop) : Bool := x.free && !d.xops.any fun y => y.waits && decide (x.prio < y.prio)

/-- An operation begins: it enters the digest count once (R304). -/
def Dev.xBegin (d : Dev) (x : Xop) : Dev × Xop :=
  if x.begun then (d, x)
  else ({ d.setX { x with begun := true } with dig := { d.dig with run := d.dig.run + 1 } }, { x with begun := true })

/-- Start an operation of one of some OPs: its record is read again, which can park the engine (R424). -/
def Dev.xStart (key : Nat) (ok : Xop → Bool) (k : Xop → Dev → Dev) (d : Dev) : Dev :=
  match (if d.alive then d.xop? key else none) with
  | none => d
  | some x =>
    if !ok x || !d.xTurn x then d
    else
      xDo x d.parks.length (Dev.vread (d.srcAg x) x.stream (d.recVa x) 64 d) fun _ y =>
        let r := y.xBegin x
        k r.2 r.1

/-- An operation of an OP stands at its launch. -/
def idleOp (op : Nat) (x : Xop) : Bool := x.op == op && decide (x.stage = .idle) && decide (x.key < 2 ^ 24)

/-! ### Reductions -/

/-- Cut a list into runs of `n` elements. -/
def chunks {α : Type} (n : Nat) : Nat → List α → List (List α)
  | 0, _ => []
  | m + 1, l => if l.isEmpty then [] else l.take n :: chunks n m (l.drop n)

/-- Source elements as FP32 words (R293, R46): 1 FP32, 2 BF16, 3 B8 with one exponent byte for each 32 elements. -/
def srcWords (sfmt : Nat) (el ex : List Byte) (n : Nat) : List Nat :=
  if sfmt = 1 then (chunks 4 n el).map leNat
  else if sfmt = 2 then (chunks 2 n el).map fun b => leNat b * 65536
  else (el.zip (List.range n)).map fun p =>
    let e := (nth 0 ex (p.2 / 32)).toNat
    elemToF32 2 e (readElem 2 e p.1.toNat)

/-- Exponents of the 32-element blocks of a source (R293 step 1, R528). -/
def srcExps (sfmt : Nat) (ex : List Byte) (ws : List Nat) : List Nat :=
  if sfmt = 3 then ex.map (·.toNat) else (chunks 32 ws.length ws).map refExp

/-- The largest exponent; 255 when any block is non-finite. -/
def maxExp (es : List Nat) : Nat := es.foldl max 0

/-- Bytes of a source's element plane. -/
def srcBytes (sfmt n : Nat) : Nat := if sfmt = 1 then 4 * n else if sfmt = 2 then 2 * n else n

/-- Bytes of its exponent plane. -/
def srcExpBytes (sfmt n : Nat) : Nat := if sfmt = 3 then (n + 31) / 32 else 0

/-- Load a source: its words and the exponents of its blocks. -/
def Dev.loadSrc (ag : Agent) (stream sfmt src srcx n : Nat) (d : Dev) : Dev × Option (List Nat × List Nat) :=
  thenDo (Dev.vread ag stream src (srcBytes sfmt n) d) fun el d1 =>
    thenDo (Dev.vread ag stream srcx (srcExpBytes sfmt n) d1) fun ex d2 =>
      (d2, some (srcWords sfmt el ex n, srcExps sfmt ex (srcWords sfmt el ex n)))

/-- Exponent code of the top of an INT32 (R293). -/
def sumTop : Int := 157

/-- Headroom bits and scale of R293: `k = 157 - h - E_g`. -/
def sharedK (n eg : Nat) : Int := sumTop - (((ceilLog2 n + 1 : Nat) : Int) + (eg : Int))

/-- Elements converted to INT32 at a scale, with the number of non-zero elements that became 0 (R293 step 3). -/
def quantize (k : Int) (ws : List Nat) : List Int × Nat :=
  let qs := ws.map fun w => (toInt32 0 k w).v
  (qs, ((ws.zip qs).filter fun p => p.2 == 0 && mag32 p.1 != 0).length)

/-- Bytes of INT32 values. -/
def intBytes (qs : List Int) : List Byte := qs.flatMap fun q => toLe 4 (uBits 32 q)

/-- Width of a result element. -/
def resSize (rfmt : Nat) : Nat := if rfmt = 2 then 2 else 4

/-- A sum converted back (R293 step 4): one rounding from the exact value. -/
def backElem (k : Int) (rfmt : Nat) (s : Int) : List Byte :=
  toLe (resSize rfmt) (fencode (if rfmt = 2 then fmt16 else fmt32) false (.fin (decide (s < 0)) s.natAbs (-k))).bits

/-- Signed INT32 values of bytes. -/
def intsOf (bs : List Byte) : List Int := (chunks 4 bs.length bs).map fun b => sInt 32 (leNat b)

/-- First and last-plus-one element of the region that a member converts back: its own piece of a REDUCE_SCATTER, all of an
ALL_REDUCE. -/
def Xop.span (x : Xop) : Nat × Nat :=
  let r := x.r
  if r.op = 2 then (64 * (r.blocks / x.grp.n) * x.grp.self, 64 * (r.blocks / x.grp.n) * (x.grp.self + 1)) else (0, 64 * r.blocks)

/-- The region that a record names begins on a block. -/
def down256 (a : Nat) : Nat := a / 256 * 256

/-- Write every result element of a region that needs no sum (R295): +0, or the canonical NaN of RFMT. -/
def Dev.fillResult (d : Dev) (x : Xop) (nan : Bool) : Dev :=
  let r := x.r
  let sp := x.span
  let sz := resSize r.rfmt
  let el := toLe sz (if nan then canonNan (if r.rfmt = 2 then fmt16 else fmt32) false else 0)
  xDo x d.parks.length (Dev.vwrite (d.dstAg x) x.stream (down256 r.dst + sp.1 * sz) ((List.range (sp.2 - sp.1)).flatMap fun _ => el) d)
    fun _ y => (y.bump rXchRedNonfin (if nan then 1 else 0)).xEnd x true 0

/-- Convert the source at the agreed scale, write the own contribution and start the integer step (R290, R293). -/
def Dev.scaleIn (d : Dev) (x : Xop) : Dev :=
  let r := x.r
  xDo x d.parks.length
    (thenDo (Dev.loadSrc (d.srcAg x) x.stream r.sfmt r.src r.srcx (64 * r.blocks) d) fun w y =>
      let q := quantize (sharedK x.grp.n x.eg) w.1
      thenDo (Dev.vwrite (y.dstAg x) x.stream (down256 r.dst) (intBytes q.1) y) fun _ z => (z, some q.2))
    fun fl y => (y.bump rXchRedFlush fl).startScatter x 0

/-- The agreed exponent of a reduction is known (R295). -/
def Dev.scaleKnown (d : Dev) (x : Xop) : Dev :=
  let eg := x.val / 2 ^ 24
  if eg = 0 then d.fillResult x false
  else if eg = 255 then d.fillResult x true
  else d.scaleIn { x with eg := eg }

/-- Start a reduction: an integer source is written at once, a float source first agrees its scale. -/
def Dev.startReduce (x : Xop) (d : Dev) : Dev :=
  let r := x.r
  if r.sfmt = 0 then
    xDo x d.parks.length
      (thenDo (Dev.vread (d.srcAg x) x.stream (down256 r.src) (256 * r.blocks) d) fun bs y =>
        Dev.vwrite (y.dstAg x) x.stream (down256 r.dst) bs y)
      fun _ y => y.startScatter x 0
  else
    xDo x d.parks.length (Dev.loadSrc (d.srcAg x) x.stream r.sfmt r.src r.srcx (64 * r.blocks) d) fun w y =>
      y.startValue { x with val := maxExp w.2 * 2 ^ 24 } 1 0

/-- REDUCE_SCATTER (R287, R293). -/
def execReduceScatter (x : Nat) (us : List Upset) (s : State) : Host.Outcome State Fault Refusal := s.runC us (Dev.xStart x (idleOp 2) Dev.startReduce)

/-- A Wheel's layer statistic goes out (R244): the device's sum, as an INT64. -/
def Dev.startStat (d : Dev) (key : Nat) : Dev :=
  match (if d.alive then d.xop? key else none) with
  | none => d
  | some x =>
    match x.wheel with
    | some (r, _, .statistic) =>
      if decide (x.stage ≠ .idle) || !d.xTurn x then d
      else
        let c := match d.routes.find? fun o => o.cmd == r with
          | some o => o.a.stat
          | none => 0
        let b := d.xBegin x
        b.1.startValue { b.2 with val := uBits 64 c } 0 0
    | _ => d

/-- The pool's ALL_REDUCE (R402): one pair of INT32, donors in the low half, over the group of KLN_POOL. -/
def Dev.startShift (d : Dev) : Dev :=
  match (if d.alive then d.xop? (2 ^ 25) else none) with
  | none => d
  | some x =>
    if decide (x.stage ≠ .idle) || !x.free then d
    else
      xDo x d.parks.length (Dev.readGroup (.xsend 0) x.stream (d.fld rKlnPool 27 16) d) fun g y0 =>
        let y := (y0.xBegin x).1
        let x := (y0.xBegin x).2
        match g with
        | some g => y.startValue { x with grp := g, wins := g.hops.map g.win } 0 0
        | none => y.setX { x with stage := .value 0, need := 1, got := [], vdone := false }

/-- ALL_REDUCE (R287, R293); of a Wheel, its layer statistic (R244); of the Studio, a budget shift (R402). -/
def execAllReduce (x : Nat) (us : List Upset) (s : State) : Host.Outcome State Fault Refusal :=
  s.runC us fun d =>
    if 2 ^ 26 ≤ x then d.startStat x
    else if x = 2 ^ 25 then d.startShift
    else Dev.xStart x (idleOp 4) Dev.startReduce d

/-- ALL_GATHER (R287, R290): the own part first. -/
def execAllGather (x : Nat) (us : List Upset) (s : State) : Host.Outcome State Fault Refusal :=
  s.runC us (Dev.xStart x (idleOp 3) fun x d =>
    let r := x.r
    xDo x d.parks.length
      (thenDo (Dev.vread (d.srcAg x) x.stream (down256 r.src) (256 * r.blocks) d) fun bs y =>
        Dev.vwrite (y.dstAg x) x.stream (down256 r.dst + 256 * (x.grp.self * r.blocks)) bs y)
      fun _ y => y.startGather x (x.grp.levels - 1))

/-- The sums of a shared-scale reduction are converted back over the region (R293 step 4), once every block sent is credited. -/
def Dev.scaleOut (d : Dev) (x : Xop) : Dev :=
  let r := x.r
  let sp := x.span
  xDo x d.parks.length
    (thenDo (Dev.vread (d.srcAg x) x.stream (down256 r.dst + 4 * sp.1) (4 * (sp.2 - sp.1)) d) fun bs y =>
      Dev.vwrite (y.dstAg x) x.stream (down256 r.dst + sp.1 * resSize r.rfmt)
        ((intsOf bs).flatMap (backElem (sharedK x.grp.n x.eg) r.rfmt)) y)
    fun _ y => y.xEnd x true 0

/-- The last hop of an operation is done. -/
def Dev.hopsDone (d : Dev) (x : Xop) : Dev :=
  if x.op = 0x0A then d.setX { x with vdone := true }
  else if x.op = 3 || x.r.sfmt = 0 then d.xEnd x true 0
  else if x.credited then d.scaleOut x
  else d

/-- The all-gather follows the reduce-scatter (R287, R299). -/
def Xop.gathers (x : Xop) : Bool := x.op == 4 || (x.op == 0x0A && !x.r.isOwner)

/-- REDUCTION_HOP_DONE (R287). -/
def execReductionHopDone (x : Nat) (us : List Upset) (s : State) : Host.Outcome State Fault Refusal :=
  s.runC us fun d =>
    match (if d.alive then d.xop? x else none) with
    | none => d
    | some x =>
      if !x.free || x.vdone || decide (x.got.length < x.need) then d
      else match x.stage with
        | .scatter =>
          if x.level + 1 < x.grp.levels then d.startScatter x (x.level + 1)
          else if x.gathers then d.startGather x (x.grp.levels - 1)
          else d.hopsDone x
        | .gather => if 0 < x.level then d.startGather x (x.level - 1) else d.hopsDone x
        | .plain =>
          if x.wheel.isSome && decide (x.level + 1 < x.grp.levels) && (x.grp.hop x.level).all (fun p => inSet x.lasts (x.grp.node p)) then
            d.startHop x (x.level + 1)
          else d
        | _ => d

/-! ### SEND, RECV, RING, PERMUTE -/

/-- A stream of one run of blocks to a position. -/
def Xop.stream1 (x : Xop) (p off va n : Nat) : SendQ :=
  ⟨x.grp.node p, x.grp.win p, 0, 0, if n = 0 then [] else [⟨off, va, n, none⟩], 0, []⟩

/-- SEND (R308). -/
def execSend (x : Nat) (us : List Upset) (s : State) : Host.Outcome State Fault Refusal :=
  s.runC us (Dev.xStart x (idleOp 5) fun x d =>
    let r := x.r
    if r.blocks = 0 then d.xEnd x true 0
    else
      let x1 := { x with stage := .plain, sends := [x.stream1 r.peer 0 (down256 r.src) r.blocks] }
      (d.setX x1).pump x1)

/-- RECV (R308). -/
def execRecv (x : Nat) (us : List Upset) (s : State) : Host.Outcome State Fault Refusal :=
  s.runC us (Dev.xStart x (idleOp 6) fun x d =>
    let x1 := { x with stage := .plain, need := x.r.blocks }
    (d.setX x1).recvEnd x1)

/-- Send a step of a ring (R309): SRC in step 0, the block received in the step before otherwise. -/
def Dev.ringSend (d : Dev) (x : Xop) (step : Nat) : Dev :=
  let r := x.r
  let va := if step = 0 then down256 r.src else down256 r.dst + (step - 1) % 2 * (256 * r.blocks)
  let x1 := { x with sends := x.sends ++ [x.stream1 ((x.grp.self + 1) % x.grp.n) (step % 2 * (256 * r.blocks)) va r.blocks] }
  (d.setX x1).pump x1

/-- RING (R309). -/
def execRing (x : Nat) (us : List Upset) (s : State) : Host.Outcome State Fault Refusal :=
  s.runC us (Dev.xStart x (idleOp 7) fun x d =>
    d.ringSend { x with stage := .plain, need := x.r.blocks, round := 0, base := (d.count (x.r.sync + 1)).toNat } 0)

/-- RING_STEP_ARRIVED (R309). -/
def execRingStepArrived (x : Nat) (us : List Upset) (s : State) : Host.Outcome State Fault Refusal :=
  s.runC us fun d =>
    match (if d.alive then d.xop? x else none) with
    | none => d
    | some x =>
      if x.op ≠ 7 || decide (x.stage ≠ .plain) || !x.free || decide (x.got.length < x.need) then d
      else if x.round + 1 < x.r.count then
        let y : Xop := { x with round := x.round + 1, got := [] }
        (((d.signal x.r.sync).addWaiter (.ring x.uid y.round) (x.r.sync + 1) (BitVec.ofNat 32 (x.base + y.round - 1))).ringSend y y.round)
      else d.xEnd x true 0

/-- Rounds of a permute in which a position sends or receives. -/
def Xop.permRounds (x : Xop) : List Nat :=
  (pents x.table).foldl (fun a e => if e.from_ == x.grp.self || e.to_ == x.grp.self then setIns a e.round else a) []

/-- Start the round that a permute has come to, in its turn (R292, R311). -/
def Dev.permStart (d : Dev) (x : Xop) : Dev :=
  if !d.xTurn x then d
  else
    let y := { x with stage := .plain, got := [] }
    let need := match y.permIn with
      | some e => if e.from_ = e.to_ then 0 else e.len
      | none => 0
    let qs := match y.permOut with
      | some e => if e.from_ = e.to_ then [] else [y.stream1 e.to_ 0 (down256 y.r.src + e.soff) e.len]
      | none => []
    let x1 := { y with need := need, sends := y.sends ++ qs }
    (d.setX x1).pump x1

/-- Go on to the next round of a permute at or after a number, or end it (R311). -/
def Dev.permRound (d : Dev) (x : Xop) (from_ : Nat) : Dev :=
  match x.permRounds.find? (fun n => decide (from_ ≤ n)) with
  | none => d.xEnd x true 0
  | some n =>
    let y := { x with stage := .turn, round := n }
    (d.setX y).permStart y

/-- The shard of a round moves to its place: from the staging area, or from its old place when it stays on the device. -/
def Dev.permPlace (d : Dev) (x : Xop) : Dev × Option Unit :=
  match x.permIn with
  | none => (d, some ())
  | some e =>
    let from_ := if e.from_ = e.to_ then down256 x.r.src + e.soff else down256 x.r.dst
    thenDo (Dev.vread (d.srcAg x) x.stream from_ (256 * e.len) d) fun bs y =>
      thenDo (if e.from_ = e.to_ then Dev.vwrite (y.dstAg x) x.stream (down256 x.r.dst) bs y else (y, some ())) fun _ z =>
        Dev.vwrite (z.dstAg x) x.stream (down256 x.r.src + e.doff) bs z

/-- PERMUTE_ROUND_END (R311); a round that waited for its turn starts. -/
def execPermuteRoundEnd (x : Nat) (us : List Upset) (s : State) : Host.Outcome State Fault Refusal :=
  s.runC us fun d =>
    match (if d.alive then d.xop? x else none) with
    | none => d
    | some x =>
      if x.op = 8 && decide (x.stage = .turn) then d.permStart x
      else if x.op ≠ 8 || decide (x.stage ≠ .plain) || !x.free || decide (x.got.length < x.need) || !x.credited then d
      else xDo x d.parks.length (d.permPlace x) fun _ y => y.permRound x (x.round + 1)

/-- A permute starts when its command is dispatched (R311). -/
def Dev.startPermute (d : Dev) (xid : Nat) : Dev :=
  match d.xop? xid with
  | some x => if idleOp 8 x then (d.xBegin x).1.permRound (d.xBegin x).2 0 else d
  | none => d

/-! ### Barriers -/

/-- Rounds of a barrier (R305). -/
def Xop.rounds (x : Xop) : Nat := ceilLog2 x.grp.n

/-- Node that sends the flit of a round (R305). -/
def Xop.barFrom (x : Xop) (r : Nat) : Nat := x.grp.node ((x.grp.self + x.grp.n - 2 ^ r % x.grp.n) % x.grp.n)

/-- Send the flit of a round (R305): barrier id and round in the value, with the committed step number. -/
def Dev.sendBarrier (d : Dev) (x : Xop) (r : Nat) : Dev :=
  d.originate { d.frame0 6 (x.grp.node ((x.grp.self + 2 ^ r) % x.grp.n)) x.wire with
    value := BitVec.ofNat 32 (x.key % 2 ^ 28 + r * 2 ^ 28), step := BitVec.ofNat 64 (d.rd64 rUpdStepLo) }

/-- A running barrier that a flit belongs to. -/
def Dev.barOf (d : Dev) (gen id : Nat) : Option Xop :=
  d.xops.find? fun x => decide (x.stage = .rounds) && x.gen == gen && x.key % 2 ^ 28 == id

/-- BARRIER (R306). -/
def Dev.barrierIn (d : Dev) (f : Frame) : Dev :=
  let gen := f.xid.toNat / 2 ^ 24
  let id := f.value.toNat % 2 ^ 28
  let r := f.value.toNat / 2 ^ 28
  let ids := d.bars.foldl (fun a b => if (d.barOf b.1 b.2.1).isSome || a.any (fun p => p == (b.1, b.2.1)) then a else a ++ [(b.1, b.2.1)]) []
  let take := { d with bars := d.bars ++ [(gen, id, r, f.src)] }
  if !d.genOk gen then d.bump rXchBarrierReject 1
  else match d.barOf gen id with
    | some x =>
      if x.round ≤ r && decide (r < x.rounds) && x.barFrom r == f.src && !d.bars.any (fun b => b == (gen, id, r, f.src)) then take
      else d.bump rXchBarrierReject 1
    | none =>
      if ids.any (fun p => p == (gen, id)) || decide (ids.length < 64) then take else d.bump rXchBarrierReject 1

/-- BARRIER (R272, R306). -/
def execBarrier (p : Nat) (f : Frame) (s : State) : Host.Outcome State Fault Refusal :=
  s.runIf (portOk p) fun d => d.ctlIn p (asCtl f 6) (fun y => y.barrierIn f) fun y => y.bump rXchBarrierReject 1

/-! ### The gradient phase -/

/-- Local words of a bucket: its exponent maximum, and the index of the first entry with a non-finite block (R298). -/
def Dev.bucketExp (x : Xop) : List (Nat × BEnt) → Dev → Dev × Option (Nat × Option Nat)
  | [], d => (d, some (0, none))
  | e :: es, d =>
    thenDo (Dev.loadSrc (d.srcAg x) x.stream e.2.sfmt e.2.src e.2.srcx e.2.elems d) fun w d1 =>
      thenDo (Dev.bucketExp x es d1) fun r d2 =>
        let m := maxExp w.2
        (d2, some (max m r.1, if m = 255 then some e.1 else r.2))

/-- The word of R298. -/
def expWord (m : Nat) (first : Option Nat) : Nat :=
  m * 2 ^ 24 + (match first with
    | some i => if m = 255 then 0xFFFFFF - i else 0
    | none => 0)

/-- Start a bucket: its exponent maximum is exchanged (R298). -/
def Dev.startBucket (d : Dev) (x : Xop) (b : Nat) : Dev :=
  xDo x d.parks.length (Dev.bucketExp x (bucketEnts x.table b) d) fun r y =>
    y.startValue { x with bucket := b, val := expWord r.1 r.2 } 1 0

/-- SUBs of the exchanges from a bucket on, and of the norm, which an early end closes (R301). -/
def Xop.laterSubs (x : Xop) (b : Option Nat) : List Nat :=
  let bs := match b with
    | some n => (bents x.table).foldl (fun a (e : Nat × BEnt) => if n ≤ e.2.bucket then setIns a e.2.bucket else a) []
    | none => []
  (bs.flatMap fun b => [subOf 1 0 b, subOf 0 0 b]) ++ [2, 3]

/-- The phase ends early (R301): local code, what ended it, later exchanges closed. -/
def Dev.gradEnd (d : Dev) (x : Xop) (code : Nat) (b : Option Nat) : Dev :=
  let d1 := { d with vcode := max d.vcode code, endB := b, normEnd := b.isNone }
  (d1.closeX x.wire (x.laterSubs b)).xEnd x true 0

/-- The words of the RESULT elements that the device owns (R335), read where they were written. -/
def Dev.ownedWords (x : Xop) : List (Nat × Nat × Nat) → Dev → Dev × Option (List Nat)
  | [], d => (d, some [])
  | e :: es, d =>
    thenDo (Dev.vread (d.srcAg x) x.stream e.1 (resSize e.2.2 * e.2.1) d) fun bs d1 =>
      thenDo (Dev.ownedWords x es d1) fun r d2 => (d2, some (srcWords e.2.2 bs [] e.2.1 ++ r))

/-- Squares of R323 at a scale: their sum, and the number of non-zero values whose square became 0. -/
def sumSquares (k2 : Int) (ws : List Nat) : Int × Nat :=
  ws.foldl (fun a w =>
    let m := sig32 w * sig32 w
    let q : Nat := if 0 ≤ 2 * exp32 w + k2 then m * 2 ^ (2 * exp32 w + k2).toNat else roundShift 0 m (-(2 * exp32 w + k2)).toNat false
    (a.1 + (q : Int), a.2 + (if q = 0 && m != 0 then 1 else 0))) (0, 0)

/-- The scale of R323. -/
def sumK (eg head : Nat) : Int := 315 - 2 * (eg : Int) - (head : Int)

/-- UPD_NORM_CFG.HEAD: 0 acts as 1. -/
def Dev.normHead (d : Dev) : Nat := max 1 (d.fld rUpdNormCfg 5 0)

/-- The norm follows the last bucket (R300, R336): the exponent maximum over the owned results, over the norm's group. Where that group
is undefined no exchange can run, and the timeout count decides. -/
def Dev.startNorm (d : Dev) (x : Xop) : Dev :=
  xDo x d.parks.length
    (thenDo (Dev.readGroup (d.srcAg x) x.stream (d.fld rUpdNormCfg 27 16) d) fun g y =>
      thenDo (Dev.ownedWords x y.owned y) fun ws z => (z, some (g, ws)))
    fun r y =>
      match r.1 with
      | some g =>
        y.startValue { x with grp := g, wins := g.hops.map g.win, bucket := 0
                              val := maxExp (srcExps 1 [] r.2) * 2 ^ 24 } 2 0
      | none => y.setX { x with stage := .value 2, bucket := 0, need := 1, got := [], vdone := false }

/-- Start what the phase has come to: a bucket, in its turn (R292), or the norm. -/
def Dev.gradStart (d : Dev) (x : Xop) : Dev :=
  if x.round = 1 then d.startNorm x else if d.xTurn x then d.startBucket x x.bucket else d

/-- The phase goes on after a bucket: the next one, the norm, or the end (R300, R301). -/
def Dev.gradNext (d : Dev) (x : Xop) (b : Option Nat) : Dev :=
  let go (y : Xop) : Dev := if y.own.isEmpty then (d.setX y).gradStart y else d.setX y
  match nextBucket x.table b with
  | some n => go { x with stage := .turn, bucket := n }
  | none => if x.r.isNorm then go { x with stage := .turn, round := 1 } else d.xEnd x true 0

/-- A GRAD begins after the step barrier's release (R296); after a phase that ended with code 2 or 3 it reduces nothing (R301). -/
def Dev.gradBegin (d : Dev) (x : Xop) : Dev :=
  if d.vcode = 2 || d.vcode = 3 then d.xEnd x true 0 else d.gradNext x none

/-- GRAD (R296); a phase that waited for its turn goes on. -/
def execGrad (x : Nat) (us : List Upset) (s : State) : Host.Outcome State Fault Refusal :=
  s.runC us fun d =>
    match (if d.alive then d.xop? x else none) with
    | none => d
    | some y =>
      if y.op = 0x0A && decide (y.stage = .turn) && y.free then d.gradStart y
      else
        Dev.xStart x (fun y => idleOp 0x0A y || (y.op == 0x0A && decide (y.stage = .barrierWait))) (fun x d =>
          if d.stepRel then d.gradBegin x else d.setX { x with stage := .barrierWait }) d

/-- The step barrier is released (R296, R307): the step slack is written, and every GRAD that waits begins. -/
def Dev.stepRelease (d : Dev) (x : Xop) : Dev :=
  let d1 := { d.wr64 rXchSlackLo (d.cc - x.t0) with stepRel := true }
  d1.xops.foldl (fun y q => if q.stage = .barrierWait && q.free then y.gradBegin q else y) d1

/-- A barrier releases (R305). -/
def Dev.barRelease (d : Dev) (x : Xop) : Dev :=
  let d1 := d.xEnd x true 0
  if x.r.isStep then d1.stepRelease x else d1

/-- Enter a round of a barrier, or release. -/
def Dev.barRound (d : Dev) (x : Xop) (r : Nat) : Dev :=
  let x1 := { x with stage := .rounds, round := r }
  if x.rounds ≤ r then d.barRelease x1 else (d.setX x1).sendBarrier x1 r

/-- BARRIER_OP (R305, R306): of the flits counted in advance, those from a member that no round expects are discarded. -/
def execBarrierOp (x : Nat) (us : List Upset) (s : State) : Host.Outcome State Fault Refusal :=
  s.runC us (Dev.xStart x (idleOp 9) fun x d =>
    let mine (b : Nat × Nat × Nat × Nat) : Bool := b.1 == x.gen && b.2.1 == x.key % 2 ^ 28
    let bad (b : Nat × Nat × Nat × Nat) : Bool := mine b && !(decide (b.2.2.1 < x.rounds) && x.barFrom b.2.2.1 == b.2.2.2)
    let d1 := { d with bars := d.bars.filter fun b => !bad b }.bump rXchBarrierReject (d.bars.filter bad).length
    d1.barRound { x with t0 := d.cc } 0)

/-- BARRIER_ROUND_COMPLETE (R305). -/
def execBarrierRoundComplete (x : Nat) (us : List Upset) (s : State) : Host.Outcome State Fault Refusal :=
  s.runC us fun d =>
    match (if d.alive then d.xop? x else none) with
    | none => d
    | some x =>
      let want := (x.gen, x.key % 2 ^ 28, x.round, x.barFrom x.round)
      if decide (x.stage ≠ .rounds) || !d.bars.any (fun b => b == want) then d
      else { d with bars := d.bars.erase want }.barRound x (x.round + 1)

/-- Write the INT32 contribution of a bucket over its half of the work area, 0 where no entry covers it (R290, R532). -/
def Dev.bucketIn (x : Xop) (k : Int) : List (Nat × BEnt) → List Byte → Nat → Dev → Dev × Option (List Byte × Nat)
  | [], work, fl, d => (d, some (work, fl))
  | e :: es, work, fl, d =>
    thenDo (Dev.loadSrc (d.srcAg x) x.stream e.2.sfmt e.2.src e.2.srcx e.2.elems d) fun w d1 =>
      let q := quantize k w.1
      Dev.bucketIn x k es (putField work (4 * e.2.woff) (intBytes q.1)) (fl + q.2) d1

/-- Start of a bucket's half of the work area (R296). -/
def Xop.workVa (x : Xop) : Nat := down256 x.r.dst + x.geom.1

/-- The integer sum of a bucket starts (R293, R299). -/
def Dev.sumBucket (d : Dev) (x : Xop) : Dev :=
  let n := 256 * bucketBlocks x.table x.grp.n x.bucket
  xDo x d.parks.length
    (thenDo (Dev.bucketIn x (sharedK x.grp.n x.eg) (bucketEnts x.table x.bucket) (List.replicate n 0) 0 d) fun w y =>
      thenDo (Dev.vwrite (y.dstAg x) x.stream x.workVa w.1 y) fun _ z => (z, some w.2))
    fun fl y => (y.bump rXchRedFlush fl).startScatter x 0

/-- A one-value exchange of an operation is complete. -/
def Xop.valueAt (x : Xop) (part op : Nat) : Bool := decide (x.stage = .value part) && x.op == op && x.vdone && x.free

/-- GRAD_BUCKET_EMAX_DONE (R295, R298, R301). -/
def execGradBucketEmaxDone (x : Nat) (us : List Upset) (s : State) : Host.Outcome State Fault Refusal :=
  s.runC us fun d =>
    match (if d.alive then d.xop? x else none) with
    | none => d
    | some x =>
      let eg := x.val / 2 ^ 24
      if !x.valueAt 1 0x0A then d
      else if eg = 255 then
        (d.wr rXchNonfinEntry (BitVec.ofNat 32 (0xFFFFFF - x.val % 2 ^ 24))).gradEnd x 2 (some x.bucket)
      else if eg = 0 then d.setX { x with eg := 0, stage := .scatter, vdone := true }
      else d.sumBucket { x with eg := eg }

/-- Elements of an entry that a member writes, within a span of the bucket's work. -/
def entSpan (e : BEnt) (lo hi : Nat) : Nat × Nat := (max lo e.woff - e.woff, min hi (e.woff + e.elems) - e.woff)

/-- Write the RESULTs of a bucket (R293, R299). -/
def Dev.results (x : Xop) (lo hi : Nat) (sums : List Int) : List (Nat × BEnt) → Dev → Dev × Option Unit
  | [], d => (d, some ())
  | e :: es, d =>
    let sp := entSpan e.2 lo hi
    let vs := (sums.drop (e.2.woff + sp.1 - lo)).take (sp.2 - sp.1)
    thenDo (Dev.vwrite (d.dstAg x) x.stream (e.2.result + sp.1 * resSize e.2.rfmt)
        (vs.flatMap (backElem (sharedK x.grp.n x.eg) e.2.rfmt)) d) fun _ d1 =>
      Dev.results x lo hi sums es d1

/-- The parts of a bucket's RESULTs that the member owns (R299, R335). -/
def Xop.ownedOf (x : Xop) : List (Nat × Nat × Nat) :=
  let q := bucketBlocks x.table x.grp.n x.bucket / x.grp.n
  ((bucketEnts x.table x.bucket).map fun e =>
    let sp := entSpan e.2 (64 * q * x.grp.self) (64 * q * (x.grp.self + 1))
    (e.2.result + sp.1 * resSize e.2.rfmt, sp.2 - sp.1, e.2.rfmt)).filter fun p => p.2.1 != 0

/-- GRAD_BUCKET_SUM_DONE (R299, R301). -/
def execGradBucketSumDone (x : Nat) (us : List Upset) (s : State) : Host.Outcome State Fault Refusal :=
  s.runC us fun d =>
    match (if d.alive then d.xop? x else none) with
    | none => d
    | some x =>
      let n := bucketBlocks x.table x.grp.n x.bucket
      let q := n / x.grp.n
      let (lo, hi) := if x.r.isOwner then (64 * q * x.grp.self, 64 * q * (x.grp.self + 1)) else (0, 64 * n)
      if x.op ≠ 0x0A || !x.vdone || !x.free || !(decide (x.stage = .scatter) || decide (x.stage = .gather)) then d
      else
        xDo x d.parks.length
          (thenDo (if x.eg = 0 then (d, some (List.replicate (4 * (hi - lo)) 0))
              else Dev.vread (d.srcAg x) x.stream (x.workVa + 4 * lo) (4 * (hi - lo)) d) fun bs y =>
            Dev.results x lo hi (intsOf bs) (bucketEnts x.table x.bucket) y)
          fun _ y => { y with owned := y.owned ++ x.ownedOf }.gradNext x (some x.bucket)

/-- The squares of the norm are summed and exchanged at the agreed scale (R323). -/
def Dev.normSquares (d : Dev) (x : Xop) : Dev :=
  xDo x d.parks.length (Dev.ownedWords x d.owned d) fun ws y =>
    let s := sumSquares (sumK x.eg y.normHead) ws
    (y.bump rUpdNormFlush s.2).startValue { x with val := uBits 64 s.1 } 3 0

/-- The spike guard (R337). -/
def Dev.spike (d : Dev) (n : Nat) : Dev :=
  let lim := (fmul fmt32 false (d.rd rUpdSpikeMult).toNat (d.rd rUpdNormMean).toNat).bits
  if d.fld rUpdSpikeCtl 31 31 = 1 && decide (d.fld rUpdSpikeCtl 15 0 ≤ (d.rd rUpdSpikeSeen).toNat) && decide (d.vcode = 0)
      && fcmp fmt32 false n lim == some 1 then
    { d.bump rUpdSpikes 1 with vcode := 1 }
  else d

/-- The correctly rounded FP32 square root of `s * 2^-k` (R336). -/
def rootOf (s : Nat) (k : Int) : Nat :=
  if s = 0 then 0
  else match sqrtParts s (-k) with
    | (r, e, st) => (roundMag 24 (-149) 0 r e st).mag

/-- GRAD_NORM_DONE (R336, R337, R301). -/
def execGradNormDone (x : Nat) (s : State) : Host.Outcome State Fault Refusal :=
  s.run fun d =>
    match (if d.alive then d.xop? x else none) with
    | none => d
    | some x =>
      if x.valueAt 2 0x0A && x.eg == 255 then
        ((d.wr rUpdNorm 0x7F800000#32).wr rXchNonfinEntry 0xFFFFFF#32).gradEnd x 2 none
      else if x.valueAt 2 0x0A || x.valueAt 3 0x0A then
        let n := if x.eg = 0 then 0 else rootOf (sInt 64 x.val).toNat (sumK x.eg d.normHead)
        let d1 := { d.wr rUpdNorm (BitVec.ofNat 32 n) with normed := true }
        (d1.spike n).xEnd x true 0
      else d

/-- A one-value exchange has its last value. -/
def Dev.valueKnown (d : Dev) (x : Xop) (part : Nat) : Dev :=
  if part = 1 && x.op != 0x0A then d.scaleKnown x
  else if part = 2 then
    (let eg := x.val / 2 ^ 24
     if eg = 0 || eg = 255 then d.setX { x with vdone := true, eg := eg } else d.normSquares { x with eg := eg })
  else d.setX { x with vdone := true }

/-- ONE_VALUE_EXCHANGE_DONE (R533). -/
def execOneValueExchangeDone (x : Nat) (us : List Upset) (s : State) : Host.Outcome State Fault Refusal :=
  s.runC us fun d =>
    match (if d.alive then d.xop? x else none) with
    | none => d
    | some x =>
      match x.stage with
      | .value part =>
        if !x.free || x.vdone || decide (x.got.length < x.need) then d
        else if x.level + 1 < x.grp.levels then d.startValue x part (x.level + 1)
        else d.valueKnown x part
      | _ => d

/-! ### The verdict -/

/-- VERDICT (R302): the local code is reduced. -/
def execVerdict (x : Nat) (us : List Upset) (s : State) : Host.Outcome State Fault Refusal :=
  s.runC us (Dev.xStart x (idleOp 0x0B) fun x d => d.startValue { x with val := d.vcode } 0 0)

/-- XCH_VERDICT after a verdict (R301, R302). -/
def Dev.verdictWord (d : Dev) (code : Nat) : Nat :=
  code % 4 + 4 + (match d.endB with
    | some b => b % 4096 * 2 ^ 16 + 2 ^ 28
    | none => 0xFFF * 2 ^ 16) + (if d.normEnd then 2 ^ 29 else 0)

/-- The digest-ring entry of the present generation (Table 10.8). -/
def Dev.digEntry (d : Dev) (code : Nat) : List Byte :=
  toLe 8 (d.rd64 rUpdStepLo) ++ toLe 1 (d.fld rXchGen 7 0) ++ toLe 1 code ++ toLe 2 d.epoch ++ toLe 4 d.dig.run
    ++ toLe 8 d.dig.sent ++ toLe 8 d.dig.recvd ++ toLe 8 d.dig.sdig.toNat ++ toLe 8 d.dig.rdig.toNat ++ List.replicate 16 0

/-- The generation rises (R289): frames and flits of neither the new nor the next one are discarded. -/
def Dev.nextGen (d : Dev) : Dev :=
  let g := (d.fld rXchGen 7 0 + 1) % 256
  let d1 := d.wr rXchGen (BitVec.ofNat 32 g)
  let old (b : InBlk) : Bool := !d1.genOk (b.xid.toNat / 2 ^ 24)
  let gone := d1.inbox.filter old
  let frs := gone.foldl (fun a b => setIns a b.fr) []
  let d2 := (gone.foldl (fun (y : Dev) b => y.credBack b.port b.vc 1) { d1 with
    inbox := d1.inbox.filter fun b => !old b
    closedX := d1.closedX.filter fun c => d1.genOk (c.1 / 2 ^ 24)
    bars := d1.bars.filter fun b => d1.genOk b.1 }).bump rXchStaleDrops frs.length
  { d2 with vcode := 0, endB := none, normEnd := false, normed := false, stepRel := false, owned := [], dig := {} }

/-- The running mean takes in the step's norm (R338). -/
def Dev.takeNorm (d : Dev) : Dev :=
  let n := (d.rd rUpdNorm).toNat
  let mean := (d.rd rUpdNormMean).toNat
  let half := (fencode fmt32 false (.fin false 1 (-((d.fld rUpdSpikeCtl 19 16 : Nat) : Int)))).bits
  let m := if d.rd rUpdSpikeSeen = 0 then n
    else (fadd fmt32 false mean (fmul fmt32 false (fsub fmt32 false n mean).bits half).bits).bits
  (d.wr rUpdNormMean (BitVec.ofNat 32 m)).bump rUpdSpikeSeen 1

/-- The device learns the job verdict (R302, R304, R338, R340). -/
def Dev.learnVerdict (d : Dev) (code : Nat) : Dev :=
  let d1 := d.wr rXchVerdict (BitVec.ofNat 32 (d.verdictWord code))
  let d2 := d1.setFld rXchDigestHead 5 0 (d1.fld rXchDigestHead 5 0 + 1)
  let d3 := if code = 0 && d2.normed then d2.takeNorm else d2
  let d4 := if code = 0 then d3.coneStart else d3
  d4.nextGen

/-- VERDICT_COMPLETE (R302, R304): the digest-ring entry is written, then the rest follows. -/
def execVerdictComplete (x : Nat) (us : List Upset) (s : State) : Host.Outcome State Fault Refusal :=
  s.runC us fun d =>
    match (if d.alive then d.xop? x else none) with
    | none => d
    | some x =>
      if !x.valueAt 0 0x0B then d
      else
        xDo x d.parks.length
          (Dev.vwrite (d.dstAg x) x.stream (d.rd64 rXchDigestBaseLo + 64 * d.fld rXchDigestHead 5 0) (d.digEntry x.val) d)
          fun _ y => (y.learnVerdict x.val).xEnd x true (y.verdictWord x.val)

/-! ### Timeouts -/

/-- A GRAD has a bucket or its norm still to come. -/
def Xop.gradMore (x : Xop) : Bool := x.op == 0x0A && ((nextBucket x.table (some x.bucket)).isSome || x.r.isNorm)

/-- An operation expects more after its present exchange, hop, step or round. -/
def Xop.more (x : Xop) : Bool :=
  match x.stage with
  | .value part => decide (x.level + 1 < x.grp.levels) || part == 1 || (!x.vdone && (part == 2 || part == 4))
  | .scatter => (!x.vdone && (decide (x.level + 1 < x.grp.levels) || x.gathers)) || x.gradMore
  | .gather => decide (0 < x.level) || x.gradMore
  | .plain =>
    if x.wheel.isSome then !x.hopsIn
    else (x.op == 7 && decide (x.round + 1 < x.r.count)) || (x.op == 8 && x.permRounds.any fun n => decide (x.round < n))
  | .rounds | .turn | .barrierWait => true
  | _ => false

/-- The timeout count of an operation runs, from its launch to its last expected block (R291, R202). -/
def Xop.counts (x : Xop) : Bool :=
  x.free && x.holds.isEmpty && decide (x.stage ≠ .idle) && decide (x.stage ≠ .draining) && (decide (x.got.length < x.need) || x.more)

/-- EXCHANGE_TIMEOUT (R291, Table 10.5). -/
def execExchangeTimeout (x : Nat) (s : State) : Host.Outcome State Fault Refusal :=
  s.run fun d =>
    match (if d.alive then d.xop? x else none) with
    | none => d
    | some x =>
      if !x.counts then d
      else
        let d1 := d.bump rXchTimeouts 1
        if x.op = 0x0A && decide (x.key < 2 ^ 24) then
          d1.gradEnd x 3 (if x.stage = .value 2 || x.stage = .value 3 || x.round = 1 then none
            else if x.stage = .barrierWait then nextBucket x.table none else some x.bucket)
        else d1.jobFatal

end Sys2Proof.Machine
end

