-- ==== Sys2Proof/Machine/Wheel.lean ====
section
/-!
DEFINITION. The Wheel (R212 to R251): validation of a layer descriptor, choosing experts, tallies and grants, lists, dispatch and
return, exact combine, layer skipping, the backward pass, and the sort unit.
-/

namespace Sys2Proof.Machine

/-! ### The layer descriptor -/

/-- Fields of a layer descriptor (Table 8.1). -/
structure RouteD where
  layer   : Nat
  k       : Nat
  policy  : Nat
  rounds  : Nat
  flags   : Nat
  nexp    : Nat
  cap     : Nat
  sync    : Nat
  tokens  : Nat
  dmodel  : Nat
  group   : Nat
  blimit  : Nat
  scores  : Nat
  table   : Nat
  xin     : Nat
  xexp    : Nat
  out     : Nat
  lists   : Nat
  recv    : Nat
  ret     : Nat
  bulge   : Nat
  skip    : Nat
  counts  : Nat
  ggrad   : Nat
  cmb     : Nat
  timeout : Nat
  lthresh : Int
  lscore  : Nat
  mbtag   : Nat
deriving DecidableEq, Repr

/-- The fields of 256 descriptor bytes. -/
def routeD (b : List Byte) : RouteD :=
  { layer := field b 0 2, k := field b 2 1, policy := field b 3 1, rounds := field b 4 1, flags := field b 5 1, nexp := field b 6 2
    cap := field b 8 2, sync := field b 10 2 % 8192, tokens := field b 12 4, dmodel := field b 16 2, group := field b 18 2
    blimit := field b 20 4, scores := field b 24 8, table := field b 32 8, xin := field b 40 8, xexp := field b 48 8
    out := field b 56 8, lists := field b 64 8, recv := field b 72 8, ret := field b 80 8, bulge := field b 88 8, skip := field b 96 8
    counts := field b 104 8, ggrad := field b 112 8, cmb := field b 120 4, timeout := field b 124 4
    lthresh := field b 128 4, lscore := field b 132 4, mbtag := field b 136 8 }

/-- DIR: a backward descriptor. -/
def RouteD.back (q : RouteD) : Bool := q.flags.testBit 0

/-- LSKIP_KIND. -/
def RouteD.lskip (q : RouteD) : Nat := q.flags / 16 % 4

/-- Length H of a half's combine area (R238). -/
def RouteD.areaLen (q : RouteD) : Nat := roundUp (q.tokens / 16 * (8 * q.dmodel + 6)) 256

/-- The first field at fault, in byte order (R213, Table 8.1); a backward descriptor's own K and BULGE_LIMIT are ignored (R239). -/
def routeBad (b : List Byte) : Option Nat :=
  let q := routeD b
  if !q.back && (decide (q.k = 0) || decide (8 < q.k) || decide (q.nexp < q.k)) then some 2
  else if 2 < q.policy then some 3
  else if q.policy = 1 && (decide (q.rounds = 0) || decide (4 < q.rounds)) then some 4
  else if 64 ≤ q.flags || q.lskip = 3 then some 5
  else if q.nexp = 0 || 4096 < q.nexp then some 6
  else if 8192 ≤ field b 10 2 then some 10
  else if q.tokens % 16 ≠ 0 || q.tokens = 0 || 1048576 < q.tokens then some 12
  else if q.dmodel % 32 ≠ 0 || q.dmodel = 0 || 16384 < q.dmodel then some 16
  else if 4095 < q.group then some 18
  else none

/-- The fields after GROUP. -/
def routeBad2 (b : List Byte) : Option Nat :=
  let q := routeD b
  if !q.back && decide (1048576 < q.blimit) then some 20
  else
    match ((List.range 12).map fun i => 24 + 8 * i).find? fun off => field b off 8 % 256 != 0 with
    | some off => some off
    | none =>
      if q.cmb % 256 ≠ 0 || 0x4000000 < q.cmb + 2 * q.areaLen then some 120
      else if q.timeout = 0 then some 124
      else ((List.range 112).map (144 + ·)).find? fun off => field b off 1 != 0

/-- The first Palette entry of a hop peer that cannot carry a ROUTE's exchanges (R286, R281). -/
def Dev.routeWin (d : Dev) (g : Grp) : Option Nat :=
  (g.hops.find? fun p => !g.hasWin p || bitsOf (d.rd (rPalEntryPeer (g.win p))) 15 15 == 0
    || bitsOf (d.rd (rPalEntryPeer (g.win p))) 16 16 == 0 || decide ((d.rd (rPalEntryRlen (g.win p))).toNat = 0)).map g.win

/-- Validate a ROUTE (R213, R214, R239, R286): the descriptor, its group, and the header of the forward LISTS area of a backward one. -/
def Dev.routeCheck (va : Nat) (d : Dev) : Dev × Chk (List Byte × Grp × List Byte) :=
  andChk (Dev.stuRead va 256 d) fun b d1 =>
    let q := routeD b
    if 8191 < q.sync + 7 then (d1, .bad 5 8192)
    else
      rejectAt (routeBad b) 1 d1 fun d2 =>
        andChk (Dev.stuGroup q.group d2) fun og d3 =>
          match og with
          | none => (d3, .bad stBadParam (badField 0 18 1))
          | some g =>
            rejectAt g.badAt 3 d3 fun d4 =>
              rejectAt (routeBad2 b) 1 d4 fun d5 =>
                if let some w := d5.routeWin g then (d5, .bad 0x11 w)
                else if q.back then
                  andChk (Dev.stuRead q.lists 256 d5) fun h d6 =>
                    if field h 0 2 ≠ q.layer || field h 8 8 ≠ q.mbtag then (d6, .bad 0x13 (field h 0 2)) else (d6, .ok (b, g, h))
                else (d5, .ok (b, g, []))

/-- The Studio starts all eight Wheels on a ROUTE (R212), which wait for a count of 1 on SYNC + 4 to SYNC + 7 (R230, R231). -/
def Dev.routeLaunch (d : Dev) (c : Cmd) (b : List Byte) (g : Grp) (head : List Byte) : Dev :=
  iter 4 (fun i x => x.addWaiter (.wheel c.id (4 + i)) ((routeD b).sync + 4 + i) 1) { d with
    routes := d.routes ++ [{ no := d.wseq, cmd := c.id, stream := c.h.stream, prio := c.prio, desc := b, grp := g, head := head }]
    wseq := d.wseq + 1 }

/-! ### Operations of a Wheel -/

/-- The descriptor as the Wheel uses it: a backward pass takes CAPACITY, K and BULGE_LIMIT from the header (R239). -/
def RouteOp.q (o : RouteOp) : RouteD :=
  let q := routeD o.desc
  if q.back then { q with cap := field o.head 36 2, k := field o.head 38 1, blimit := field o.head 40 4 } else q

/-- Members of the routing group. -/
def RouteOp.n (o : RouteOp) : Nat := if (routeD o.desc).back then field o.head 28 4 else o.grp.n

/-- Local slots of this device (R215). -/
def RouteOp.l (o : RouteOp) : Nat := if (routeD o.desc).back then field o.head 32 4 else nth 0 o.slots o.grp.self

/-- A half-batch. -/
def RouteOp.half (o : RouteOp) (h : Nat) : Half := if h = 0 then o.a else o.b

/-- Number of the first send entry of a half. -/
def RouteOp.firstEntOf (o : RouteOp) (h : Nat) : Nat := if h = 0 then 0 else o.a.ents.length

/-- Replace a half-batch. -/
def RouteOp.setHalf (o : RouteOp) (h : Nat) (x : Half) : RouteOp := if h = 0 then { o with a := x } else { o with b := x }

/-- A ROUTE, by the number of its command. -/
def Dev.route? (d : Dev) (r : Nat) : Option RouteOp := if d.alive then d.routes.find? fun o => o.cmd == r else none

/-- Replace a ROUTE. -/
def Dev.setRoute (d : Dev) (o : RouteOp) : Dev := { d with routes := d.routes.map fun x => if x.cmd = o.cmd then o else x }

/-- Tokens of a die in a half (R212): the first, and how many. -/
def RouteD.toks (q : RouteD) (h n : Nat) : Nat × Nat := (h * (q.tokens / 2) + n * (q.tokens / 16), q.tokens / 16)

/-- Die of a token. -/
def RouteD.dieOfTok (q : RouteD) (t : Nat) : Nat := t % (q.tokens / 2) / (q.tokens / 16)

/-- Send entries of a half for a group position, in order (Table 8.4). -/
def Half.entsTo (x : Half) (p : Nat) : List SendEnt := x.ents.filter fun e => e.pair.pos == p

/-- Send entries of a half for positions before one. -/
def Half.entsBefore (x : Half) (p : Nat) : Nat := (x.ents.filter fun e => decide (e.pair.pos < p)).length

/-- A Wheel routes a half. -/
def Half.routing (x : Half) (n : Nat) : Bool := inSet x.starts n && decide (x.stage ≠ .sent)

/-- A Wheel combines a half. -/
def Half.combining (x : Half) (n : Nat) : Bool := inSet x.begun n && !inSet x.back n

/-- Sort records of a die. -/
def Dev.sortsOn (d : Dev) (n : Nat) : List SortJob := SMap.get [] d.sorts n

/-- A Wheel operation runs on a die (R249). -/
def Dev.wheelBusy (d : Dev) (n : Nat) : Bool :=
  d.routes.any (fun o => o.a.routing n || o.b.routing n || o.a.combining n || o.b.combining n) || (d.sortsOn n).any (·.run)

/-- A half may start on a die (R230): its signal has come, and half A's dispatch is launched before half B starts. -/
def Dev.halfDue (d : Dev) (o : RouteOp) (h n : Nat) : Bool :=
  decide ((o.half h).stage = .ranking) && !inSet (o.half h).starts n && (h == 0 || decide (o.a.stage = .sent))
    && d.released (.wheel o.cmd (6 + h))

/-! ### The Wheel's exchanges -/

/-- Number of an exchange of a ROUTE among those of the Wheels: the layer statistic, the tally and the grant of each round, the dispatch, the return. -/
def wheelCode (w : WheelX) (round : Nat) : Nat :=
  match w with
  | .statistic => 0
  | .tally => 1 + 2 * round
  | .grant => 2 + 2 * round
  | .dispatch => 11
  | .ret => 12

/-- Key of an exchange of a Wheel: the same for the members of a group that number their ROUTEs alike (DESIGN CHOICE, log 24). -/
def RouteOp.xkey (o : RouteOp) (h : Nat) (w : WheelX) (round : Nat) : Nat := 2 ^ 26 + 64 * o.no + 32 * h + wheelCode w round

/-- The 64-byte exchange record that the Wheel writes for its exchange (R284, Table 10.1). -/
def RouteOp.xrecord (o : RouteOp) (w : WheelX) (key : Nat) : List Byte :=
  let q := routeD o.desc
  let a : Nat × Nat × Nat := match w with
    | .dispatch => (q.xin, q.xexp, q.recv)
    | .ret => (q.ret, 0, q.out)
    | _ => (0, 0, 0)
  toLe 1 (if w = .statistic then 4 else 1) ++ toLe 1 (if w = .statistic then 1 else 0) ++ toLe 2 q.group ++ toLe 4 (key % 2 ^ 24)
    ++ toLe 8 a.1 ++ toLe 8 a.2.1 ++ toLe 8 a.2.2 ++ toLe 4 0 ++ toLe 4 q.timeout ++ List.replicate 24 0

/-- Launch an exchange of a Wheel (R222, R250); what a parked Wheel holds of it stays held (R202). -/
def Dev.wLaunch (d : Dev) (o : RouteOp) (h : Nat) (w : WheelX) : Dev :=
  let key := o.xkey h w (o.half h).round
  let x := d.newX key (if w = .statistic then 4 else 1) (o.xrecord w key) o.stream o.prio o.grp
  let mine := d.early.filter fun e => e.key == key
  { d.addX { x with wheel := some (o.cmd, h, w), own := mine.map fun e => (agentCode (.wheel e.die), e.va) } with
    early := d.early.filter fun e => e.key != key }

/-- An exchange of a Wheel. -/
def Dev.wXop (d : Dev) (o : RouteOp) (h : Nat) (w : WheelX) : Option Xop :=
  d.xops.find? fun x => decide (x.wheel = some (o.cmd, h, w)) && decide (x.stage ≠ .draining)

/-- Every vector or row of an exchange has arrived, or its sum is known, and nothing holds it here. -/
def Xop.arrived (x : Xop) : Bool :=
  x.free && (match x.stage with
    | .plain => x.hopsIn
    | .value _ => x.vdone
    | _ => false)

/-- The exchange of a Wheel whose data has arrived. -/
def Dev.wDone (d : Dev) (o : RouteOp) (h : Nat) (w : WheelX) : Option Xop := (d.wXop o h w).filter (·.arrived)

/-- An exchange of a Wheel is over here; what it sent is still to be credited. -/
def Dev.wDrop (d : Dev) (o : RouteOp) (h : Nat) (w : WheelX) : Dev :=
  match d.wXop o h w with
  | some x => d.xEnd x false 0
  | none => d

/-- A list of bytes in whole blocks, padded with zero (R222). -/
def padBlocks (bs : List Byte) : List (List Byte) :=
  let n := (bs.length + 255) / 256
  blocksOf n (bs ++ List.replicate (256 * n - bs.length) 0)

/-- Number of rows that whole pieces of entries and rows hold, and where row `i` lies: block of its entry, first of its own (R228). -/
def rowAt (pb i : Nat) : Nat × Nat := (i / 16 * (1 + 16 * pb), i / 16 * (1 + 16 * pb) + 1 + i % 16 * pb)

/-- Entries and rows as blocks: sixteen entries to a block, ahead of their rows (R228). -/
def packRows : Nat → List (List Byte × List (List Byte)) → List (List Byte)
  | 0, _ => []
  | n + 1, l =>
    if l.isEmpty then []
    else padBlocks ((l.take 16).flatMap (·.1)) ++ (l.take 16).flatMap (·.2) ++ packRows n (l.drop 16)

/-- Entry and row `i` of the piece from a position, of rows of `pb` blocks, once they have arrived. -/
def Xop.rowIn (x : Xop) (s pb i : Nat) : Option (List Byte × List Byte) :=
  (x.pieceRun s (rowAt pb i).1 1).bind fun e => (x.pieceRun s (rowAt pb i).2 pb).map fun r => ((e.drop (16 * (i % 16))).take 16, r)

/-- Pitch of a returned row on the way: whole blocks of BF16 (R228). -/
def RouteD.retBlocks (q : RouteD) : Nat := roundUp (2 * q.dmodel) 256 / 256

/-! ### Priority -/

/-- Every row of a half's return has arrived and is combined (R231). -/
def Dev.allCombined (d : Dev) (o : RouteOp) (h : Nat) : Bool :=
  decide ((o.half h).done.length = (o.half h).ents.length) && (match d.wXop o h .ret with
    | some y => decide (y.stage = .plain) && y.hopsIn
    | none => false)

/-- A returned row of a half for a die has arrived and is not combined, or the half's rows are all combined (R231). -/
def Dev.combineRows (d : Dev) (o : RouteOp) (h n : Nat) : Bool :=
  let x := o.half h
  match d.wXop o h .ret with
  | none => false
  | some y =>
    decide (y.stage = .plain) &&
      (d.allCombined o h ||
        (x.ents.zip (List.range x.ents.length)).any fun e =>
          decide (e.1.pair.die = n) && !inSet x.done (o.firstEntOf h + e.2)
            && (y.rowIn e.1.pair.pos (routeD o.desc).retBlocks (e.2 - x.entsBefore e.1.pair.pos)).isSome)

/-- A combine and drain of a half waits for a die's Wheel (R249). -/
def Dev.combineDue (d : Dev) (o : RouteOp) (h n : Nat) : Bool :=
  !inSet (o.half h).begun n && !inSet (o.half h).back n && d.combineRows o h n

/-- A Wheel is free for an operation of a priority: nothing runs, it is neither parked nor out of use, and none of higher priority waits (R249). -/
def Dev.wheelTakes (d : Dev) (n prio : Nat) : Bool :=
  !d.wheelBusy n && !d.isParked (.wheel n) && !d.dieOut n && !(d.sortsOn n).any (fun j => decide (prio < j.prio))
    && !d.routes.any (fun o => decide (prio < o.prio) &&
      (d.halfDue o 0 n || d.halfDue o 1 n || d.combineDue o 0 n || d.combineDue o 1 n))

/-- A Wheel takes a row of a half to combine, or drains it: it runs that operation, or is free for it. -/
def Dev.combineTakes (d : Dev) (o : RouteOp) (h n : Nat) : Bool :=
  !d.isParked (.wheel n) && ((o.half h).combining n || d.wheelTakes n o.prio)

/-! ### Parking -/

/-- Phase of a half on its way to its dispatch (Table 8.12). -/
def RouteOp.phase (o : RouteOp) (h : Nat) : Nat :=
  let x := o.half h
  if (routeD o.desc).back then 9
  else match x.stage with
    | .ranking => 1
    | .statistic => 2
    | .tally => if x.round = 0 then 3 else 4
    | .grant => if !x.wrote.isEmpty then 5 else if x.round = 0 then 3 else 4
    | _ => 6

/-- Exchanges of an operation that a park at a phase holds up (R202): the return while combining and draining, the others while
routing. -/
def heldBy (phase : Nat) (w : WheelX) : Bool := if phase = 7 || phase = 8 then decide (w = .ret) else decide (w ≠ .ret)

/-- Keys of the exchanges of a half's routing that are still to be launched (R202). -/
def RouteOp.toCome (o : RouteOp) (h : Nat) : List Nat :=
  let q := routeD o.desc
  let x := o.half h
  let rounds := if q.policy = 1 then q.rounds else 0
  let from_ (n : Nat) : List Nat := (List.range (rounds + 1 - n)).map (n + ·)
  let both (n : Nat) : List Nat := (from_ n).flatMap fun r => [o.xkey h .tally r, o.xkey h .grant r]
  let sent := [o.xkey h .dispatch 0]
  if q.back then (if x.stage = .ranking then sent else [])
  else match x.stage with
    | .ranking => (if h = 0 && q.lskip != 0 then [o.xkey h .statistic 0] else []) ++ both 0 ++ sent
    | .statistic => both 0 ++ sent
    | .tally => o.xkey h .grant x.round :: both (x.round + 1) ++ sent
    | .grant => both (x.round + 1) ++ sent
    | _ => []

/-- Progress of a Wheel: token, entry, block or row (Table 8.12). -/
def Dev.progress (d : Dev) (n i : Nat) : Dev := d.wr (rWhlProgEntry n) (BitVec.ofNat 32 i)

/-- A Wheel parks (R248): counted, its phase recorded beside its progress, the exchanges of its operation held. -/
def Dev.wPark (d : Dev) (o : RouteOp) (h n phase : Nat) : Dev :=
  let d1 := d.bump (rWhlParks n) 1
  let d2 := ((d1.setFld (rWhlStatus n) 11 8 phase).setFld (rWhlStatus n) 4 4 h).setFld (rWhlStatus n) 3 3 (if (routeD o.desc).back then 1 else 0)
  let d3 := d2.xops.foldl (fun y x =>
    match x.wheel with
    | some (r, hh, w) => if r = o.cmd && hh = h && heldBy phase w && decide (x.stage ≠ .draining) then y.holdX x else y
    | none => y) d2
  if phase = 7 || phase = 8 then d3 else (o.toCome h).foldl (fun y k => y.holdEarly k o.grp n) d3

/-- The Wheel of the newest park. -/
def Dev.lastWheel (d : Dev) (n : Nat) : Nat :=
  match d.parks.getLast? with
  | some p => (match p.agent with
    | .wheel m => m
    | _ => n)
  | none => n

/-- Go on with an access of a Wheel, or park it; `p0` parks stood before. -/
def wDo {α : Type} (o : RouteOp) (h n phase p0 : Nat) (r : Dev × Option α) (k : α → Dev → Dev) : Dev :=
  match r with
  | (d, some a) => k a d
  | (d, none) => if p0 < d.parks.length then d.wPark o h (d.lastWheel n) phase else d

/-- Layer of the current operation (Table 8.12). -/
def Dev.wLayer (d : Dev) (o : RouteOp) (n : Nat) : Dev := d.wr (rWhlProgLayer n) (BitVec.ofNat 32 (routeD o.desc).layer)

/-- WHL_STATUS as read (Table 8.12). -/
def Dev.whlStatus (d : Dev) (n : Nat) : Word :=
  let s := (d.rd (rWhlStatus n)).toNat
  let bad := s / 4 % 2 * 4
  let ph (o : RouteOp) (h : Nat) (p : Nat) : Nat := p * 256 + h * 16 + (if (routeD o.desc).back then 8 else 0)
  if d.isParked (.wheel n) then BitVec.ofNat 32 (s / 8 % 512 * 8 + bad + 3)
  else
    let one (o : RouteOp) (h : Nat) : Option Nat :=
      let x := o.half h
      if x.routing n then some (ph o h (o.phase h))
      else if x.combining n then some (ph o h (if x.done.length = x.ents.length then 8 else 7))
      else none
    match d.routes.findSome? (fun o => (one o 0).orElse fun _ => one o 1) with
    | some v => BitVec.ofNat 32 (v + bad + 1)
    | none => BitVec.ofNat 32 (bad + (if (d.sortsOn n).any (·.run) then 10 * 256 + 1 else 0))

/-! ### Where things lie -/

/-- Length P of the directory (Table 8.4). -/
def RouteOp.dirLen (o : RouteOp) : Nat := roundUp (16 * o.n) 256

/-- Address of a send entry. -/
def RouteOp.entVa (o : RouteOp) (i : Nat) : Nat := o.q.lists + 256 + o.dirLen + 16 * i

/-- Address of the receive lists. -/
def RouteOp.recvVa (o : RouteOp) : Nat := o.q.lists + 256 + o.dirLen + 16 * (o.q.tokens * o.q.k)

/-- Address of a slot summary. -/
def RouteOp.sumVa (o : RouteOp) (h s : Nat) : Nat := o.recvVa + 16 * (o.l * o.q.cap) + (h * o.l + s) * 16

/-- Pitch of a BF16 row (OUT, and backward rows). -/
def RouteD.pout (q : RouteD) : Nat := roundUp (2 * q.dmodel) 256

/-- Pitch of a received row: PIN of R228, or R240's. -/
def RouteD.pin (q : RouteD) : Nat := if q.back then q.pout else roundUp (q.dmodel + q.dmodel / 32) 256

/-- Shelf offset of a token's part of the combine area (R238). -/
def RouteD.accOff (q : RouteD) (h i : Nat) : Nat := q.cmb + h * q.areaLen + i * (8 * q.dmodel)

/-- Shelf offset of a token's flag. -/
def RouteD.flagOff (q : RouteD) (h i : Nat) : Nat := q.cmb + h * q.areaLen + q.tokens / 16 * (8 * q.dmodel) + 4 * i

/-- Shelf offset of a token's anchor. -/
def RouteD.anchorOff (q : RouteD) (h i : Nat) : Nat := q.cmb + h * q.areaLen + q.tokens / 16 * (8 * q.dmodel + 4) + 2 * i

/-- Place of a token among its die's tokens of its half. -/
def RouteD.tokIx (q : RouteD) (t : Nat) : Nat := t % (q.tokens / 2) % (q.tokens / 16)

/-! ### Choosing experts -/

/-- Class of a score (R216). -/
def scoreCls (w : Nat) : Nat := if 0x7F800000 < mag32 w then 2 else if neg32 w && mag32 w == 0x7F800000 then 1 else 0

/-- A score as an ordered number; +0 and -0 are equal. -/
def scoreVal (w : Nat) : Int := if scoreCls w = 2 then 0 else if neg32 w then -(mag32 w : Int) else (mag32 w : Int)

/-- Key order of experts given as index and score (R216). -/
def keyLt (a b : Nat × Nat) : Bool :=
  decide (scoreCls a.2 < scoreCls b.2) || (scoreCls a.2 == scoreCls b.2 &&
    (decide (scoreVal b.2 < scoreVal a.2) || (scoreVal a.2 == scoreVal b.2 && decide (a.1 < b.1))))

/-- Experts in key order, with their scores. -/
def expertOrder (ws : List Nat) : List (Nat × Nat) := sortBy keyLt ((List.range ws.length).zip ws)

/-- Read the scores of a token, widened to FP32 (R216). -/
def Dev.scoreRow (n : Nat) (o : RouteOp) (t : Nat) (d : Dev) : Dev × Option (List Nat) :=
  let q := o.q
  let sz := if q.flags.testBit 1 then 4 else 2
  thenDo (Dev.vread (.wheel n) o.stream (q.scores + t * roundUp (q.nexp * sz) 256) (q.nexp * sz) d) fun bs d1 =>
    (d1, some (srcWords (if sz = 4 then 1 else 2) bs [] q.nexp))

/-- Read the expert table. -/
def Dev.expTable (n : Nat) (o : RouteOp) (d : Dev) : Dev × Option (List Nat) :=
  thenDo (Dev.vread (.wheel n) o.stream o.q.table (4 * o.q.nexp) d) fun bs d1 => (d1, some ((chunks 4 o.q.nexp bs).map leNat))

/-- Holder of an expert as group position and slot, if its entry is routed (R215). -/
def holder (g : Grp) (tbl : List Nat) (e : Nat) : Option (Nat × Nat) :=
  let v := nth 0 tbl e
  if 2 ^ 26 ≤ v then none
  else (findFrom (fun p => g.node p == v % 2 ^ 14) g.n 0).map fun p => (p, v / 2 ^ 14 % 4096)

/-- Slots of each group position (R215): one past the highest that the table names. -/
def slotCounts (g : Grp) (tbl : List Nat) : List Nat :=
  (List.range tbl.length).foldl (fun a e =>
    match holder g tbl e with
    | some (p, s) => setNth a p (max (nth 0 a p) (s + 1))
    | none => a) (List.replicate g.n 0)

/-- What ranking some tokens gives: pairs, experts asked, counts, the layer statistic. -/
structure RankOut where
  pairs  : List Pair := []
  taken  : List (Nat × Nat) := []
  nonfin : Nat := 0
  bad    : Nat := 0
  skips  : Nat := 0
  ties   : Nat := 0
  stat   : Int := 0
deriving DecidableEq, Repr

/-- Take one choice (R215, R218, R219). -/
def RankOut.take (r : RankOut) (g : Grp) (tbl : List Nat) (n t rank : Nat) (c : Nat × Nat) : RankOut :=
  let cls := scoreCls c.2
  let r1 := { r with taken := r.taken ++ [(t, c.1)], nonfin := r.nonfin + (if cls = 0 then 0 else 1) }
  match holder g tbl c.1 with
  | none => { r1 with bad := r1.bad + 1 }
  | some (p, s) => if cls = 0 then { r1 with pairs := r1.pairs ++ [⟨n, t, rank, p, s, BitVec.ofNat 32 c.2⟩] } else r1

/-- Two neighbours in key order tie (R220); NaN has no equal score. -/
def tied (a b : Nat × Nat) : Bool := scoreCls a.2 != 2 && scoreCls a.2 == scoreCls b.2 && scoreVal a.2 == scoreVal b.2

/-- Rank one token from its scores (R216 to R220, R243). -/
def RankOut.token (r : RankOut) (o : RouteOp) (tbl : List Nat) (n t : Nat) (ws : List Nat) : RankOut :=
  let ord := expertOrder ws
  let k := o.q.k
  let r1 := (List.range k).foldl (fun a i => a.take o.grp tbl n t i (nth (0, 0) ord i)) r
  let tie := decide (k < ord.length) && tied (nth (0, 0) ord (k - 1)) (nth (0, 0) ord k)
  let hot := o.q.lskip == 2 && (match fcmp fmt32 false (nth (0, 0) ord 0).2 o.q.lscore with
    | some c => decide (0 ≤ c)
    | none => false)
  { r1 with ties := r1.ties + (if tie then 1 else 0), stat := r1.stat + (if hot then 1 else 0) }

/-- The skip bit of a token (R221). -/
def Dev.skipBit (n : Nat) (o : RouteOp) (t : Nat) (d : Dev) : Dev × Option Bool :=
  if o.q.flags.testBit 2 then
    thenDo (Dev.vread (.wheel n) o.stream (o.q.skip + t / 8) 1 d) fun bs d1 => (d1, some (decide (leNat bs / 2 ^ (t % 8) % 2 = 1)))
  else (d, some false)

/-- Rank tokens in increasing index (R217). -/
def Dev.rankToks (n : Nat) (o : RouteOp) (tbl : List Nat) : List Nat → RankOut → Dev → Dev × Option RankOut
  | [], r, d => (d, some r)
  | t :: ts, r, d =>
    thenDo (Dev.skipBit n o t (d.progress n t)) fun sk d1 =>
      if sk then
        Dev.rankToks n o tbl ts { r with skips := r.skips + 1, stat := r.stat + (if o.q.lskip = 1 then 1 else 0) } d1
      else
        thenDo (Dev.scoreRow n o t d1) fun ws d2 => Dev.rankToks n o tbl ts (r.token o tbl n t ws) d2

/-- Descriptor and expert table are read before a half starts; the descriptor is read again only to park (R424). -/
def Dev.halfReads (n : Nat) (o : RouteOp) (d : Dev) : Dev × Option (List Nat) :=
  let va := match d.cmd? o.cmd with
    | some c =>
      match c.op with
      | .route v _ _ _ => v.toNat
      | _ => 0
    | none => 0
  thenDo (Dev.vread (.wheel n) o.stream va 256 d) fun _ d1 => if o.q.back then (d1, some []) else Dev.expTable n o d1

/-- All eight Wheels have ranked a half: the layer statistic, or the tally, goes out (R222, R244). -/
def Dev.ranked (d : Dev) (o : RouteOp) (h : Nat) : Dev :=
  let x := o.half h
  if x.dies.length < 8 then d.setRoute o
  else if h = 0 && o.q.lskip ≠ 0 then (d.setRoute (o.setHalf h { x with stage := .statistic })).wLaunch o h .statistic
  else (d.setRoute (o.setHalf h { x with stage := .tally, room := o.slots.map fun s => List.replicate s o.q.cap })).wLaunch o h .tally

/-- A Wheel ranks its tokens of a half (R230). -/
def Dev.rankHalf (d : Dev) (o : RouteOp) (h n : Nat) : Dev :=
  let tk := o.q.toks h n
  wDo o h n 1 d.parks.length
    (thenDo (Dev.halfReads n o (d.progress n tk.1)) fun tbl d1 =>
      thenDo (Dev.rankToks n o tbl ((List.range tk.2).map (tk.1 + ·)) {} d1) fun r d2 => (d2, some (tbl, r)))
    fun p y =>
      let r := p.2
      let x := o.half h
      let y1 := (((y.bump (rWhlTokenSkips n) r.skips).bump (rWhlTies n) r.ties).bump (rWhlChoiceNonfin n) r.nonfin).bump (rWhlBadTable n) r.bad
      let y2 := if r.bad = 0 then y1 else y1.setFld (rWhlStatus n) 2 2 1
      (y2.wLayer o n).ranked ({ o with slots := slotCounts o.grp p.1 }.setHalf h
        { x with dies := x.dies ++ [n], pairs := x.pairs ++ r.pairs, taken := x.taken ++ r.taken, stat := x.stat + r.stat }) h

/-! ### Lists -/

/-- Bytes of a send entry (Table 8.5). -/
def SendEnt.bytes (e : SendEnt) : List Byte :=
  toLe 4 (e.pair.tok % 2 ^ 24 + e.pair.rank % 8 * 2 ^ 24 + (if e.spilled then 2 ^ 27 else 0) + (if e.bulged then 2 ^ 28 else 0))
    ++ toLe 4 (e.pair.slot % 4096) ++ toLe 4 e.pair.gate.toNat ++ toLe 4 e.row

/-- The send entry that 16 bytes hold. -/
def sendEntOf (q : RouteD) (pos : Nat) (b : List Byte) : SendEnt :=
  let t := field b 0 4
  { pair := ⟨q.dieOfTok (t % 2 ^ 24), t % 2 ^ 24, t / 2 ^ 24 % 8, pos, field b 4 2 % 4096, BitVec.ofNat 32 (field b 8 4)⟩
    spilled := t.testBit 27, bulged := t.testBit 28, row := field b 12 4 }

/-- The header block (Table 8.4). -/
def Dev.headBytes (d : Dev) (o : RouteOp) (skipped : Bool) : List Byte :=
  let q := o.q
  toLe 8 q.layer ++ toLe 8 q.mbtag ++ toLe 8 (d.rd64 rUpdStepLo) ++ toLe 4 (if skipped then 1 else 0) ++ toLe 4 o.n ++ toLe 4 o.l
    ++ toLe 2 q.cap ++ toLe 2 q.k ++ toLe 4 q.blimit ++ List.replicate 212 0

/-- Write numbered records by a Wheel, which shows the number of each as its progress: number, address, bytes. -/
def Dev.wWrites (n stream : Nat) : List (Nat × Nat × List Byte) → Dev → Dev × Option Unit
  | [], d => (d, some ())
  | w :: ws, d => thenDo (Dev.vwrite (.wheel n) stream w.2.1 w.2.2 (d.progress n w.1)) fun _ d1 => Dev.wWrites n stream ws d1

/-- A Wheel has done its part of a half's writes. -/
def Dev.wroteBy (d : Dev) (cmd h n : Nat) : Dev :=
  { d with routes := d.routes.map fun x =>
      if x.cmd = cmd then x.setHalf h { x.half h with wrote := setIns (x.half h).wrote n } else x }

/-- Each Wheel of some dies does its part of a half's writes; one that faults parks, and the others go on (R194). -/
def Dev.eachWheel (o : RouteOp) (h phase : Nat) (f : Nat → Dev → Dev × Option Unit) : List Nat → Dev → Dev
  | [], d => d
  | n :: ns, d =>
    if !d.alive || d.isParked (.wheel n) then Dev.eachWheel o h phase f ns d
    else
      match f n d with
      | (d1, some _) => Dev.eachWheel o h phase f ns (d1.wroteBy o.cmd h n)
      | (d1, none) => Dev.eachWheel o h phase f ns (if d.parks.length < d1.parks.length then d1.wPark o h n phase else d1)

/-- Let the Wheels that have not yet done so do their part of a half's writes, and go on when all have. -/
def Dev.allWheels (d : Dev) (o : RouteOp) (h phase : Nat) (f : Nat → Dev → Dev × Option Unit) (k : RouteOp → Dev → Dev) : Dev :=
  let d1 := Dev.eachWheel o h phase f ((List.range 8).filter fun n => !inSet (o.half h).wrote n) d
  match d1.route? o.cmd with
  | some o1 => if (List.range 8).all fun n => inSet (o1.half h).wrote n then k o1 d1 else d1
  | none => d1

/-- Slot summaries of a half (Table 8.4). -/
def RouteOp.summaries (o : RouteOp) (h : Nat) (used : List (Nat × Nat × Nat)) : List (Nat × Nat × List Byte) :=
  (List.range o.l).map fun s =>
    let u := nth (0, 0, 0) used s
    (s, o.sumVa h s, toLe 4 u.1 ++ toLe 4 u.2.1 ++ toLe 4 u.2.2 ++ toLe 4 0)

/-- The part of a half's lists that a die's Wheel writes: its send entries; the Wheel of C-die 0 the directory records, summaries and header too. -/
def RouteOp.listWrites (o : RouteOp) (h n : Nat) (ents : List SendEnt) (head : List Byte) : List (Nat × Nat × List Byte) :=
  let f := o.firstEntOf h
  let cnt (g : Nat) : Nat := (ents.filter fun e => e.pair.pos == g).length
  let before (g : Nat) : Nat := (ents.filter fun e => decide (e.pair.pos < g)).length
  (((ents.zip (List.range ents.length)).filter fun p => p.1.pair.die == n).map fun p => (f + p.2, o.entVa (f + p.2), p.1.bytes))
    ++ (if n = 0 then
        ((List.range o.n).map fun g => (g, o.q.lists + 256 + 16 * g + 8 * h, toLe 4 (f + before g) ++ toLe 4 (cnt g)))
          ++ o.summaries h (o.half h).used ++ [(0, o.q.lists, head)]
       else [])

/-- Order of send entries (Table 8.4): group position, token, rank. -/
def entLt (a b : SendEnt) : Bool :=
  decide (a.pair.pos < b.pair.pos) || (a.pair.pos == b.pair.pos && decide (8 * a.pair.tok + a.pair.rank < 8 * b.pair.tok + b.pair.rank))

/-- Add to the COUNTS entries of this device's slots, saturating (R226). -/
def Dev.addCounts (o : RouteOp) (used : List (Nat × Nat × Nat)) (d : Dev) : Dev × Option Unit :=
  if o.l = 0 then (d, some ())
  else
    thenDo (Dev.vread (.wheel 0) o.stream o.q.counts (4 * o.l) (d.progress 0 0)) fun bs d1 =>
      let vs := (List.range o.l).flatMap fun s =>
        let u := nth (0, 0, 0) used s
        toLe 4 (satAdd (BitVec.ofNat 32 (field bs (4 * s) 4)) (u.1 + u.2.2)).toNat
      Dev.vwrite (.wheel 0) o.stream o.q.counts vs d1

/-- Anchor of a row from the exponents of its scale blocks (R51, R234, R242). -/
def anchorOf (es : List Nat) : Int := (maxExp es : Int) - 127 + 8

/-- Read the anchors of tokens from their rows (R234, R242). -/
def Dev.anchors (o : RouteOp) : List Nat → Dev → Dev × Option (List (Nat × Int))
  | [], d => (d, some [])
  | t :: ts, d =>
    let q := o.q
    let ag := Agent.wheel (q.dieOfTok t)
    let e := d.progress (q.dieOfTok t) t
    let row := if q.back then
        thenDo (Dev.vread ag o.stream (q.xin + t * q.pout) (2 * q.dmodel) e) fun bs d1 => (d1, some (srcExps 2 [] (srcWords 2 bs [] q.dmodel)))
      else
        thenDo (Dev.vread ag o.stream (q.xexp + t * (q.dmodel / 32)) (q.dmodel / 32) e) fun bs d1 => (d1, some (bs.map (·.toNat)))
    thenDo row fun es d1 => thenDo (Dev.anchors o ts d1) fun l d2 => (d2, some ((t, anchorOf es) :: l))

/-- Store anchors in the combine areas. -/
def Dev.putAnchors (d : Dev) (q : RouteD) (h : Nat) (l : List (Nat × Int)) : Dev :=
  l.foldl (fun y p => y.takeCode.2.writePart (shelfPa (q.dieOfTok p.1) (q.anchorOff h (q.tokIx p.1))) (toLe 2 (uBits 16 p.2)) y.takeCode.1) d

/-- Tokens that have entries. -/
def tokensOf (ents : List SendEnt) : List Nat := ents.foldl (fun a e => setIns a e.pair.tok) []

/-- Rows that this device's slots receive in a half. -/
def Half.want (x : Half) : Nat := x.used.foldl (fun a u => a + u.1 + u.2.2) 0

/-- Every row of a half for this device's slots is in place (R229, R230). -/
def Dev.rowsDone (d : Dev) (o : RouteOp) (h : Nat) : Dev :=
  let x := o.half h
  if decide (x.stage = .sent) && !x.rows && decide (x.want ≤ x.got.length) then
    ((d.setRoute (o.setHalf h { x with rows := true })).wDrop o h .dispatch).signal (o.q.sync + h)
  else d.setRoute o

/-- A half's dispatch goes to the exchange engine (R230). -/
def Dev.dispatch (d : Dev) (o : RouteOp) (h : Nat) : Dev :=
  let o1 := o.setHalf h { o.half h with stage := .launch, pairs := [], wrote := [] }
  (d.setRoute o1).wLaunch o1 h .dispatch

/-! ### Tallies and grants -/

/-- The 16 bytes of a grant entry (Table 8.2). -/
def grantBytes (g : Grant) : List Byte :=
  toLe 2 g.grant ++ toLe 2 g.base ++ toLe 4 g.bgrant ++ toLe 4 g.bbase ++ toLe 2 g.room ++ toLe 2 0

/-- The grant entry that 16 bytes hold. -/
def grantOf (b : List Byte) : Grant := ⟨field b 0 2, field b 2 2, field b 4 4, field b 8 4, field b 12 2⟩

/-- Grants of one slot within its room, in group order from `start` (R223): position, base, rows. -/
def grantSlot (cap room0 : Nat) (order : List Nat) (req : Nat → Nat) : List (Nat × Nat × Nat) × Nat :=
  order.foldl (fun a q =>
    let g := min (req q) a.2
    (a.1 ++ [(q, cap - a.2, g)], a.2 - g)) ([], room0)

/-- Bulge grants of one slot (R223). -/
def bulgeSlot (blimit left0 : Nat) (order : List Nat) (req : Nat → Nat) (caps : List (Nat × Nat × Nat)) : List (Nat × Nat × Nat) × Nat :=
  order.foldl (fun a q =>
    let g := match caps.find? fun c => c.1 == q with
      | some c => c.2.2
      | none => 0
    let b := min (req q - g) a.2
    (a.1 ++ [(q, blimit - a.2, b)], a.2 - b)) ([], left0)

/-- The entry of a position. -/
def partOf (l : List (Nat × Nat × Nat)) (q : Nat) : Nat × Nat :=
  match l.find? fun c => c.1 == q with
  | some c => c.2
  | none => (0, 0)

/-- Group order of a round (R223). -/
def Dev.grantOrder (d : Dev) (o : RouteOp) : List Nat :=
  let start := if o.q.flags.testBit 3 then d.rd64 rUpdStepLo % o.grp.n else 0
  (List.range o.grp.n).map fun i => (start + i) % o.grp.n

/-- This device's grants for its own slots (R223): its grant vector for each member, and what stands granted in each slot. -/
def ownGrants (q : RouteD) (members round : Nat) (order room : List Nat) (used : List (Nat × Nat × Nat)) (req : Nat → Nat → Nat) :
    List (List Grant) × List (Nat × Nat × Nat) :=
  let caps := (List.range room.length).map fun s => grantSlot q.cap (nth 0 room s) order (fun p => req p s)
  let blimit := if q.policy = 2 && round = 0 then q.blimit else 0
  let bul := (List.range room.length).foldl (fun (a : List (List (Nat × Nat × Nat) × Nat × Nat) × Nat) s =>
    let b := bulgeSlot blimit a.2 order (fun p => req p s) (nth ([], 0) caps s).1
    (a.1 ++ [(b.1, blimit - a.2, a.2 - b.2)], b.2)) ([], blimit)
  let give (p s : Nat) : Grant :=
    let c := nth ([], 0) caps s
    let g := partOf c.1 p
    let bg := partOf (nth ([], 0, 0) bul.1 s).1 p
    ⟨g.2, g.1, bg.2, bg.1, c.2⟩
  let one (s : Nat) : Nat × Nat × Nat :=
    let b := nth ([], 0, 0) bul.1 s
    (q.cap - (nth ([], 0) caps s).2, if round = 0 then b.2.1 else (nth (0, 0, 0) used s).2.1,
      if round = 0 then b.2.2 else (nth (0, 0, 0) used s).2.2)
  ((List.range members).map fun p => (List.range room.length).map (give p), (List.range room.length).map one)

/-- Requests of this device for a slot. -/
def Half.req (x : Half) (p s : Nat) : Nat := (x.pairs.filter fun y => y.pos == p && y.slot == s).length

/-- The tally vector for a member (R222): one 32-bit count for each of its slots. -/
def RouteOp.tallyTo (o : RouteOp) (h p : Nat) : List Byte := (List.range (nth 0 o.slots p)).flatMap fun s => toLe 4 ((o.half h).req p s)

/-- The vector of `n` bytes from a member, as it arrived (R222). -/
def Xop.vector (x : Xop) (p n : Nat) : List Byte := (x.pieceRun p 0 ((n + 255) / 256)).getD []

/-- TALLY_COMPLETE (R223): every member's tally vector has arrived. -/
def execTallyComplete (r half : Nat) (us : List Upset) (s : State) : Host.Outcome State Fault Refusal :=
  s.runIfC us (decide (half < 2)) fun d =>
    match d.route? r with
    | none => d
    | some o =>
      let x := o.half half
      match (if x.stage = .tally then d.wDone o half .tally else none) with
      | none => d
      | some y =>
        let f (p s : Nat) : Nat := field (y.vector p (4 * o.l)) (4 * s) 4
        let g := ownGrants o.q o.grp.n x.round (d.grantOrder o) (nth [] x.room o.grp.self) x.used f
        let o1 := o.setHalf half { x with stage := .grant, mine := g.1, used := g.2 }
        ((d.wDrop o half .tally).setRoute o1).wLaunch o1 half .grant

/-- Order of pairs (R217). -/
def pairLt (a b : Pair) : Bool := decide (8 * a.tok + a.rank < 8 * b.tok + b.rank)

/-- Divide the grant of one slot among the pairs that chose it (R224): entries, and the pairs left over. -/
def divide (g : Grant) (spilled : Bool) (ps : List Pair) : List SendEnt × List Pair :=
  let a := (ps.take g.grant).zip (List.range g.grant)
  let b := ((ps.drop g.grant).take g.bgrant).zip (List.range g.bgrant)
  (a.map (fun p => ⟨p.1, spilled, false, g.base + p.2⟩) ++ b.map (fun p => ⟨p.1, spilled, true, g.bbase + p.2⟩),
    ps.drop (g.grant + g.bgrant))

/-- Divide every grant. -/
def divideAll (x : Half) (slots : List Nat) (grants : List (List Grant)) : List SendEnt × List Pair :=
  let ps := sortBy pairLt x.pairs
  let r := (List.range slots.length).flatMap fun p => (List.range (nth 0 slots p)).map fun s =>
    divide (nth ⟨0, 0, 0, 0, 0⟩ (nth [] grants p) s) (decide (x.round ≠ 0)) (ps.filter fun y => y.pos == p && y.slot == s)
  (r.flatMap (·.1), sortBy pairLt (r.flatMap (·.2)))

/-- Candidates of a spill round (R225) for unresolved pairs in order: the pairs that have one, the experts asked, the pairs dropped. -/
def Dev.candidates (o : RouteOp) (room : List (List Nat)) :
    List Pair → List (Nat × Nat) → Dev → Dev × Option (List Pair × List (Nat × Nat) × List Pair)
  | [], tk, d => (d, some ([], tk, []))
  | y :: ys, tk, d =>
    thenDo (Dev.expTable y.die o (d.progress y.die y.tok)) fun tbl d1 =>
      thenDo (Dev.scoreRow y.die o y.tok d1) fun ws d2 =>
        let roomOf (e : Nat) : Nat := match holder o.grp tbl e with
          | some (p, s) => nth 0 (nth [] room p) s
          | none => 0
        match (expertOrder ws).find? fun c =>
          scoreCls c.2 == 0 && decide (0 < roomOf c.1) && !tk.any (fun z => z == (y.tok, c.1)) with
        | none => thenDo (Dev.candidates o room ys tk d2) fun r d3 => (d3, some (r.1, r.2.1, y :: r.2.2))
        | some c =>
          let h := (holder o.grp tbl c.1).getD (0, 0)
          thenDo (Dev.candidates o room ys (tk ++ [(y.tok, c.1)]) d2) fun r d3 =>
            (d3, some ({ y with pos := h.1, slot := h.2, gate := BitVec.ofNat 32 c.2 } :: r.1, r.2.1, r.2.2))

/-- Count pairs at the Wheels that asked for them. -/
def Dev.countPairs (d : Dev) (reg : Nat → Nat) (ps : List Pair) : Dev := ps.foldl (fun y p => y.bump (reg p.die) 1) d

/-- A die's part of the lists of a half (R227, R234): the anchors of its tokens, then its entries. -/
def Dev.listPart (o : RouteOp) (h : Nat) (es : List SendEnt) (n : Nat) (d : Dev) : Dev × Option Unit :=
  thenDo (Dev.anchors o ((tokensOf es).filter fun t => o.q.dieOfTok t == n) d) fun an d1 =>
    thenDo (Dev.wWrites n o.stream (o.listWrites h n es (d1.headBytes o false)) d1) fun _ d2 => (d2.putAnchors o.q h an, some ())

/-- Every round of a half is over (R224, R226, R227, R234): lists, COUNTS, anchors, counters, and the dispatch. -/
def Dev.writeLists (d : Dev) (o : RouteOp) (h : Nat) (ents : List SendEnt) (dropped : List Pair) : Dev :=
  let es := sortBy entLt ents
  d.allWheels o h 5 (Dev.listPart o h es) fun o1 y0 =>
    wDo o1 h 0 5 y0.parks.length (Dev.addCounts o1 (o1.half h).used y0) fun _ y =>
      let y1 := (((y.countPairs rWhlPairs (es.map (·.pair))).countPairs rWhlSpills ((es.filter (·.spilled)).map (·.pair))).countPairs
        rWhlBulged ((es.filter (·.bulged)).map (·.pair))).countPairs rWhlDrops dropped
      (y1.wDrop o1 h .grant).dispatch (o1.setHalf h { o1.half h with ents := es }) h

/-- GRANT_COMPLETE (R224, R225): every member's grant vector has arrived. -/
def execGrantComplete (r half : Nat) (us : List Upset) (s : State) : Host.Outcome State Fault Refusal :=
  s.runIfC us (decide (half < 2)) fun d =>
    match d.route? r with
    | none => d
    | some o =>
      let x := o.half half
      match (if x.stage = .grant then d.wXop o half .grant else none) with
      | none => d
      | some y =>
        if !(decide (y.stage = .plain) && y.hopsIn) || d.isParked (.wheel 0) then d
        else
          let gs := (List.range o.grp.n).map fun p => (chunks 16 (nth 0 o.slots p) (y.vector p (16 * nth 0 o.slots p))).map grantOf
          let v := divideAll x o.slots gs
          let room := gs.map fun l => l.map (·.room)
          if o.q.policy = 1 && decide (x.round < o.q.rounds) then
            (if !y.free then d
             else wDo o half 0 4 d.parks.length (Dev.candidates o room v.2 x.taken d) fun c y =>
              let o1 := o.setHalf half { x with
                stage := .tally, round := x.round + 1, room := room, ents := x.ents ++ v.1, pairs := c.1, taken := c.2.1 }
              (((y.wDrop o half .grant).countPairs rWhlDrops c.2.2).setRoute o1).wLaunch o1 half .tally)
          else
            d.writeLists o half (x.ents ++ v.1) v.2

/-! ### Layer skipping -/

/-- Zero bytes over the OUT rows of a die's tokens, by token. -/
def zeroRows (q : RouteD) (h n : Nat) : List (Nat × Nat × List Byte) :=
  let tk := q.toks h n
  (List.range tk.2).map fun i => (tk.1 + i, q.out + (tk.1 + i) * q.pout, List.replicate (2 * q.dmodel) 0)

/-- A ROUTE is over for its command: both combined halves are written to OUT. -/
def Dev.routeGone (d : Dev) (o : RouteOp) : Dev :=
  let all (x : Half) : Bool := x.ret && x.rows && decide (8 ≤ x.back.length)
  if all o.a && all o.b then { d with routes := d.routes.filter fun z => z.cmd != o.cmd }.dropWaiters (waitsRoute o.cmd) else d

/-- A skipped layer ends (R245): the four objects, and the command. -/
def Dev.skipEnd (d : Dev) (o : RouteOp) : Dev :=
  let s := o.q.sync
  ({ ((((d.signal s).signal (s + 1)).signal (s + 2)).signal (s + 3)) with
    routes := d.routes.filter fun z => z.cmd != o.cmd }.dropWaiters (waitsRoute o.cmd)).finishId o.cmd 0 0

/-- LAYER_SKIP_DECISION (R244, R245): the sum of every member's statistic is known. -/
def execLayerSkipDecision (r : Nat) (us : List Upset) (s : State) : Host.Outcome State Fault Refusal :=
  s.runC us fun d =>
    match d.route? r with
    | none => d
    | some o =>
      match (if o.a.stage = .statistic then d.wXop o 0 .statistic else none) with
      | none => d
      | some x =>
        if !x.vdone then d
        else if o.q.lthresh ≤ sInt 64 x.val then
          d.allWheels o 0 2 (fun n => Dev.wWrites n o.stream (zeroRows o.q 0 n ++ zeroRows o.q 1 n
              ++ (if n = 0 then o.summaries 0 [] ++ o.summaries 1 [] ++ [(0, o.q.lists, d.headBytes o true)] else []))) fun o1 y =>
            (iter 8 (fun n z => z.bump (rWhlLayerSkips n) 1) (y.wDrop o1 0 .statistic)).skipEnd o1
        else if !x.free then d
        else
          let o1 := o.setHalf 0 { o.a with stage := .tally, room := o.slots.map fun n => List.replicate n o.q.cap }
          ((d.wDrop o 0 .statistic).setRoute o1).wLaunch o1 0 .tally

/-! ### Backward -/

/-- Read the forward send entries of a half, position by position (Table 8.4). -/
def Dev.fwdEnts (o : RouteOp) (h n : Nat) : List Nat → Dev → Dev × Option (List SendEnt)
  | [], d => (d, some [])
  | g :: gs, d =>
    thenDo (Dev.vread (.wheel n) o.stream (o.q.lists + 256 + 16 * g + 8 * h) 8 (d.progress n g)) fun b d1 =>
      let cnt := field b 4 4
      thenDo (Dev.vread (.wheel n) o.stream (o.entVa (field b 0 4)) (16 * cnt) (d1.progress n (field b 0 4))) fun es d2 =>
        thenDo (Dev.fwdEnts o h n gs d2) fun l d3 => (d3, some ((chunks 16 cnt es).map (sendEntOf o.q g) ++ l))

/-- Rows granted in this device's slots, from the forward slot summaries. -/
def Dev.fwdUsed (o : RouteOp) (h n : Nat) (d : Dev) : Dev × Option (List (Nat × Nat × Nat)) :=
  thenDo (Dev.vread (.wheel n) o.stream (o.sumVa h 0) (16 * o.l) (d.progress n 0)) fun b d1 =>
    (d1, some ((List.range o.l).map fun s => (field b (16 * s) 4, field b (16 * s + 4) 4, field b (16 * s + 8) 4)))

/-- Gate gradients that no entry of a half routes (R242), by token. -/
def unrouted (q : RouteD) (h n : Nat) (ents : List SendEnt) : List (Nat × Nat × List Byte) :=
  let tk := q.toks h n
  (List.range tk.2).flatMap fun i =>
    let t := tk.1 + i
    let ranks := (ents.filter fun e => e.pair.tok == t).map (·.pair.rank)
    ((List.range q.k).filter fun k => !inSet ranks k).map fun k => (t, q.ggrad + 4 * (t * q.k + k), toLe 4 0)

/-- A Wheel's part of a backward ROUTE's half (R240, R242, R245). -/
def Dev.backHalf (d : Dev) (o : RouteOp) (h n : Nat) : Dev :=
  let q := o.q
  let x := o.half h
  let d0 := d.progress n (q.toks h n).1
  if field o.head 24 1 % 2 = 1 then
    wDo o h n 9 d.parks.length
      (thenDo (Dev.halfReads n o d0) fun _ d1 =>
        Dev.wWrites n o.stream (zeroRows q 0 n ++ zeroRows q 1 n ++ unrouted q 0 n [] ++ unrouted q 1 n []) d1)
      fun _ y =>
        let o1 := o.setHalf h { x with dies := x.dies ++ [n] }
        if x.dies.length + 1 < 8 then y.setRoute o1 else y.skipEnd o1
  else
    wDo o h n 9 d.parks.length
      (thenDo (Dev.halfReads n o d0) fun _ d1 =>
        thenDo (Dev.fwdEnts o h n (List.range o.n) d1) fun es d2 =>
          thenDo (Dev.anchors o ((tokensOf es).filter fun t => q.dieOfTok t == n) d2) fun an d3 =>
            thenDo (Dev.wWrites n o.stream (unrouted q h n es) d3) fun _ d4 =>
              thenDo (Dev.fwdUsed o h n d4) fun u d5 => (d5, some (es, an, u)))
      fun p y =>
        let o1 := o.setHalf h { x with dies := x.dies ++ [n], ents := p.1, used := p.2.2 }
        let y1 := (y.putAnchors q h p.2.1).wLayer o n
        if x.dies.length + 1 < 8 then y1.setRoute o1 else y1.dispatch o1 h

/-- WHEEL_HALF_START (R230, R240); again after a park of the half's routing on this die. -/
def execWheelHalfStart (r n half : Nat) (us : List Upset) (s : State) : Host.Outcome State Fault Refusal :=
  s.runIfC us (dieOk n && decide (half < 2)) fun d =>
    match d.route? r with
    | none => d
    | some o =>
      let x := o.half half
      let again := decide (x.stage = .ranking) && inSet x.starts n && !inSet x.dies n && !d.isParked (.wheel n)
      if !again && (!d.halfDue o half n || !d.wheelTakes n o.prio) then d
      else
        let o1 := o.setHalf half { x with starts := setIns x.starts n }
        if o.q.back then (d.setRoute o1).backHalf o1 half n else (d.setRoute o1).rankHalf o1 half n

/-! ### Payload -/

/-- The first hop of a piece for a position: the hop peer of the lowest level in which the positions differ (R287). -/
def Grp.firstHop (g : Grp) (p : Nat) : Nat :=
  match (List.range g.levels).find? fun i => g.digit p i != g.digit g.self i with
  | some i => g.self - g.digit g.self i * g.stride i + g.digit p i * g.stride i
  | none => g.self

/-- The half that reads the blocks of a piece (R534). -/
def Dev.pieceAg (d : Dev) (x : Xop) (p : Nat) : Agent :=
  .xsend (if p = x.grp.self then d.xHome x else d.sendHalf (x.grp.node (x.grp.firstHop p)))

/-- Bytes of a list made a multiple of 256. -/
def padTo (n : Nat) (bs : List Byte) : List Byte := (bs ++ List.replicate n 0).take n

/-- The row that a send entry takes to its holder (R228, R240): elements, then exponents, at pitch PIN; or the BF16 gradient row. -/
def Dev.outRow (ag : Agent) (o : RouteOp) (e : SendEnt) (d : Dev) : Dev × Option (List (List Byte)) :=
  let q := o.q
  let t := e.pair.tok
  if q.back then
    thenDo (Dev.vread ag o.stream (q.xin + t * q.pout) (2 * q.dmodel) d) fun bs d1 => (d1, some (blocksOf (q.pin / 256) (padTo q.pin bs)))
  else
    thenDo (Dev.vread ag o.stream (q.xin + t * q.dmodel) q.dmodel d) fun el d1 =>
      thenDo (Dev.vread ag o.stream (q.xexp + t * (q.dmodel / 32)) (q.dmodel / 32) d1) fun ex d2 =>
        (d2, some (blocksOf (q.pin / 256) (padTo q.pin (el ++ ex))))

/-- Pitch of a record of RET (R228, R241). -/
def RouteD.pret (q : RouteD) : Nat := if q.back then roundUp (2 * q.dmodel + 4) 256 else q.pout

/-- The record of RET that answers a received row (R228): the capacity rows of both halves, then the bulge rows. -/
def RouteOp.retVa (o : RouteOp) (h : Nat) (r : RowIn) : Nat :=
  let q := o.q
  q.ret + q.pret * (if r.bulged then 2 * o.l * q.cap + h * q.blimit + r.row else (h * o.l + r.slot) * q.cap + r.row)

/-- The tag of a returned row (R241): the index of its send entry at the source, and p of a backward pass. -/
def retTag (idx p : Nat) : List Byte := toLe 4 idx ++ toLe 4 p ++ toLe 8 0

/-- The row that goes back to its source, with its tag (R228, R241). -/
def Dev.backRow (ag : Agent) (o : RouteOp) (h : Nat) (r : RowIn) (d : Dev) : Dev × Option (List Byte × List (List Byte)) :=
  let q := o.q
  let n := 2 * q.dmodel + (if q.back then 4 else 0)
  thenDo (Dev.vread ag o.stream (o.retVa h r) n d) fun bs d1 =>
    (d1, some (retTag r.idx (if q.back then field bs (2 * q.dmodel) 4 else 0), blocksOf q.retBlocks (padTo (256 * q.retBlocks) (bs.take (2 * q.dmodel)))))

/-- Read rows one after another. -/
def Dev.rowsOf {α β : Type} (f : α → Dev → Dev × Option β) : List α → Dev → Dev × Option (List β)
  | [], d => (d, some [])
  | a :: l, d => thenDo (f a d) fun b d1 => thenDo (Dev.rowsOf f l d1) fun bs d2 => (d2, some (b :: bs))

/-- The blocks that a Wheel's all-to-all takes to a member (R222, R228, R241). -/
def Dev.pieceTo (o : RouteOp) (h : Nat) (w : WheelX) (x : Xop) (p : Nat) (d : Dev) : Dev × Option (List (List Byte)) :=
  let y := o.half h
  match w with
  | .tally => (d, some (padBlocks (o.tallyTo h p)))
  | .grant => (d, some (padBlocks ((nth [] y.mine p).flatMap grantBytes)))
  | .dispatch =>
    thenDo (Dev.rowsOf (fun e d1 => thenDo (Dev.outRow (d1.pieceAg x p) o e d1) fun r d2 => (d2, some (e.bytes, r))) (y.entsTo p) d) fun l d1 =>
      (d1, some (packRows l.length l))
  | .ret =>
    let rows := sortBy (fun (a b : RowIn) => decide (a.num < b.num)) (y.got.filter fun r => r.src == p)
    thenDo (Dev.rowsOf (fun r d1 => Dev.backRow (d1.pieceAg x p) o h r d1) rows d) fun l d1 => (d1, some (packRows l.length l))
  | .statistic => (d, some [])

/-- ALLTOALL (R287, Table 10.3): of the Wheel only. The pieces are formed, the own one is at hand at once, and the first hop starts; a dispatch is launched
with it (R230). -/
def execAlltoall (x : Nat) (us : List Upset) (s : State) : Host.Outcome State Fault Refusal :=
  s.runC us fun d =>
    match (if d.alive then d.xop? x else none) with
    | none => d
    | some x =>
      match x.wheel with
      | none => d
      | some (r, h, w) =>
        match d.route? r with
        | none => d
        | some o =>
          if decide (x.stage ≠ .idle) || decide (w = .statistic) || !d.xTurn x then d
          else
            xDo x d.parks.length (Dev.rowsOf (Dev.pieceTo o h w x) (List.range x.grp.n) d) fun ps y =>
              let own := nth [] ps x.grp.self
              let b := y.xBegin x
              let y1 := b.1.startHop { b.2 with pieces := ps, blks := (own.zip (List.range own.length)).map fun p => (0, x.grp.self, p.2, p.1) } 0
              if w = .dispatch then y1.rowsDone (o.setHalf h { o.half h with stage := .sent }) h else y1

/-- The die that combines an arriving block of a return: a row's, where its hop is the last. -/
def Dev.retDie (d : Dev) (x : Xop) (b : InBlk) : Option (RouteOp × Nat × Nat) :=
  match x.wheel with
  | some (r, h, .ret) =>
    match d.route? r with
    | none => none
    | some o =>
      let pb := (routeD o.desc).retBlocks
      let p := x.placeOf b
      let m := p.2 % (1 + 16 * pb)
      if decide (x.level + 1 < x.grp.levels) || decide (m = 0) || b.data.isEmpty then none
      else ((o.half h).entsTo p.1)[p.2 / (1 + 16 * pb) * 16 + (m - 1) / pb]?.map fun e => (o, h, e.pair.die)
  | _ => none

/-- RECV_PLAIN_WRITE (Table 10.4); a returned row that finds its combine unit busy waits with its credits (R233). -/
def execRecvPlainWrite (k : Nat) (us : List Upset) (s : State) : Host.Outcome State Fault Refusal :=
  s.runC us fun d =>
    match (match d.inbox[k]? with
      | some b => (d.taker b).bind fun x => d.retDie x b
      | none => none) with
    | some (o, h, n) => if d.combineTakes o h n then Dev.recvRow k 0 [] d else d
    | none => Dev.recvRow k 0 [] d

/-! ### Dispatch, return, combine -/

/-- Where a received row lies (R227, R228): its receive entry and its record. -/
def RouteOp.recvAt (o : RouteOp) (h : Nat) (e : SendEnt) : Nat × Nat :=
  let q := o.q
  let j := h * q.blimit + e.row
  let i := (h * o.l + e.pair.slot) * q.cap + e.row
  if e.bulged then (q.bulge + 8 * j, q.bulge + roundUp (16 * q.blimit) 256 + j * q.pin) else (o.recvVa + 8 * i, q.recv + i * q.pin)

/-- DISPATCH_ROW_RECEIVE (R228, R240): row `num` of the piece from position `src` has arrived. `first` is the index of the source's first send entry for this
device, which nothing that the spec gives the exchange carries (DESIGN CHOICE, log 24); of the own rows it is known. -/
def execDispatchRowReceive (r half src num first : Nat) (us : List Upset) (s : State) : Host.Outcome State Fault Refusal :=
  s.runIfC us (decide (half < 2)) fun d =>
    match d.route? r with
    | none => d
    | some o =>
      let q := o.q
      let x := o.half half
      match (if x.stage = .sent then d.wXop o half .dispatch else none).bind fun y => (y.rowIn src (q.pin / 256) num).map fun b => (y, b) with
      | none => d
      | some (y, b) =>
        let e := sendEntOf q src b.1
        let idx := (if src = o.grp.self then o.firstEntOf half + x.entsBefore src else first) + num
        let xr := Agent.xrecv (d.sendHalf (o.grp.node src))
        if d.isParked (.wheel 0) || d.isParked xr || !y.free || x.got.any (fun g => g.src == src && g.num == num) then d
        else
          wDo o half 0 6 d.parks.length
            (if q.back then (d, some ())
             else Dev.vwrite (.wheel 0) o.stream (o.recvAt half e).1 (toLe 4 (o.grp.node src) ++ toLe 4 idx) (d.progress 0 e.row))
            fun _ d1 =>
              xDo y d1.parks.length (Dev.vwrite xr o.stream (o.recvAt half e).2 b.2 d1) fun _ z =>
                z.rowsDone (o.setHalf half { x with got := x.got ++ [⟨src, num, idx, e.pair.slot, e.row, e.bulged⟩] }) half

/-- RETURN_LAUNCH (R231). -/
def execReturnLaunch (r half : Nat) (us : List Upset) (s : State) : Host.Outcome State Fault Refusal :=
  s.runIfC us (decide (half < 2)) fun d =>
    match d.route? r with
    | none => d
    | some o =>
      let x := o.half half
      if x.ret || !x.rows || !d.released (.wheel o.cmd (4 + half)) || (half == 1 && decide (o.a.back.length < 8)) then d
      else
        let o1 := o.setHalf half { x with ret := true }
        (d.setRoute o1).wLaunch o1 half .ret

/-- One element of a contribution at a token's anchor (R235): the integer to add, with the marks of lost bits and of a clamp; `none` when
the product is not finite. -/
def combElem (a : Int) (gate y : Nat) : Option (Int × Bool × Bool) :=
  match mulVal (fdecode 24 (-149) gate) (fdecode 8 (-133) y) with
  | some (.fin neg m e) =>
    let sh := e + 56 - a
    let v := shiftNat m sh
    let lost := decide (sh < 0) && m % 2 ^ (-sh).toNat != 0
    let c := clampSym 63 (if neg then -(v : Int) else (v : Int))
    some (c.1, lost, c.2)
  | _ => none

/-- Bytes of a Shelf that a Wheel reads, each block checked. -/
def Dev.shelfRead (n off len : Nat) (d : Dev) : Dev × Option (List Byte) :=
  thenDo (Dev.takeBlocks (some (agentUnit (.wheel n))) (cover (shelfPa n off) len) d) fun bs d1 =>
    (d1, some ((bs.drop (off % 256)).take len))

/-- Add a returned row into its token's accumulators at its anchor (R235). -/
def Dev.combineRow (d : Dev) (q : RouteD) (h : Nat) (e : SendEnt) (a : Int) (row : List Byte) : Dev :=
  let n := e.pair.die
  let i := q.tokIx e.pair.tok
  iter q.dmodel (fun j y =>
    match combElem a e.pair.gate.toNat (field row (2 * j) 2) with
    | none => y.atomicBy .umax32 (shelfPa n (q.flagOff h i)) 1
    | some (v, lost, clamped) =>
      ((y.bump (rWhlCmbFlush n) (if lost then 1 else 0)).bump (rShfAtomSat n) (if clamped then 1 else 0)).atomicBy .add64
        (shelfPa n (q.accOff h i + 8 * j)) (uBits 64 v)) d

/-- COMBINE_CONTRIBUTION (R235, R242): row `num` of the return from position `src` has arrived. Its tag names the entry, and in a backward pass holds the gate
gradient. -/
def execCombineContribution (r half src num : Nat) (us : List Upset) (s : State) : Host.Outcome State Fault Refusal :=
  s.runIfC us (decide (half < 2)) fun d =>
    match d.route? r with
    | none => d
    | some o =>
      let q := o.q
      let x := o.half half
      match (d.wXop o half .ret).bind fun y => y.rowIn src q.retBlocks num with
      | none => d
      | some (tag, row) =>
        let idx := field tag 0 4
        match (if o.firstEntOf half ≤ idx then x.ents[idx - o.firstEntOf half]? else none) with
        | none => d
        | some e =>
          let n := e.pair.die
          if inSet x.done idx || !d.combineTakes o half n then d
          else
            let o0 := o.setHalf half { x with begun := setIns x.begun n }
            let d0 := (d.setRoute o0).progress n idx
            wDo o0 half n 7 d0.parks.length
              (thenDo (if q.back then
                  Dev.vwrite (.wheel n) o.stream (q.ggrad + 4 * (e.pair.tok * q.k + e.pair.rank)) ((tag.drop 4).take 4) d0
                 else (d0, some ())) fun _ d1 => Dev.shelfRead n (q.anchorOff half (q.tokIx e.pair.tok)) 2 d1)
              fun an y =>
                ((y.wLayer o n).combineRow q half e (sInt 16 (leNat an)) row).setRoute
                  (o0.setHalf half { o0.half half with done := setIns x.done idx })

/-- A drained element (R236): an accumulator at its anchor in BF16, a zero written as +0. -/
def outElem (a : Int) (v : Int) : Nat :=
  let b := (fencode fmt16 false (.fin (decide (v < 0)) v.natAbs (a - 56))).bits
  if b % 2 ^ 15 = 0 then 0 else b

/-- The combined row of a token from its flag, anchor and accumulators, with what counts in WHL_CMB_NONFIN (R236). -/
def drainRow (q : RouteD) (flag : Nat) (a : Int) (acc : List Byte) : List Byte × Nat :=
  if flag ≠ 0 then ((List.range q.dmodel).flatMap fun _ => toLe 2 0x7FC0, 1)
  else
    let es := (List.range q.dmodel).map fun j => outElem a (sInt 64 (field acc (8 * j) 8))
    (es.flatMap (toLe 2), (es.filter fun b => b % 2 ^ 15 == 0x7F80).length)

/-- A token of a half is drained. -/
def Dev.drainedTok (d : Dev) (cmd h t : Nat) : Dev :=
  { d with routes := d.routes.map fun x =>
      if x.cmd = cmd then x.setHalf h { x.half h with outs := setIns (x.half h).outs t } else x }

/-- Drain tokens (R236): each row is formed and written to OUT, then its accumulators and flag are cleared. A row whose write faults leaves them. -/
def Dev.drainToks (o : RouteOp) (h n : Nat) : List Nat → Dev → Dev × Option Unit
  | [], d => (d, some ())
  | t :: ts, d =>
    let q := o.q
    let i := q.tokIx t
    thenDo (Dev.shelfRead n (q.flagOff h i) 4 (d.progress n t)) fun fl d1 =>
      thenDo (Dev.shelfRead n (q.anchorOff h i) 2 d1) fun an d2 =>
        thenDo (Dev.shelfRead n (q.accOff h i) (8 * q.dmodel) d2) fun acc d3 =>
          let r := drainRow q (leNat fl) (sInt 16 (leNat an)) acc
          thenDo (Dev.vwrite (.wheel n) o.stream (q.out + t * q.pout) r.1 d3) fun _ d4 =>
            let d5 := ((d4.writeZeros (shelfPa n (q.accOff h i)) (8 * q.dmodel)).writeZeros (shelfPa n (q.flagOff h i)) 4).bump (rWhlCmbNonfin n) r.2
            Dev.drainToks o h n ts (d5.drainedTok o.cmd h t)

/-- A die has drained a half; the last of the eight signals SYNC + 2 + h, and the command ends when both halves are drained. -/
def Dev.drained (d : Dev) (o : RouteOp) (h : Nat) : Dev :=
  let d1 := d.setRoute o
  if (o.half h).back.length < 8 then d1
  else
    let d2 := (d1.wDrop o h .ret).signal (o.q.sync + 2 + h)
    (if 8 ≤ (o.half (1 - h)).back.length then d2.finishId o.cmd 0 0 else d2).routeGone o

/-- COMBINE_DRAIN (R236): every row of the half has arrived and is combined; after a park it goes on with the row that faulted. -/
def execCombineDrain (r n half : Nat) (us : List Upset) (s : State) : Host.Outcome State Fault Refusal :=
  s.runIfC us (dieOk n && decide (half < 2)) fun d =>
    match d.route? r with
    | none => d
    | some o =>
      let x := o.half half
      let tk := o.q.toks half n
      if !d.allCombined o half || inSet x.back n || !d.combineTakes o half n then d
      else
        let o0 := o.setHalf half { x with begun := setIns x.begun n }
        let toks := ((List.range tk.2).map (tk.1 + ·)).filter fun t => !inSet x.outs t
        wDo o0 half n 8 d.parks.length (Dev.drainToks o half n toks (d.setRoute o0)) fun _ y =>
          match y.route? r with
          | some o1 => y.drained (o1.setHalf half { o1.half half with back := setIns x.back n }) half
          | none => y

/-! ### The sort unit -/

/-- Bytes of a sort record in its tile's store. -/
def Dev.sortPoke (d : Dev) (j : SortJob) (at_ : Nat) (bs : List Byte) : Dev :=
  d.storeOf j.tile j.stream j.prio fun m => Mem.writeMod 0 tsSize m (j.off + at_) bs

/-- Replace the first element that equals one, or drop it. -/
def replaceOne {α : Type} [DecidableEq α] (a : α) (b : Option α) : List α → List α
  | [] => []
  | x :: l => if x = a then b.toList ++ l else x :: replaceOne a b l

/-- Replace a sort record of a die, or drop it. -/
def Dev.putSort (d : Dev) (n : Nat) (j : SortJob) (k : Option SortJob) : Dev := { d with sorts := SMap.set d.sorts n (replaceOne j k (d.sortsOn n)) }

/-- SORT (R246): a record of KIND 0x30 joins those of the Wheel of its tile's die; it runs at once when the Wheel is free. The Wheel does not model
Underpainting (R74). -/
def execSort (t ra : Nat) (ecc : Ecc) (s : State) : Host.Outcome State Fault Refusal :=
  s.launch t ra ecc (· == 0x30) fun off b d0 =>
    let d := d0.outscope t
    let n := dieOf t
    let c := (d.tile t).ctx
    let go := d.wheelTakes n c.prio && (d.sortsOn n).isEmpty
    let j : SortJob := { tile := t, off := off, img := b, stream := c.stream, prio := c.prio, run := go }
    ({ d with sorts := SMap.set d.sorts n (d.sortsOn n ++ [j]) }.recHead t off (if go then 1 else 0) 0).adv t

/-- The sort record that a Wheel serves: the one that runs, or the first waiting one of the highest priority. -/
def sortPick (l : List SortJob) : Option SortJob :=
  match l.find? (·.run) with
  | some j => some j
  | none => l.foldl (fun a j =>
    match a with
    | none => some j
    | some b => if b.prio < j.prio then some j else some b) none

/-- Bucket of a count (R148). -/
def sortBucket (c : Nat) : Nat := if c = 0 then 0 else Nat.log2 c + 1

/-- Row ids in the grouping order (R148). -/
def groupOrder (cs : List Nat) : List Nat :=
  (sortBy (fun (a b : Nat × Nat) => decide (sortBucket b.2 < sortBucket a.2) || (sortBucket a.2 == sortBucket b.2 && decide (a.1 < b.1)))
    ((List.range cs.length).zip cs)).map (·.1)

/-- Words from a place in an array to the end of their block. -/
def toBlockEnd (va left : Nat) : Nat := min left (max 1 ((256 - va % 256) / 4))

/-- The sort unit goes on from DONE and PASS (R246, R248): it counts every row, then places every row id. `fuel` bounds the blocks. The answer is the
record as it stands. -/
def Dev.sortRun (n : Nat) : Nat → SortJob → Dev → Dev × SortJob × Option Unit
  | 0, j, d => (d, j, some ())
  | fuel + 1, j, d =>
    let rows := field j.img 24 4
    let d0 := d.progress n j.done
    if j.pass = 0 then
      if rows ≤ j.done then Dev.sortRun n fuel { j with pass := 1, done := 0 } d
      else
        let va := field j.img 8 8 + 4 * j.done
        let m := toBlockEnd va (rows - j.done)
        match Dev.vread (.wheel n) j.stream va (4 * m) d0 with
        | (d1, some bs) => Dev.sortRun n fuel { j with done := j.done + m, cnts := j.cnts ++ (chunks 4 m bs).map leNat } d1
        | (d1, none) => (d1, j, none)
    else if rows ≤ j.done then (d, j, some ())
    else
      let va := field j.img 16 8 + 4 * j.done
      let m := toBlockEnd va (rows - j.done)
      match Dev.vwrite (.wheel n) j.stream va (((groupOrder j.cnts).drop j.done |>.take m).flatMap (toLe 4)) d0 with
      | (d1, some _) => Dev.sortRun n fuel { j with done := j.done + m } d1
      | (d1, none) => (d1, j, none)

/-- A sort record shows its progress: DONE and PASS. -/
def Dev.sortShow (d : Dev) (j : SortJob) : Dev := (d.sortPoke j 28 (toLe 4 j.done)).sortPoke j 32 (toLe 1 j.pass)

/-- A sort record's Wheel parks (R248): STATUS 2, counted, phase 10. -/
def Dev.sortPark (d : Dev) (n : Nat) (j : SortJob) : Dev :=
  let d1 := ((d.sortPoke j 4 (toLe 4 2)).sortShow j).bump (rWhlParks n) 1
  d1.wr (rWhlStatus n) (putBits (d1.rd (rWhlStatus n)) 11 3 (10 * 32))

/-- SORT_COMPLETE (R246, R247). -/
def execSortComplete (n : Nat) (us : List Upset) (s : State) : Host.Outcome State Fault Refusal :=
  s.runIfC us (dieOk n) fun d =>
    match (if d.alive then sortPick (d.sortsOn n) else none) with
    | none => d
    | some j =>
      if d.isParked (.wheel n) || !(j.run || d.wheelTakes n j.prio) then d
      else
        match Dev.sortRun n (2 * field j.img 24 4 + 3) { j with run := true } d with
        | (y, j1, some _) =>
          ((((y.putSort n j none).sortPoke j1 4 (toLe 4 3)).sortShow j1).bump (rWhlSorts n) 1).signal (recSync j1.img)
        | (y, j1, none) =>
          let y1 := y.putSort n j (some j1)
          if d.parks.length < y.parks.length then y1.sortPark n j1 else y1

end Sys2Proof.Machine
end

