-- ==== Sys2Proof/Machine/Faults.lean ====
section
/-!
DEFINITION. Translation faults (R194 to R202, R210): parking, posting and merging records, the Studio's re-walk, resolution, expiry.
-/

namespace Sys2Proof.Machine

/-! ### Parking -/

/-- The running operation that a Wheel would park, with its half and whether it combines (R249). -/
def Dev.wheelOp (d : Dev) (n : Nat) : Option (RouteOp × Nat × Bool) :=
  d.routes.findSome? fun o =>
    (List.range 2).findSome? fun h =>
      if (o.half h).routing n then some (o, h, false) else if (o.half h).combining n then some (o, h, true) else none

/-- The operation that an exchange half serves: the running one of highest priority. -/
def Dev.xServed (d : Dev) : Option Xop :=
  (d.xops.filter fun x => decide (x.stage ≠ .idle) && decide (x.stage ≠ .draining)).foldl (fun a x =>
    match a with
    | none => some x
    | some y => if y.prio < x.prio then some x else some y) none

/-- An agent parks on an access (R194, Table 7.6). -/
def Dev.parkAgent (d : Dev) (ag : Agent) (va : Nat) (acc : Access) (c l : Nat) (e : BitVec 64) : Dev :=
  match ag with
  | .tile t => if (d.tile t).ctx.run = .idle then d else d.parkTile t va acc c l e
  | .dma n k =>
    match d.dmaOn n k with
    | some r => d.dmaPark n k r va acc c l e
    | none => d
  | .wheel n =>
    match d.wheelOp n with
    | some (o, h, cmb) => (d.park ag va acc o.stream c l e).wPark o h n (if cmb then (if d.allCombined o h then 8 else 7) else o.phase h)
    | none =>
      match (d.sortsOn n).find? (·.run) with
      | some j => (d.park ag va acc j.stream c l e).sortPark n j
      | none => d
  | .xrecv _ | .xsend _ =>
    match d.xServed with
    | some x => (d.park ag va acc x.stream c l e).holdX x
    | none => d

/-- TRANSLATION_FAULT (R194): the access of an agent faults now. -/
def execTranslationFault (ag : Agent) (va : BitVec 64) (acc : Access) (us : List Upset) (s : State) : Host.Outcome State Fault Refusal :=
  s.runC us fun d =>
    if d.isParked ag || !d.alive then d
    else match d.translate (agentDie ag) (agentTile ag) va.toNat acc with
      | (.fault c l e, d1) => d1.parkAgent ag va.toNat acc c l e
      | _ => d

/-! ### Resuming -/

/-- A saved context of a tile belongs to a stream, which the tile does not run now. -/
def Dev.streamSaved (d : Dev) (t stream : Nat) : Bool :=
  (d.tile t).slots.any (fun p => p.2.ctx.stream == stream) && decide ((d.tile t).ctx.stream ≠ stream)

/-- Every running operation sends what it may. -/
def Dev.pumpAll (d : Dev) : Dev := d.xops.foldl (fun y x => y.pump x) d

/-- Drop a park. -/
def Dev.unpark (d : Dev) (p : Park) : Dev := { d with parks := d.parks.filter fun q => decide (q ≠ p) }

/-- Mark a park whose tile is saved as resolved (R210). -/
def Dev.markResolved (d : Dev) (p : Park) : Dev :=
  { d with parks := d.parks.map fun (q : Park) => if q = p then { q with resolved := true } else q }

/-- A sort record of a die runs again after a park. -/
def Dev.sortResume (d : Dev) (n : Nat) : Dev :=
  match (d.sortsOn n).find? (·.run) with
  | some j => d.sortPoke j 4 (toLe 4 1)
  | none => d

/-- A parked agent replays (R195, R198, Table 7.9). -/
def Dev.resume (d : Dev) (p : Park) : Dev :=
  match p.agent with
  | .tile t => if d.streamSaved t p.stream then d.markResolved p else (d.unpark p).startWaiting t
  | .dma n e =>
    match d.dmaOn n e with
    | some r =>
      if (r.srcTs || r.dstTs) && d.streamSaved r.tileNo r.stream then d.markResolved p
      else ((d.unpark p).dmaSet n e { r with parked := false }).recStatus r 1 0
    | none => d.unpark p
  | .wheel n => ((d.unholdX p).unpark p).sortResume n
  | .xrecv _ | .xsend _ => ((d.unholdX p).unpark p).pumpAll

/-- Every agent parked under a fault id replays, and the record is gone (R198). -/
def Dev.resumeAll (d : Dev) (id : Nat) : Dev :=
  (d.parks.filter fun p => decide (p.fault = some id) && !p.resolved).foldl (fun y p => y.resume p)
    { d with faults := d.faults.filter fun f => f.id != id }

/-- A fault ends in FAIL (R198). -/
def Dev.faultFail (d : Dev) (id : Nat) : Dev := { d with faults := d.faults.filter fun f => f.id != id }.jobFatal

/-! ### Records -/

/-- AGENT and AGENTID (Table 7.7). -/
def agentId : Agent → Nat × Nat
  | .tile t => (0, t)
  | .dma n e => (1, 8 * n + e)
  | .wheel n => (2, n)
  | .xrecv h => (3, h)
  | .xsend h => (4, h)

/-- ACCESS (Table 7.7). -/
def accessCode : Access → Nat
  | .read => 0
  | .write => 1
  | .atomic => 2

/-- The 32 bytes of a fault record (Table 7.7). -/
def FaultRec.bytes (f : FaultRec) : List Byte :=
  toLe 4 f.id ++ toLe 1 (agentId f.agent).1 ++ toLe 1 f.cause ++ toLe 2 (agentId f.agent).2 ++ toLe 8 f.va
    ++ toLe 1 (accessCode f.access) ++ toLe 1 f.level ++ toLe 2 f.stream ++ toLe 2 f.epoch ++ toLe 2 0 ++ toLe 8 f.entry.toNat

/-- A park is posted under an id; a DMA record's or a sort record's FAULTTAG holds it (R199, Table 7.5). -/
def Dev.tagPark (d : Dev) (p : Park) (id : Nat) : Dev :=
  let d1 := { d with parks := d.parks.map fun (q : Park) => if q = p then { q with fault := some id } else q }
  match p.agent with
  | .dma n e =>
    match d1.dmaOn n e with
    | some r => d1.recStatus r 2 (id % 65536)
    | none => d1
  | .wheel n =>
    match (d1.sortsOn n).find? (·.run) with
    | some j => d1.sortPoke j 4 (toLe 2 2 ++ toLe 2 (id % 65536))
    | none => d1
  | _ => d1

/-- FAULT_LIMIT_MS; 0 acts as 1. -/
def Dev.faultLimit (d : Dev) : Nat := max 1 (d.fld rMmuCtl 31 16)

/-- A parked agent posts its record (R197, R199, R200). -/
def Dev.post (d : Dev) (p : Park) : Dev :=
  match d.faults.find? fun f => f.va / 65536 == p.va / 65536 && f.cause == p.cause with
  | some f => ((d.tagPark p f.id).bump rMmuFaults 1).raise 17
  | none =>
    if d.faults.length < 256 then
      let f : FaultRec := { id := d.nextId, agent := p.agent, cause := p.cause, va := p.va, access := p.access, level := p.level
                            stream := p.stream, epoch := d.epoch, entry := p.entry, taken := false, sent := false
                            limit := d.ms + d.faultLimit }
      (({ d with faults := d.faults ++ [f], nextId := d.nextId + 1 }.tagPark p f.id).bump rMmuFaults 1).raise 17
    else if p.waited then d
    else ({ d with parks := d.parks.map fun (q : Park) => if q = p then { q with waited := true } else q }).bump rMmuFaultqFull 1

/-- FAULT_POST (R194, R197, R200). -/
def execFaultPost (ag : Agent) (s : State) : Host.Outcome State Fault Refusal :=
  s.run fun d =>
    match (if d.alive then d.parks.find? fun p => decide (p.agent = ag) && p.fault.isNone else none) with
    | some p => d.post p
    | none => d

/-- Send a pending record to the owner's fault ring, with its event (R196); the write is held while the port may not issue (R451). -/
def Dev.sendFault (d : Dev) (f : FaultRec) : Dev :=
  let d1 := { d with faults := d.faults.map fun (g : FaultRec) => if g.id = f.id then { g with sent := true } else g }
  if d1.mayIssue d1.owner then (d1.emit (.faultRing d1.owner f.bytes)).raise 4
  else d1.setPort d1.owner { d1.port d1.owner with held := (d1.port d1.owner).held ++ [(64, f.bytes)] }

/-- The Studio walks the faulting address again (R196). -/
def Dev.rewalk (d : Dev) (f : FaultRec) : Bool × Dev :=
  if 2 ^ 52 ≤ f.va || d.fld rMmuCtl 0 0 = 0 then (false, d)
  else match d.walkRoot 0 f.va (isWrite f.access) with
    | (.ok _, _, d1) => (true, d1)
    | (_, _, d1) => (false, d1)

/-- STUDIO_FAULT_TAKE (R196). -/
def execStudioFaultTake (us : List Upset) (s : State) : Host.Outcome State Fault Refusal :=
  s.runC us fun d =>
    match d.faults.find? fun f => !f.taken with
    | none => d
    | some f =>
      let d1 := { d with faults := d.faults.map fun (g : FaultRec) => if g.id = f.id then { g with taken := true } else g }
      match d1.rewalk f with
      | (true, d2) => d2.resumeAll f.id
      | (false, d2) => d2.sendFault f

/-- FAULT_EXPIRY (R201): the record has been pending for its limit, by the Studio timer. -/
def execFaultExpiry (id : Nat) (s : State) : Host.Outcome State Fault Refusal :=
  s.run fun d =>
    match d.faults.find? fun f => f.id == id with
    | some f => if f.limit ≤ d.ms then (d.bump rMmuFaultExpired 1).faultFail id else d
    | none => d

end Sys2Proof.Machine
end

