-- ==== Sys2Proof/Machine/Bar2.lean ====
section
/-!
DEFINITION. The host's window onto device memory, BAR2 (R447 to R449, R454, R520).
-/

namespace Sys2Proof.Machine

/-- A host port. -/
def hostOk (p : Nat) : Bool := decide (p < 2)

/-- Bytes of a port's BAR2. -/
def Dev.bar2Size (d : Dev) (p : Nat) : Nat := (d.port p).bar2 * 2 ^ 30

/-- Physical address of a BAR2 offset: base bits below the size are ignored (R447). -/
def Dev.bar2Pa (d : Dev) (p off : Nat) : Nat := d.rd64 (rHifBar2BaseLo p) / d.bar2Size p * d.bar2Size p + off

/-- A port's requests reach the device: its link is up, PERST# is high, and the start has ended (R481). -/
def Dev.barsOn (d : Dev) (p : Nat) : Bool := d.linkUp p && !(d.port p).perst && (d.bootStage == 12 || d.bootStage == 15)

/-- An access of `n` bytes lies in the BAR. -/
def Dev.bar2In (d : Dev) (p off n : Nat) : Bool := d.barsOn p && decide (0 < n) && decide (off + n ≤ d.bar2Size p)

/-- Physical addresses at which a BAR2 access enters each block. -/
def Dev.bar2Pas (d : Dev) (p off n : Nat) : List Nat := cover (d.bar2Pa p off) n

/-- A BAR2 address in no window that BAR2 reaches (R447, R520). -/
def bar2Hole (pa : Nat) : Bool :=
  match locate pa with
  | .window => true
  | .hole => true
  | _ => false

/-- A BAR2 address that R164 refuses. -/
def bar2Tail (pa : Nat) : Bool :=
  match locate pa with
  | .tail _ => true
  | .beyond _ => true
  | _ => false

/-- All-ones data. -/
def onesData (n : Nat) : List Byte := List.replicate n 0xFF

/-- Return data of a BAR2 read. -/
def Dev.bar2Data (d : Dev) (p off n : Nat) : Dev :=
  d.emit (.bar2Data p (Mem.bytes 0 d.mem (d.bar2Pa p off) n))

/-- A BAR2 read ends without its data (R447, R481, R496, R368). -/
def Dev.bar2Ones (d : Dev) (p n : Nat) : Dev := d.emit (.bar2Data p (onesData n))

/-- A read whose glaze retry fails (R452, R368): all-ones data, and an Uncorrectable Internal Error report (kind 1). -/
def Dev.bar2Fail (d : Dev) (p n : Nat) : Dev := (d.bar2Ones p n).emit (.aer p 1)

/-- BAR2_READ (R447): glaze is checked at the read, with one retry (Table 13.2). -/
def execBar2Read (port off len : Nat) (u : Upset) (s : State) : Host.Outcome State Fault Refusal :=
  s.runIf (hostOk port) fun d =>
    let pas := d.bar2Pas port off len
    if !d.bar2In port off len then d
    else if d.bootStage = 15 then d.bar2Ones port len
    else if d.dormant then (d.bump rBootDormDrops 1).bar2Ones port len
    else match pas.find? bar2Tail with
      | some pa => ((d.refuse pa).getD d).bar2Ones port len
      | none =>
        if pas.any bar2Hole then (d.bump (rHifBar2Hole port) 1).bar2Ones port len
        else
          let pa0 := nth 0 pas 0
          let d1 := d.readCounts pa0 u
          let w : HwUnit := ⟨.hostPort, port⟩
          if d.glazeBad pa0 u then d1.retry ⟨.bar2 port off len, d.readCheck pa0 u, w, pa0, 0⟩
          else match pas.find? (fun pa => d.glazeBad pa .clean) with
            | some pa => d1.retry ⟨.bar2 port off len, 5, w, pa, 0⟩
            | none => d1.bar2Data port off len

/-- BAR2_WRITE (R448): cut at block boundaries; a poisoned write is reported as Poisoned TLP Received (kind 0). -/
def execBar2Write (port off : Nat) (bytes : List Byte) (poison : Bool) (us : List Upset) (s : State) : Host.Outcome State Fault Refusal :=
  s.runIfC us (hostOk port) fun d =>
    let pas := d.bar2Pas port off bytes.length
    if !d.bar2In port off bytes.length || d.bootStage == 15 then d
    else if poison then (d.bump (rHifBar2Poison port) 1).emit (.aer port 0)
    else if d.dormant then d.bump rBootDormDrops 1
    else if port ≠ d.owner then d.bump rHifStbyDrops 1
    else match pas.find? bar2Tail with
      | some pa => (d.refuse pa).getD d
      | none =>
        if pas.any bar2Hole then d.bump (rHifBar2Hole port) 1
        else Dev.writeCut (pas.length + 1) d (d.bar2Pa port off) bytes

end Sys2Proof.Machine
end

