-- ==== Sys2Proof/Machine/View.lean ====
section
/-!
DEFINITION. Registers as they read: the fields that show the state of a unit are formed at the read, the rest is what is stored.
-/

namespace Sys2Proof.Machine

/-- TIL_CTX_STATUS (Table 7.13): slots that hold a context, and whether the running context has a fault pending. -/
def Dev.ctxStatus (d : Dev) (t : Nat) : Word :=
  BitVec.ofNat 32 (((d.tile t).slots.map fun s => if s.1 < 3 then 2 ^ s.1 else 0).foldl (· + ·) 0
    + (if d.isParked (.tile t) then 16 else 0))

/-- DMA_STATUS (Table 7.12): ALIGN as stored, engines that run a record, records waiting. -/
def Dev.dmaStatus (d : Dev) (n : Nat) : Word :=
  let x := SMap.get {} d.dma n
  BitVec.ofNat 32 (d.fld (rDmaStatus n) 16 16 * 2 ^ 16
    + (x.engines.map fun e => if e.1 < 8 then 2 ^ e.1 else 0).foldl (· + ·) 0 * 2 ^ 8 + x.queue.length % 128)

/-- MMU_STATUS (Table 7.11). -/
def Dev.mmuStatus (d : Dev) : Word :=
  BitVec.ofNat 32 (d.faults.length
    + (if (d.xops.any fun x => !x.own.isEmpty || !x.holds.isEmpty) || !d.early.isEmpty then 2 ^ 16 else 0))

/-- XCH_COLL_STATUS (Table 10.13): OP of the operation running at the highest priority. -/
def Dev.collStatus (d : Dev) : Word :=
  let run := d.xops.filter fun x => decide (x.stage ≠ .idle) && decide (x.stage ≠ .draining)
  match run.foldl (fun (a : Option Xop) x =>
    match a with
    | none => some x
    | some y => if y.prio < x.prio then some x else some y) none with
  | some x => BitVec.ofNat 32 (x.op % 16 * 256 + 1)
  | none => 0

/-- PAL_COUNT (Table 9.11). -/
def Dev.palCount (d : Dev) : Word :=
  BitVec.ofNat 32 (((List.range 64).filter fun i => d.fld (rPalEntryPeer i) 15 15 == 1).length)

/-- HIF_HWSTAT (Table 16.7). -/
def Dev.hwstat (d : Dev) : Word :=
  BitVec.ofNat 32 ((if d.job = 2 then 8 else 0) + 4 * d.fld rKlnStatus 8 8 + 2 * d.fld rKlnStatus 5 5 + (if d.studio then 1 else 0))

/-- EVC_TSTAT of a target (Table 17.5). -/
def Dev.tstat (d : Dev) (k : Nat) : Word :=
  let e := d.evcT k
  BitVec.ofNat 32 ((if e.line then 2 ^ 16 else 0) +
    (match e.insv with
     | some s => 256 + s
     | none => 0))

/-- A register's value at its window offset, as a read returns it; the Studio's copies of the per-target registers stand in the window
(R465). -/
def Dev.view (d : Dev) (off0 : Nat) : Word :=
  let off := canonOff off0
  let v := d.rd off
  if 0x1000000 ≤ off then
    (if off % 0x1000 = 0x300 then d.ctxStatus ((off - 0x1000000) / 0x1000) else v)
  else if 0x100000 ≤ off then
    (let n := (off - 0x100000) / 0x10000
     if off % 0x10000 = 0x2000 then d.whlStatus n else if off % 0x10000 = 0x3000 then d.dmaStatus n else v)
  else if off = 0x2000 then v ||| 1
  else if off = rHifHwstat then d.hwstat
  else if off = rMmuStatus then d.mmuStatus
  else if off = rXchCollStatus then d.collStatus
  else if off = rPalCount then d.palCount
  else if off = rUpdStatus then (v &&& 0xFFFFFFFE#32) ||| (if d.upds.any fun u => decide (u.stage ≠ .waiting) then 1 else 0)
  else if off = rCrzQueue then BitVec.ofNat 32 d.crz.length
  else if off = rCrzStatus then (v &&& 0xFFFFFFFE#32) ||| (if d.board.fq.isEmpty then 0 else 1)
  else if off = rEvcTstat then d.tstat 0
  else if off = rEvcHold then (if (d.evcT 0).hold then 1 else 0)
  else if 0x3080 ≤ off && decide (off < 0x30A0) then d.rd (off - 0x40)
  else v

/-- The same as a port sees it through BAR0 (R446, R465): offsets 0 to 0xFFF the HIF_ block, 0x1000 to 0x1FFF the EVC_ block with the copies
of the port's host. -/
def Dev.viewPort (d : Dev) (p off : Nat) : Word :=
  if off < 0x1000 then d.view (0x1000 + 0x1000 * p + off)
  else if off = 0x1008 then (if (d.evcT (p + 1)).hold then 1 else 0)
  else if off = 0x100C then d.tstat (p + 1)
  else d.view (0x2000 + off)

end Sys2Proof.Machine
end

