-- ==== Sys2Proof/Machine/Boot.lean ====
section
/-!
DEFINITION. Reset kinds (R493), rails and their control (R479, R504 to R506), the boot ROM's flow (R483 to R492), the Dormant state (R495 to
R497).
-/

namespace Sys2Proof.Machine

/-! ### Resets -/

/-- Registers that an always-on island keeps through a module reset (R493, R412, R517): KLN_STATUS.THERMSHUT, KLN_VIN_MIN, the MOD_ block. -/
def Dev.islandRegs (d : Dev) : List (Nat × Word) :=
  [(rKlnStatus, d.rd rKlnStatus &&& 0x100#32), (rKlnVinMin, d.rd rKlnVinMin), (rModAlert, d.rd rModAlert),
   (rModCoolant, d.rd rModCoolant), (rModAddr, d.rd rModAddr), (rModMbxErrs, d.rd rModMbxErrs)]

/-- A port after a conventional reset: PERST# is the host's pin and stands as it was. -/
def Dev.portAfter (d : Dev) (p : Nat) : HostPort := { ({} : HostPort) with perst := (d.port p).perst }

/-- Module reset (R493): the whole device except the islands; the queued Craze entries stay, and so does module flash, from which the boot loads
the repair map and counts failed retests. The Studio
timer counts on from power-on (Table 13.8). -/
def Dev.moduleReset (d : Dev) (cause : Nat) : Dev :=
  let d1 : Dev :=
    { Dev.reset with
      ports := [(0, d.portAfter 0), (1, d.portAfter 1)], crz := d.crz
      board := { d.board with cause := cause, fwait := false }, out := d.out, us := d.us, free := d.free }
  d.islandRegs.foldl (fun x r => x.wr r.1 r.2) d1

/-- Every rail except the standby rail is removed (R479, R505, R411). -/
def Dev.railsOff (d : Dev) (barred : Bool) (cause : Nat) : Dev :=
  let d1 := d.moduleReset cause
  { d1 with board := { d1.board with rails := false, pgood := false, barred := barred } }

/-- Set alert causes (Table 19.4); ALERT_N is low while MOD_ALERT is not 0 (Table 19.3). -/
def Dev.alert (d : Dev) (mask : Word) : Dev := d.wr rModAlert (d.rd rModAlert ||| mask)

/-- MODULE_RESET (R493): MOD_RST_N low for at least 1 µs. -/
def execModuleReset (s : State) : Host.Outcome State Fault Refusal :=
  s.run fun d => if d.board.standby then d.moduleReset 1 else d

/-- The rails start, if nothing holds them off (R479). -/
def Dev.railsStart (d : Dev) : Dev :=
  if d.board.standby && d.board.modEn && !d.board.rails && !d.board.barred then { d with board := { d.board with rails := true } } else d

/-- MOD_EN_HIGH (R479): the rails start when the input is above 42.5 V. -/
def execModEnHigh (mv : Nat) (s : State) : Host.Outcome State Fault Refusal :=
  s.run fun d =>
    if d.board.modEn then d
    else
      let d1 : Dev := { d with board := { d.board with modEn := true } }
      if 42500 < mv then d1.railsStart else d1

/-- MOD_EN_LOW (R505, R506): every rail except standby is removed, and THERM clears. -/
def execModEnLow (s : State) : Host.Outcome State Fault Refusal :=
  s.run fun d =>
    if !d.board.modEn then d
    else
      let d1 := d.railsOff false (if d.board.rails || d.board.barred then 2 else d.board.cause)
      { d1 with board := { d1.board with modEn := false } }.wr rModAlert (d1.rd rModAlert &&& 0xE#32)

/-- RAIL_TIMEOUT (R479): a rail is not in regulation within 10 ms. -/
def execRailTimeout (s : State) : Host.Outcome State Fault Refusal :=
  s.run fun d => if d.board.rails && !d.board.pgood then (d.railsOff true d.board.cause).alert 2 else d

/-- RAIL_REGULATION_LOSS (R506): a rail leaves regulation while MOD_EN is high. -/
def execRailRegulationLoss (_rail : Nat) (s : State) : Host.Outcome State Fault Refusal :=
  s.run fun d =>
    if d.board.modEn && d.board.pgood then { d with board := { d.board with pgood := false } }.alert 2 else d

/-- Bytes of a page in progress when the supply fails (Table 19.9): the block is torn, so what it reads as is open. -/
def tornBytes (free : Nat) : Nat → List Byte
  | 0 => []
  | n + 1 => Config.freeByte free :: tornBytes (free + 1) n

/-- A flash operation that fails or is torn leaves open bytes where it stood. -/
def Dev.tear (d : Dev) (o : FlashOp) : Dev :=
  let n := if o.erase then 65536 else o.bytes.length
  { d.flashPut o.off (tornBytes d.free n) with free := d.free + n }

/-- The device without its standby rail: what lies in module flash is all that stays. -/
def Dev.powerLost (d : Dev) : Dev :=
  let d1 := match d.board.fq with
    | o :: _ => d.tear o
    | [] => d
  { Dev.reset with
    out := d1.out, free := d1.free
    ports := [(0, d1.portAfter 0), (1, d1.portAfter 1)]
    board := { ({} : Board) with standby := false, modEn := d1.board.modEn, dip := true, flash := d1.board.flash } }

/-- STANDBY_HOLD_EXPIRY (R494): the input has stayed below 38.0 V beyond the hold time. -/
def execStandbyHoldExpiry (s : State) : Host.Outcome State Fault Refusal :=
  s.run fun d => if d.board.standby && d.board.deep then d.powerLost else d

/-- STANDBY_RAIL_UP (R504, R493): the standby rail rises from off, which is a power-on reset; the address straps are sampled. -/
def execStandbyRailUp (straps : BitVec 3) (s : State) : Host.Outcome State Fault Refusal :=
  s.run fun d =>
    if d.board.standby then d
    else { d with board := { d.board with standby := true } }.wr rModAddr (straps.setWidth 32)

/-! ### The boot control block -/

/-- A boot control copy (R488), in a layout of the model's (DESIGN CHOICE, log 33): SEQ, PREFER, TRIAL, TRIES, power-on count, CRC. -/
structure BootCopy where
  seq    : Nat
  prefer : Nat
  trial  : Bool
  tries  : Nat
  count  : Nat
deriving DecidableEq, Repr

/-- Flash offset of a boot control copy (Table 18.2). -/
def bootOff (i : Nat) : Nat := 0x10000 * (i + 1)

/-- The bytes of a boot control copy (DESIGN CHOICE, log 33). -/
def BootCopy.bytes (b : BootCopy) : List Byte :=
  let x := toLe 4 b.seq ++ toLe 1 b.prefer ++ toLe 1 (if b.trial then 1 else 0) ++ toLe 1 b.tries ++ toLe 1 0 ++ toLe 4 b.count
  x ++ toLe 4 (crc32c x).toNat

/-- A boot control copy, if its CRC is right (R486). -/
def Dev.bootCopy (d : Dev) (i : Nat) : Option BootCopy :=
  let x := d.flashBytes (bootOff i) 16
  if field x 12 4 = (crc32c (x.take 12)).toNat then
    some { seq := field x 0 4, prefer := field x 4 1 % 2, trial := decide (field x 5 1 ≠ 0), tries := field x 6 1 % 8, count := field x 8 4 }
  else none

/-- The copy that stands: the valid one with the higher SEQ (R486). -/
def Dev.bootNow (d : Dev) : Option (Nat × BootCopy) :=
  match d.bootCopy 0, d.bootCopy 1 with
  | some a, some b => if a.seq < b.seq then some (1, b) else some (0, a)
  | some a, none => some (0, a)
  | none, some b => some (1, b)
  | none, none => none

/-- Where a new copy goes, and its SEQ (R486). -/
def Dev.bootNext (d : Dev) : Nat × Nat :=
  match d.bootNow with
  | some (i, b) => (1 - i, b.seq + 1)
  | none => (0, 0)

/-- The boot ROM writes a new copy. -/
def Dev.bootWrite (d : Dev) (b : BootCopy) : Dev :=
  let (i, q) := d.bootNext
  (d.flashErase (bootOff i)).flashPut (bootOff i) { b with seq := q }.bytes

/-- BOOT_CONFIRM (R488): the Studio writes a copy with TRIAL clear, through the one write engine (R513). -/
def Dev.bootConfirm (d : Dev) : Dev :=
  match (if d.studio then d.bootNow else none) with
  | none => d
  | some (_, b) =>
    let (i, q) := d.bootNext
    let ops : List FlashOp :=
      [⟨false, false, true, bootOff i, []⟩, ⟨false, true, false, bootOff i, { b with seq := q, trial := false }.bytes⟩]
    { d with board := { d.board with fq := d.board.fq ++ ops } }.setFld rBootStatus 2 2 0

/-- BOOT_CONFIRM (R488). -/
def execBootConfirm (s : State) : Host.Outcome State Fault Refusal := s.run Dev.bootConfirm

/-! ### The boot ROM -/

/-- Flash offset of an image slot (Table 18.2). -/
def imageOff (slot : Nat) : Nat := if slot = 0 then 0x00100000 else 0x01900000

/-- Header fields of an image that R487 checks beside the key and the signature. -/
def Dev.headerOk (d : Dev) (slot : Nat) : Bool :=
  let h := d.flashBytes (imageOff slot) 256
  decide (field h 0 4 = 0x4F4E3136) && decide (field h 4 4 = 1) && decide (field h 16 4 ≤ 0x1000000) && decide (field h 20 4 = 0)
    && allZero (h.drop 152)

/-- What an image's signature and its measurement cover: header bytes 0 to 87 and the payload (R487, Table 18.4). -/
def Dev.imageSigned (d : Dev) (slot : Nat) : List Byte :=
  let h := d.flashBytes (imageOff slot) 256
  h.take 88 ++ d.flashBytes (imageOff slot + 256) (field h 16 4)

/-- An image is valid (R487): its header, its key's digest, its signature. -/
def Dev.imageOk (d : Dev) (slot : Nat) : Bool :=
  let h := d.flashBytes (imageOff slot) 256
  let key := (h.drop 24).take 64
  d.headerOk slot && decide (Config.sm3 key = Config.vendorDigest) && Config.sm2Verify key (d.imageSigned slot) ((h.drop 88).take 64)

/-- The voltage table as flash holds it (Table 18.2). -/
def Dev.voltageTable (d : Dev) : List Byte := d.flashBytes 0x03100000 0x40000

/-- Choice of image (R488): the slot that runs, FALLBACK, whether it is on trial. `b` is the copy as chosen from, before TRIES is lowered. -/
def Dev.chooseImage (d : Dev) (b : BootCopy) : Option (Nat × Bool × Bool) :=
  let one (s : Nat) (fb tr : Bool) : Option (Nat × Bool × Bool) := if d.imageOk s then some (s, fb, tr) else none
  if b.trial && b.tries = 0 then one (1 - b.prefer) true false
  else match one b.prefer false b.trial with
    | some r => some r
    | none => one (1 - b.prefer) false false

/-- The start stops in STAGE FAILED (R483). -/
def Dev.bootFail (d : Dev) (code : Nat) : Dev := ((d.setFld rBootStatus 31 24 code).setFld rBootStatus 15 12 15).alert 4

/-- Words of a digest. -/
def digestWords (b : List Byte) : List Word := (List.range 8).map fun w => BitVec.ofNat 32 (field b (4 * w) 4)

/-- Set a measurement block (Table 18.4). -/
def Dev.measure (d : Dev) (m : Nat) (dig : List Byte) : Dev :=
  (List.range 8).foldl (fun x w => x.wr (rSecMeasW m w) (nth 0 (digestWords dig) w)) d

/-- The repair map as loaded, with the bindings of this start (R492; layout: DESIGN CHOICE, log 33). -/
def Dev.mapBytes (d : Dev) : List Byte := mapBody d.repair d.sites d.absent

/-- Measurements of a start (R492, Table 18.4). -/
def Dev.measures (d : Dev) (slot : Nat) (fb tr : Bool) : Dev :=
  let h := d.flashBytes (imageOff slot) 256
  let st := toLe 4 slot ++ toLe 4 (field h 8 4) ++ toLe 4 (field h 12 4) ++ toLe 2 (if tr then 1 else 0) ++ toLe 2 (if fb then 1 else 0)
  ((((d.measure 1 (Config.sm3 Config.bootRom)).measure 2 (Config.sm3 (d.imageSigned slot))).measure 3 (Config.sm3 st)).measure 4
    (Config.sm3 d.voltageTable)).measure 5 (Config.sm3 d.mapBytes)

/-- A unit fails self-test at a start (R484): one failed retest, its entry with CHECK 11, a spare for this boot. -/
def Dev.bistOne (d : Dev) (u : HwUnit) : Dev :=
  if d.repair.any fun x => decide (x = u) then d else (d.failRetest 5 11 u 0 0).replaceUnit 11 u

/-- A unit with one failed retest on record is retested at a start (R383); one that passes queues RETEST_PASS (R382). -/
def Dev.retestPassed (d : Dev) (failing : List HwUnit) : Dev :=
  (d.retests.filter fun u => d.failCount u == 1 && !(d.repair ++ failing).any fun x => decide (x = u)).foldl (fun x u => x.pushCrz (x.entry 4 11 u 0 0)) d

/-! #### What the repair map gives a start (R13, R169, R170, R384) -/

/-- Lanes of a channel that the map records as failed (Table 13.8: stack x 2,240 + channel x 70 + pin). -/
def Dev.mapLanes (d : Dev) (k ch : Nat) : Nat :=
  (d.repair.filter fun u => decide (u.cls = .hbmLane) && u.num / 70 == 32 * k + ch).length

/-- HBM stacks after training (R169, R170, Table 6.6): each failed lane of the map takes one of its channel's 2 spare pins, and a channel with more
failed lanes runs degraded; each row of the map is repaired unless it lies beyond a bank's limit, when its pages are retired. -/
def Dev.stackUp (d : Dev) (full : List Nat) (k : Nat) : Dev :=
  let chs := List.range 32
  let bad := chs.filter fun c => decide (2 < d.mapLanes k c)
  let rows := d.repair.filter fun u => decide (u.cls = .hbmRow) && u.num / 2 ^ 28 == k
  let out := rows.filter fun u => inSet full u.num
  let d1 := { d with chans := d.chans ++ bad.map fun c => (k, c) }
  let d2 := ((((d1.setFld (rHbmStatus k) 0 0 1).setFld (rHbmStatus k) 3 3 (if bad.isEmpty then 0 else 1)).setFld
      (rHbmStatus k) 2 2 (if out.isEmpty then 0 else 1)).setFld (rHbmSpares k) 7 0 (chs.foldl (fun a c => a + min 2 (d.mapLanes k c)) 0)).setFld
      (rHbmSpares k) 23 8 (rows.length - out.length)
  let d3 := if bad.isEmpty then d2 else d2.raise 3
  out.foldl (fun x u => x.retire u ((Config.rowPages k (u.num % 2 ^ 28)).foldl setIns [])) d3

/-- All 16 stacks. -/
def Dev.stacksUp (d : Dev) (full : List Nat) : Dev := iter 16 (fun k x => x.stackUp full k) d

/-- The spare of a physical lane that is a spare (R252). -/
def spareOfLane (l : Nat) : Nat := 8 * (l / 72) + (l % 72 - 64)

/-- A fabric lane of the map: the logical lane that stood on it moves to the spare bound to it (R13, R274, Table 9.9). -/
def Dev.laneLoad (d : Dev) (u : HwUnit) : Dev :=
  match d.sites.find? fun p => decide (p.1 = u) with
  | none => d
  | some (_, l) =>
    iter 128 (fun i x =>
      let lo := 8 * (i % 4)
      if x.fld (rXchPortLanemap (i / 4)) (lo + 7) lo = u.num then
        ((x.setFld (rXchPortLanemap (i / 4)) (lo + 7) lo l).setFld (rXchSpare (spareOfLane l)) 23 16 i).setFld (rXchSpare (spareOfLane l)) 6 6 1
      else x) d

/-- What the boot ROM binds and marks at step 10 (R483, R384): absent tiles, fabric lanes. -/
def Dev.loadMaps (d : Dev) : Dev :=
  (d.repair.filter fun u => u.cls = .fabricLane).foldl Dev.laneLoad (d.absent.foldl Dev.setAbsent d)

/-- Lanes and rows that this start substitutes for the first time are recorded (R383): SUBSTITUTED, or NO_SPARE where no spare serves. -/
def Dev.substituted (d : Dev) (full : List Nat) : Dev :=
  let known (u : HwUnit) : Bool :=
    (d.crzValid.any fun p => (field p.2 5 1 == 7 || field p.2 5 1 == 8) && decide (unitAt ((p.2.drop 7).take 1 ++ toLe 3 0 ++ (p.2.drop 8).take 4) 0 = some u))
      || d.crz.any fun e => (e.kind == 7 || e.kind == 8) && decide (e.unit = u)
  let due := d.repair.filter fun u => (u.cls = .hbmLane || u.cls = .hbmRow || u.cls = .fabricLane) && !known u
  due.foldl (fun x u =>
    let ok := match u.cls with
      | .hbmLane => decide (x.mapLanes (u.num / 2240) (u.num / 70 % 32) ≤ 2)
      | .hbmRow => !inSet full u.num
      | _ => x.sites.any fun p => decide (p.1 = u)
    x.pushCrz (x.entry (if ok then 7 else 8) 11 u 0 0)) d

/-! #### Identity (R490, R491) -/

/-- Exclusive or of two byte strings. -/
def xorBytes (a b : List Byte) : List Byte := List.zipWith (· ^^^ ·) a b

/-- A big-endian number. -/
def beNat (b : List Byte) : Nat := b.foldl (fun a x => 256 * a + x.toNat) 0

/-- Order of the published SM2 curve (PRESUMED, log 75). -/
def sm2Order : Nat := 0xFFFFFFFEFFFFFFFFFFFFFFFFFFFFFFFF7203DF6B21C6052B53BBF40939D54123

/-- Helper data (Table 18.2) as code, check and salt, in that order (DESIGN CHOICE, log 33). -/
def Dev.helper (d : Dev) : List Byte × List Byte × List Byte :=
  let b := d.flashBytes 0x03250000 576
  (b.take 512, (b.drop 512).take 32, b.drop 544)

/-- The pseudocode of R490: the private scalar, or none where it fails. -/
def deriveKey (fp code check salt : List Byte) : Option Nat :=
  let s := Config.eccDecode (xorBytes fp code)
  if Config.sm3 (2#8 :: s) ≠ check then none
  else ((List.range 256).map fun c => beNat (Config.sm3 (1#8 :: (s ++ salt ++ toLe 1 c)))).find? fun v => decide (1 ≤ v) && decide (v ≤ sm2Order - 2)

/-- The public key of the scalar is the subject key of the device certificate (R491). -/
def Dev.keyMatches (d : Dev) (k : Nat) : Bool := decide (Config.sm2Public k = Config.certKey (d.flashBytes 0x03240000 0x10000))

/-- Derivation and comparison (R490, R491): IDREADY, or IDFAIL. -/
def Dev.identity (d : Dev) (fp : List Byte) : Dev :=
  let k := deriveKey fp d.helper.1 d.helper.2.1 d.helper.2.2
  { d with key := k }.wr rSecStatus (if k.any d.keyMatches then 1 else 2)

/-- Steps 3 to 11 of R483, once an image is verified and copied. -/
def Dev.bootRest (d : Dev) (e : BootEnv) (slot : Nat) (fb tr : Bool) : Dev :=
  let h := d.flashBytes (imageOff slot) 256
  let d1 := (((d.setFld rBootStatus 1 1 slot).setFld rBootStatus 3 3 (if fb then 1 else 0)).setFld rBootStatus 2 2
    (if tr then 1 else 0)).wr rBootImgVersion (BitVec.ofNat 32 (field h 8 4))
  let d2 := d1.wr rBootImgSvn (BitVec.ofNat 32 (field h 12 4))
  if !Config.voltageOk d2.voltageTable then d2.bootFail 2
  else
    let d3 := (match d2.mapNow with
      | some (_, c) => { d2 with repair := c.repair, sites := c.sites, absent := c.absent }
      | none => d2.setFld rBootStatus 4 4 1).crzScan
    let d4 := ((d3.identity e.fp).wr rSecSerialLo (Config.serial.setWidth 32)).wr rSecSerialHi
      ((Config.serial >>> 32).setWidth 32)
    let d5 := d4.wr rKlnSetpoint 40
    if !e.trainFail.isEmpty then d5.bootFail 3
    else
      let d6 : Dev := { (d5.stacksUp e.rowsOver) with mem := [], bad := [], wback := [] }
      let d7 : Dev := (e.bistFail.foldl (fun x u => x.bistOne u) (d6.loadMaps.retestPassed e.bistFail)).substituted e.rowsOver
      let d8 : Dev := ((d7.measures slot fb tr).wr rBootTime (BitVec.ofNat 32 e.us)).setFld rBootStatus 15 12 12
      if d8.fld rBootStatus 4 4 = 1 then d8.mapSave else d8

/-- The whole start from t = 0 (R480, R483). A power-on start raises the power-on count (DESIGN CHOICE, log 33). -/
def Dev.bootRun (d : Dev) (e : BootEnv) : Dev :=
  let (w, d1) := d.freshWord
  let b : BootCopy := match d.bootNow with
    | some (_, b) => b
    | none => { seq := 0, prefer := w.toNat % 2, trial := false, tries := 0, count := 0 }
  let d2 := if d.bootNow.isSome then d else d1
  let b1 : BootCopy := { b with tries := if b.trial then b.tries - 1 else b.tries, count := if d.board.cause = 0 then b.count + 1 else b.count }
  let d3 := if decide (b1 = b) then d2 else d2.bootWrite b1
  let d4 := ({ d3 with board := { d3.board with pgood := true } }.wr rBootCause (BitVec.ofNat 32 d.board.cause)).wr rBootPoweron
    (BitVec.ofNat 32 b1.count)
  match d.chooseImage b with
  | none => d4.bootFail 1
  | some (slot, fb, tr) => d4.bootRest e slot fb tr

/-- The flash engine works on an operation. -/
def Dev.flashBusy (d : Dev) : Bool := !d.board.fq.isEmpty && !d.board.fwait

/-- The write engine goes on with what it queued (R513). -/
def Dev.flashOn (d : Dev) : Dev := { d with board := { d.board with fwait := false } }

/-- BOOT_START (R483): from t = 0 the boot ROM runs its flow. It waits while the input is in a dip (Table 18.6), and its first reads wait for an
operation of the flash engine in progress (Table 19.9). -/
def execBootStart (e : BootEnv) (s : State) : Host.Outcome State Fault Refusal :=
  s.run fun d =>
    if !d.board.rails || d.board.dip || decide (1 < d.bootStage) then d
    else if d.flashBusy then d.setFld rBootStatus 15 12 1
    else (d.bootRun e).flashOn

/-! ### Dormant -/

/-- The fabric ports are off (R496). -/
def Dev.portsOff (d : Dev) : Dev := iter 32 (fun p x => if x.fld (rXchPortStatus p) 2 0 = 0 then x else x.portLost p 0) d

/-- The Dormant state (R495, R496): the tiles hold no state, so a firing in progress is lost and its sweep is not clean (DESIGN CHOICE, log 48); entered when no job runs and no other command is fetched and not completed; `own` is the command that asks. -/
def Dev.dormantEnter (d : Dev) (own : Option Nat) : Dev :=
  if d.studio && decide (d.job = 0) && !(d.cmds.any fun c => decide (some c.id ≠ own)) then
    { (d.portsOff.setFld rBootStatus 0 0 1) with
      tiles := [], tlbT := [], retries := []
      fire := { d.fire with
        refs := [], old := [], late := none, dirty := d.fire.dirty || !d.fire.refs.isEmpty || d.tiles.any fun p => p.2.inFiring } }
  else d.setFld rBootStatus 5 5 1

/-- DORMANT_ENTER (R495): BOOT_CTL is reached through REG_WRITE alone, so an access by BAR0 has no effect. -/
def execDormantEnter (path : Path) (s : State) : Host.Outcome State Fault Refusal :=
  s.run fun d =>
    match path with
    | .bar0 _ => d
    | _ => d.dormantEnter none

end Sys2Proof.Machine
end

