-- ==== Sys2Proof/Machine/RegAccess.lean ====
section
/-!
DEFINITION. Register accesses by their access codes (R9 to R15, R522 to R526), the standby's rights (R454, R474), the registers whose write
acts, and the event controller's registers (R470 to R474).
-/

namespace Sys2Proof.Machine

/-! ### Paths -/

/-- Window offset that an access names: through BAR0 the HIF_ block of the port at 0 and the EVC_ block at 0x1000 (R446, R465), else the
offset itself. -/
def winOff : Path → Nat → Nat
  | .bar0 p, off => if off < 0x1000 then 0x1000 + 0x1000 * p + off else if off < 0x2000 then 0x2000 + off else 0xFFFFFC
  | _, off => off

/-- A path reaches registers now: the port's BAR0 answers (R481), the ring is open and served, the Studio runs. -/
def Dev.pathOk (d : Dev) : Path → Bool
  | .bar0 p => decide (p < 2) && d.barsOn p
  | .ring p r => decide (p < 2) && decide (r < 32) && (d.ring (32 * p + r)).opn && d.studio
  | .studio => d.studio

/-- Reads of the path clear RC registers (R454, R524). -/
def Dev.pathClears (d : Dev) : Path → Bool
  | .bar0 p => p == d.owner
  | .ring p _ => p == d.owner
  | .studio => true

/-- Event controller target of a path (R465). -/
def pathTarget : Path → Nat
  | .bar0 p => p + 1
  | _ => 0

/-- Number of a target (R467). -/
def targetNum : Target → Nat
  | .studio => 0
  | .host p => p + 1

/-- Path by which a target's agent reaches the event controller. -/
def targetPath : Target → Path
  | .studio => .studio
  | .host p => .bar0 p

/-- A target exists. -/
def targetOk : Target → Bool
  | .studio => true
  | .host p => decide (p < 2)

/-- Per-target registers of the event controller, on which every agent writes its own copy (Table 17.2). -/
def evcOwn (w : Nat) : Bool := w == rEvcComplete || w == rEvcHold

/-- Registers that the standby port may write through BAR0 (Tables 16.3 and 17.2). -/
def standbyMay (p w : Nat) : Bool :=
  evcOwn w || (decide (rHifAdminCtl p ≤ w) && decide (w < rHifAdminCtl p + 0x40)) || w == rHifBar2BaseLo p || w == rHifBar2BaseHi p
    || w == rHifAbort

/-- A write by the path takes effect (R454, R474, Table 15.4). -/
def Dev.mayWrite (d : Dev) (path : Path) (w : Nat) : Bool :=
  match path with
  | .bar0 p => p == d.owner || standbyMay p w
  | .ring p _ => p == d.owner
  | .studio => true

/-! ### Event controller -/

/-- A claim by a target (R470). -/
def Dev.claim (k : Nat) (d : Dev) : Word × Dev :=
  match d.lowest k with
  | none => (0, d)
  | some s =>
    (BitVec.ofNat 32 (256 + s),
      (d.wr (rEvcPend (s / 32)) (d.rd (rEvcPend (s / 32)) &&& ~~~(BitVec.ofNat 32 (2 ^ (s % 32))))).setEvcT k
        { d.evcT k with insv := some s })

/-- Events of the same cycle (R475). -/
def Dev.raiseAll (d : Dev) (ev : List Nat) : Dev := (ev.filter fun s => decide (s < 256)).foldl (fun y s => y.raise s) d

/-- The end of a target's service (R471). -/
def Dev.complete (k : Nat) (d : Dev) : Dev := d.setEvcT k { d.evcT k with insv := none }

/-- EVC_HOLD of a target (R472). -/
def Dev.holdLine (k : Nat) (hold : Bool) (d : Dev) : Dev := d.setEvcT k { d.evcT k with hold := hold }

/-- EVC_SETi (R473). -/
def Dev.evcSet (i : Nat) (v : Word) (d : Dev) : Dev := d.wr (rEvcPend i) (d.rd (rEvcPend i) ||| v)

/-- EVC_PENDi (R473). -/
def Dev.evcClear (i : Nat) (v : Word) (d : Dev) : Dev := d.wr (rEvcPend i) (d.rd (rEvcPend i) &&& ~~~v)

/-- EVC_TGTs (R467): sources 6 to 9 are fixed. -/
def Dev.evcTgt (src : Nat) (dst : Nat) (d : Dev) : Dev :=
  if 6 ≤ src && decide (src ≤ 9) then d else d.setFld (rEvcTgt src) 1 0 dst

/-! ### Registers whose write acts -/

/-- A ring closes at once (R452, R442). Its commands run on, in a queue of their own beside a ring that opens in its place; replies held for it can no longer
be written. -/
def Dev.ringShut (d : Dev) (g : Nat) : Dev :=
  let p := g / 32
  let mine (w : Nat × List Byte) : Bool := w.1 == g % 32
  let d1 := d.setRing g { d.ring g with opn := false, closing := false }
  let d2 : Dev := { d1 with cmds := d1.cmds.map fun c => if ringG c.h = g then { c with h := { c.h with ringNo := c.h.ringNo + 64 } } else c }
  (d2.setPort p { d2.port p with held := (d2.port p).held.filter fun w => !mine w }).bump rHifReplyDrops ((d2.port p).held.filter mine).length

/-- A write to HIF_ADMINp_CTL (R442). Clearing EN closes the admin ring at once; setting it opens the ring with the values of the registers. -/
def Dev.adminCtl (p : Nat) (v : Word) (d : Dev) : Dev :=
  let now := d.fld (rHifAdminCtl p) 31 31
  let new := bitsOf v 31 31
  let keep : Word := v &&& 0x803F039F#32
  if now = 1 && new = 1 then d
  else if now = 1 then (d.wr (rHifAdminCtl p) keep).ringShut (32 * p)
  else if new = 0 then d.wr (rHifAdminCtl p) keep
  else
    ((d.wr (rHifAdminCtl p) keep).wr (rHifAdminHead p) 0).setRing (32 * p)
      { opn := true, stream := bitsOf v 21 16, prio := bitsOf v 9 8, n := min (max (bitsOf v 4 0) 4) 16, loc := bitsOf v 7 7 == 1
        cbase := d.rd64 (rHifAdminCbaseLo p), sbase := d.rd64 (rHifAdminSbaseLo p) }

/-- A write to HIF_HEARTBEAT (R455): a new value restarts the age. -/
def Dev.heartbeat (v : Word) (d : Dev) : Dev :=
  if d.rd rHifHeartbeat = v then d else (d.wr rHifHeartbeat v).wr rHifHbAge 0

/-- The hardware ABORT (R276, R460). -/
def Dev.hwAbort (d : Dev) : Dev := d.abortFlood 2

/-- A write to XCH_PORTn_CTL.EN (R530). A port of a quarantined half stays DOWN (R381). -/
def Dev.portEn (p : Nat) (en : Bool) (d : Dev) : Dev :=
  let now := d.fld (rXchPortCtl p) 0 0 == 1
  if now == en then d
  else if en then
    ((d.wr (rXchPortCtl p) 1).setFld (rXchPortStatus p) 2 0 (if d.isQuar ⟨.xchHalf, p / 16⟩ then 4 else 1)).wr (rXchPortPeer p) 0
  else (d.wr (rXchPortCtl p) 0).portLost p 0

/-- KLN_CAP in use (R393). -/
def capIn (w : Nat) : Nat := min (max w 1500) 4000

/-- A write to KLN_CAP (R393, Table 14.3): KLN_CAP_EFF becomes the new cap plus the pool's adjustment. -/
def Dev.capWrite (v : Word) (d : Dev) : Dev :=
  let w := bitsOf v 11 0
  let e : Int := (capIn w : Int) + ((d.fld rKlnCapEff 11 0 : Nat) : Int) - (capIn (d.fld rKlnCap 11 0) : Nat)
  let d1 := (d.wr rKlnCap (BitVec.ofNat 32 w)).setFld rKlnCapEff 11 0 (min (max e 0) 4095).toNat
  if capIn w ≠ w then d1.setFld rKlnStatus 6 6 1 else d1

/-- A write to KLN_CTL (R398). -/
def Dev.ctlWrite (v : Word) (d : Dev) : Dev :=
  let a := bitsOf v 5 4
  let b := bitsOf v 7 6
  let c := bitsOf v 9 8
  let d1 := d.wr rKlnCtl (v &&& 0x3F1#32)
  if a = b || b = c || a = c || a = 3 || b = 3 || c = 3 then d1.setFld rKlnStatus 7 7 1 else d1

/-- Blocks of a Shelf that leave its atomic windows have no glaze word of their data (R172; DEDUCED, log 37). -/
def Dev.leaveWindows (d0 d : Dev) (die : Nat) : Dev :=
  let gone (pa : Nat) : Bool :=
    match locate pa with
    | .shelf n off => n == die && d0.inWindow die off && !d.inWindow die off
    | _ => false
  { d with bad := (d.mem.filter fun c => gone c.1).foldl (fun a c => setIns a (c.1 / 256)) d.bad }

/-- What a write stores: RW bits as written, W1C bits cleared where 1 is written (Table 0.3, R12). -/
def RegRow.store (r : RegRow) (old v : Word) : Word :=
  (old &&& ~~~(BitVec.ofNat 32 r.rw) &&& ~~~(v &&& BitVec.ofNat 32 r.w1c)) ||| (v &&& BitVec.ofNat 32 r.rw)

/-- A converter's format register (R65, R66, Table 2.7): a new SLOT, or CLOSE, closes the slot in use once. -/
def Dev.cvtWrite (r : RegRow) (t n : Nat) (v : Word) (d : Dev) : Dev :=
  let d1 := if d.slotOf t n ≠ bitsOf v 19 8 || bitsOf v 20 20 = 1 then d.swClose t n else d
  d1.wr (rTilCvtFmt t n) (r.store (d1.rd (rTilCvtFmt t n)) v)

/-- A register of the tile pages is written. -/
def Dev.tileRegWrite (r : RegRow) (w : Nat) (v : Word) (d : Dev) : Dev :=
  let t := (w - 0x1000000) / 0x1000
  let o := w % 0x1000
  if (d.rd (rTstAbsent (t / 32))).toNat.testBit (t % 32) then d
  else if o = 0x400 || o = 0x440 then d.cvtWrite r t ((o - 0x400) / 0x40) v
  else
    let d1 := d.wr w (r.store (d.rd w) v)
    if w = rTilBsqCtl t && bitsOf v 2 2 = 1 then d1.bsqClose t else d1

/-- A register of the XCH_ block is written. -/
def Dev.xchRegWrite (r : RegRow) (w : Nat) (v : Word) (d : Dev) : Dev :=
  let p := (w - rXchPortCtl 0) / (rXchPortCtl 1 - rXchPortCtl 0)
  if w = rXchPortCtl p && decide (p < 32) then d.portEn p (bitsOf v 0 0 == 1)
  else
    let d1 := d.wr w (r.store (d.rd w) v)
    if w = rXchPortStatus p && decide (p < 32) && bitsOf v 9 9 == 1 then d1.setFab p { d1.fab p with noreq := [] } else d1

/-- A write that takes effect, at a register (R11, R430); `path` names the copy of a per-target register. -/
def Dev.regCommit (path : Path) (r : RegRow) (w : Nat) (v : Word) (d : Dev) : Dev :=
  let plain := d.wr w (r.store (d.rd w) v)
  if 0x1000000 ≤ w then d.tileRegWrite r w v
  else if rXchPortCtl 0 ≤ w && decide (w < 0x50000) then d.xchRegWrite r w v
  else if 0x100000 ≤ w then
    (let die := (w - 0x100000) / 0x10000
     if w % 0x10000 < 0x20 then Dev.leaveWindows d plain die else plain)
  else if w = rHifAdminCtl 0 then d.adminCtl 0 v
  else if w = rHifAdminCtl 1 then d.adminCtl 1 v
  else if w = rHifHeartbeat then d.heartbeat v
  else if w = rHifAbort then (if bitsOf v 0 0 = 1 then d.hwAbort else d)
  else if w = rEvcComplete then (if bitsOf v 0 0 = 1 then d.complete (pathTarget path) else d)
  else if w = rEvcHold then d.holdLine (pathTarget path) (bitsOf v 0 0 == 1)
  else if rEvcPend 0 ≤ w && decide (w < rEvcPend 8) then d.evcClear ((w - rEvcPend 0) / 4) v
  else if rEvcSet 0 ≤ w && decide (w < rEvcSet 8) then d.evcSet ((w - rEvcSet 0) / 4) v
  else if rEvcTgt 0 ≤ w && decide (w < rEvcTgt 256) then d.evcTgt ((w - rEvcTgt 0) / 4) (bitsOf v 1 0)
  else if w = rKlnCap then d.capWrite v
  else if w = rKlnCtl then d.ctlWrite v
  else if w = rTstCtl then (if bitsOf v 31 31 = 0 then { plain with fire := { plain.fire with dirty := true } } else plain)
  else if w = rBootCtl then
    (match path with
     | .bar0 _ => d
     | _ =>
       let d1 := if bitsOf v 0 0 = 1 then d.bootConfirm else d
       if bitsOf v 1 1 = 1 then d1.dormantEnter none else d1)
  else plain

/-- The staged _LO half of a path (R10). -/
def Dev.staged (d : Dev) (path : Path) (w : Nat) : Option Word :=
  (d.stage.find? fun x => decide (x.1 = path) && x.2.1 == w).map fun x => x.2.2

/-- Forget it. -/
def Dev.unstage (d : Dev) (path : Path) (w : Nat) : Dev :=
  { d with stage := d.stage.filter fun x => !(decide (x.1 = path) && x.2.1 == w) }

/-- A write of a path that has the right (R10): a _LO half waits for its _HI half. -/
def Dev.regPut (path : Path) (off : Nat) (v : Word) (d : Dev) : Dev :=
  let w := canonOff (winOff path off)
  match regRow w with
  | none => d
  | some r =>
    if r.pair = 1 then { d.unstage path w with stage := (d.unstage path w).stage ++ [(path, w, v)] }
    else if r.pair = 2 then
      (let d1 := match d.staged path (w - 4), regRow (w - 4) with
         | some lo, some rl => (d.unstage path (w - 4)).regCommit path rl (w - 4) lo
         | _, _ => d
       d1.regCommit path r w v)
    else d.regCommit path r w v

/-- A misaligned access of a host, which the host interface counts (R9). -/
def hostOdd : Path → Nat → Bool
  | .bar0 _, off => off % 4 != 0
  | _, _ => false

/-- A write of a path: a misaligned one has no effect and is counted (R9); it is discarded and counted where the path has no right
(Table 16.3). -/
def Dev.regWrite (path : Path) (off : Nat) (v : Word) (d : Dev) : Dev :=
  if hostOdd path off then d.bump rHifNarrow 1
  else if d.mayWrite path (canonOff (winOff path off)) then d.regPut path off v else d.bump rHifStbyDrops 1

/-- W1C bits of the register that a path's offset names. -/
def w1cAt (path : Path) (off : Nat) : Word :=
  match regRow (canonOff (winOff path off)) with
  | some r => BitVec.ofNat 32 r.w1c
  | none => 0

/-- A write in whose cycle events set the W1C bits `ev`: an event wins over the clear of its bit, which stays set (R14, R15). -/
def Dev.regWriteEv (path : Path) (off : Nat) (v ev : Word) (d : Dev) : Dev :=
  let m := w1cAt path off &&& ev &&& v
  let w := canonOff (winOff path off)
  let d1 := d.regWrite path off (v &&& ~~~m)
  if m = 0 || hostOdd path off then d1 else d1.wr w (d1.rd w ||| m)

/-! ### Reads -/

/-- The snapshot of a _HI half that a path holds (R526). -/
def Dev.snap (d : Dev) (path : Path) (w : Nat) : Option Word :=
  (d.latch.find? fun x => decide (x.1 = path) && x.2.1 == w).map fun x => x.2.2

/-- Forget it. -/
def Dev.unsnap (d : Dev) (path : Path) (w : Nat) : Dev :=
  { d with latch := d.latch.filter fun x => !(decide (x.1 = path) && x.2.1 == w) }

/-- A register as a path sees it. -/
def Dev.seen (d : Dev) (path : Path) (off : Nat) : Word :=
  match path with
  | .bar0 p => d.viewPort p off
  | _ => d.view off

/-- The value of a register and what the read leaves (R10, R11, R15, R525): `ev` is what events of the same cycle add to an RC counter. -/
def Dev.regGet (path : Path) (off ev : Nat) (d : Dev) : Word × Dev :=
  let w := canonOff (winOff path off)
  let t := (w - 0x1000000) / 0x1000
  if w = rEvcClaim then d.claim (pathTarget path)
  else if 0x1000000 ≤ w && (d.rd (rTstAbsent (t / 32))).toNat.testBit (t % 32) then (0, d)
  else match regRow w with
    | none => (0, d)
    | some r =>
      let v := d.seen path off
      if r.pair = 1 then
        (v, { d.unsnap path (w + 4) with latch := (d.unsnap path (w + 4)).latch ++ [(path, w + 4, d.view (w + 4))] })
      else if r.pair = 2 then
        (match d.snap path w with
         | some x => (x, d.unsnap path w)
         | none => (v, d))
      else if r.rc = 0 then (v, d)
      else if d.pathClears path then (v, (d.wr w (d.rd w &&& ~~~(BitVec.ofNat 32 r.rc))).bump w ev)
      else (v, d.bump w ev)

/-- A read by a path, with its data; a misaligned one reads as zero and is counted (R9). -/
def Dev.regTake (path : Path) (off ev : Nat) (d : Dev) : Dev :=
  if hostOdd path off then (d.bump rHifNarrow 1).emit (.regData path 0)
  else
    let r := d.regGet path off ev
    r.2.emit (.regData path r.1)

/-! ### The commands -/

/-- An access by a path that is there. -/
def State.access (s : State) (path : Path) (f : Dev → Dev) : Host.Outcome State Fault Refusal :=
  s.run fun d => if d.pathOk path then f d else d

/-- REGISTER_WRITE (R11); `ev` are the W1C bits that events of the same cycle set (R15). -/
def execRegisterWrite (path : Path) (off : Nat) (v ev : BitVec 32) (s : State) : Host.Outcome State Fault Refusal :=
  s.access path (Dev.regWriteEv path off v ev)

/-- RC_REGISTER_READ (R11, R15). -/
def execRcRegisterRead (path : Path) (off ev : Nat) (s : State) : Host.Outcome State Fault Refusal :=
  s.access path (Dev.regTake path off ev)

/-- NARROW_ACCESS (R9): to the registers of BAR0 (64 KiB), or to the doorbell pages of BAR4 (128 KiB, Table 16.2). -/
def execNarrowAccess (port : Nat) (bar4 : Bool) (off : Nat) (write : Bool) (s : State) : Host.Outcome State Fault Refusal :=
  s.runIf (hostOk port) fun d =>
    if !d.barsOn port || decide ((if bar4 then 0x20000 else 0x10000) ≤ off) then d
    else
      let d1 := d.bump rHifNarrow 1
      if write then d1 else d1.emit (.regData (.bar0 port) 0)

/-- Pair code of the register that a path's offset names. -/
def pairAt (path : Path) (off : Nat) : Nat :=
  match regRow (canonOff (winOff path off)) with
  | some r => r.pair
  | none => 0

/-- LO_HALF_READ (R10, R526). -/
def execLoHalfRead (path : Path) (off : Nat) (s : State) : Host.Outcome State Fault Refusal :=
  s.access path fun d => if pairAt path off = 1 then d.regTake path off 0 else d

/-- HI_HALF_WRITE (R10). -/
def execHiHalfWrite (path : Path) (off : Nat) (v : BitVec 32) (s : State) : Host.Outcome State Fault Refusal :=
  s.access path fun d => if pairAt path off = 2 then d.regWrite path off v else d

/-- PORT_EN_WRITE (R530): the XCH_ block is reached through the command path alone. -/
def execPortEnWrite (path : Path) (p : Nat) (en : Bool) (s : State) : Host.Outcome State Fault Refusal :=
  match path with
  | .bar0 _ => s.run id
  | _ => if p < 32 then s.access path fun d => if d.mayWrite path (rXchPortCtl p) then d.portEn p en else d else .refused .noSuchUnit

/-- HIF_ADMIN_CTL_WRITE (R442, R454). -/
def execHifAdminCtlWrite (path : Path) (p : Nat) (v : BitVec 32) (s : State) : Host.Outcome State Fault Refusal :=
  if p < 2 then
    s.access path fun d => if d.mayWrite path (rHifAdminCtl p) then d.adminCtl p v else d.bump rHifStbyDrops 1
  else .refused .noSuchUnit

/-- HEARTBEAT_WRITE (R455): from the owning port only. -/
def execHeartbeatWrite (port : Nat) (v : BitVec 32) (s : State) : Host.Outcome State Fault Refusal :=
  s.runIf (hostOk port) fun d =>
    if !d.barsOn port then d else if port = d.owner then d.heartbeat v else d.bump rHifStbyDrops 1

/-- HIF_ABORT (R460): from either port, with the Studio running or not. -/
def execHifAbort (port : Nat) (s : State) : Host.Outcome State Fault Refusal :=
  s.runIf (hostOk port) fun d => if d.barsOn port then d.hwAbort else d

/-- An access to the event controller by a target's agent: a host through its BAR0, the Studio by its own path (R465). -/
def State.evcAccess (s : State) (tgt : Target) (f : Dev → Dev) : Host.Outcome State Fault Refusal :=
  s.runIf (targetOk tgt) fun d => if d.pathOk (targetPath tgt) then f d else d

/-- A write of EVC_PENDi, EVC_SETi or EVC_TGTs has its effect, or is the standby's and is discarded and counted (Table 17.2). -/
def Dev.evcRight (tgt : Target) (f : Dev → Dev) (d : Dev) : Dev :=
  if d.mayWrite (targetPath tgt) (rEvcPend 0) then f d else d.bump rHifStbyDrops 1

/-- EVC_CLAIM (R470); `ev` are the sources whose events come in the same cycle (R475). -/
def execEvcClaim (tgt : Target) (ev : List Nat) (s : State) : Host.Outcome State Fault Refusal :=
  s.evcAccess tgt fun d =>
    let r := d.claim (targetNum tgt)
    (r.2.raiseAll ev).emit (.regData (targetPath tgt) r.1)

/-- EVC_COMPLETE (R471). -/
def execEvcComplete (tgt : Target) (s : State) : Host.Outcome State Fault Refusal := s.evcAccess tgt (Dev.complete (targetNum tgt))

/-- EVC_HOLD (R472). -/
def execEvcHold (tgt : Target) (hold : Bool) (s : State) : Host.Outcome State Fault Refusal := s.evcAccess tgt (Dev.holdLine (targetNum tgt) hold)

/-- EVC_SET (R473). -/
def execEvcSet (tgt : Target) (i : Nat) (v : BitVec 32) (s : State) : Host.Outcome State Fault Refusal :=
  if i < 8 then s.evcAccess tgt (Dev.evcRight tgt (Dev.evcSet i v)) else .refused .noSuchUnit

/-- EVC_PEND_CLEAR (R473): an event of the same cycle wins (R475). -/
def execEvcPendClear (tgt : Target) (i : Nat) (v : BitVec 32) (ev : List Nat) (s : State) : Host.Outcome State Fault Refusal :=
  if i < 8 then s.evcAccess tgt fun d => (Dev.evcRight tgt (Dev.evcClear i v) d).raiseAll ev else .refused .noSuchUnit

/-- EVC_TGT_WRITE (R467). -/
def execEvcTgtWrite (tgt : Target) (src : Nat) (dst : BitVec 2) (s : State) : Host.Outcome State Fault Refusal :=
  if src < 256 then s.evcAccess tgt (Dev.evcRight tgt (Dev.evcTgt src dst.toNat)) else .refused .noSuchUnit

end Sys2Proof.Machine
end

