-- ==== Sys2Proof/Machine/Power.lean ====
section
/-!
DEFINITION. The Kiln manager: cap, window and short-term limits (R391 to R393), knobs (R394 to R401), budget shifts (R402), release waves
(R404), droop (R407), supply dips (R408, R409), thermal control (R410, R411).
-/

namespace Sys2Proof.Machine

/-! ### Knobs -/

/-- Duty D, MEM and LINK (KLN_KNOBS). -/
structure Knobs where
  duty : Nat
  mem  : Nat
  link : Nat
deriving DecidableEq, Repr

/-- The knobs in force. -/
def Dev.knobs (d : Dev) : Knobs := { duty := d.fld rKlnKnobs 30 24, mem := d.fld rKlnKnobs 20 16, link := d.fld rKlnKnobs 12 8 }

/-- Set the knobs. -/
def Dev.setKnobs (d : Dev) (k : Knobs) : Dev := ((d.setFld rKlnKnobs 30 24 k.duty).setFld rKlnKnobs 20 16 k.mem).setFld rKlnKnobs 12 8 k.link

/-- Dynamic watts of the compute class at a setpoint code (R399): 2,820 W at code 40, an eighth for each die, rounded down (DESIGN CHOICE, log 34). -/
def dynWatts (c : Nat) : Nat :=
  (List.range 8).foldl (fun a d => a + 2820 * c * Config.tableMv d c ^ 2 / (8 * 40 * Config.tableMv d 40 ^ 2)) 0

/-- A setpoint that the loaded table has for every die (R399). -/
def codeOk (c : Nat) : Bool := (List.range 8).all fun d => decide (0 < Config.tableMv d c)

/-- The order of classes (R397, R398): 0 links, 1 memory, 2 compute. -/
def Dev.order (d : Dev) : List Nat :=
  let a := d.fld rKlnCtl 5 4
  let b := d.fld rKlnCtl 7 6
  let c := d.fld rKlnCtl 9 8
  if a = b || a = c || b = c || a = 3 || b = 3 || c = 3 then [0, 1, 2] else [a, b, c]

/-- Range of a class above its floor (Table 14.1). -/
def classRange (dyn c : Nat) : Nat := if c = 0 then 150 else if c = 1 then 352 else dyn

/-- Watts that each class of an order gets (R397). -/
def shares (dyn : Nat) : Nat → List Nat → List (Nat × Nat)
  | _, [] => []
  | r, c :: cs => (c, min r (classRange dyn c)) :: shares dyn (r - min r (classRange dyn c)) cs

/-- Watts left when compute's turn comes. -/
def computeShare (dyn : Nat) : Nat → List Nat → Nat
  | r, [] => r
  | r, c :: cs => if c = 2 then r else computeShare dyn (r - min r (classRange dyn c)) cs

/-- The base, with the floor of every class (R397). -/
def baseAndFloors : Nat := 150 + (300 + 160 + 380)

/-- Watts above the base and every floor (R397). -/
def aboveFloors (t : Nat) : Nat := t - baseAndFloors

/-- Share of a class in a list. -/
def shareOf (c : Nat) : List (Nat × Nat) → Nat
  | [] => 0
  | p :: ps => if p.1 = c then p.2 else shareOf c ps

/-- The pseudocode of R397. -/
def knobsOf (order : List Nat) (dyn t : Nat) : Knobs :=
  let g := shares dyn (aboveFloors t) order
  let k (c s : Nat) : Nat := max 1 (shareOf c g * s / classRange dyn c)
  { duty := k 2 64, mem := k 1 16, link := k 0 16 }

/-- Power that the knobs model (Table 14.1). -/
def modelled (dyn : Nat) (k : Knobs) : Nat := 150 + (300 + 150 * k.link / 16) + (160 + 352 * k.mem / 16) + (380 + dyn * k.duty / 64)

/-- A code clamped to the range of R399. -/
def clampCode (c : Nat) : Nat := min (max c 24) 46

/-- The highest of some codes that passes a test. -/
def topCode (p : Nat → Bool) : Nat → Nat → Option Nat
  | 0, _ => none
  | n + 1, lo => if p (lo + n) then some (lo + n) else topCode p n lo

/-- A code that may run now (R399, R400): the table has it, and it is at most 40 unless the hottest junction is below 85 °C. -/
def Dev.mayRun (d : Dev) (c : Nat) : Bool := codeOk c && (decide (c ≤ 40) || decide (d.fld rKlnTj 7 0 < 85))

/-- The setpoint of a bin (R400, R401). Where none fits and FMIN may not run, the highest code below it that may (DESIGN CHOICE, log 34). -/
def Dev.chooseCode (d : Dev) (t : Nat) : Nat :=
  if d.fld rKlnCtl 0 0 = 1 then 40
  else
    let lo := clampCode (d.fld rKlnFreq 7 0)
    let hi := clampCode (d.fld rKlnFreq 15 8)
    let fits (c : Nat) : Bool := d.mayRun c && decide (dynWatts c ≤ computeShare (dynWatts c) (aboveFloors t) d.order)
    match topCode fits (hi + 1 - lo) lo with
    | some c => c
    | none => (topCode d.mayRun (lo + 1 - 24) 24).getD 40

/-- The limits on D (R408, Table 14.3, Table 14.4): the lowest applies. -/
def Dev.limitDuty (d : Dev) (n : Nat) : Nat := if d.fld rKlnStatus 5 5 = 1 then min n 16 else n

/-- Set setpoint and knobs from a budget. -/
def Dev.applyBudget (d : Dev) (c t : Nat) : Dev :=
  let k := knobsOf d.order (dynWatts c) t
  let d1 := ((d.setFld rKlnSetpoint 7 0 c).setFld rKlnStatus 0 0 (if 40 < c then 1 else 0)).setKnobs { k with duty := d.limitDuty k.duty }
  { d1 with kiln := { d1.kiln with t := t, duty := k.duty, model := modelled (dynWatts c) { k with duty := d.limitDuty k.duty } } }

/-! ### Bins and short-term limits -/

/-- The package floor and the clamp of a budget (R391). -/
def clampBudget (t : Int) : Nat := min (max t 990).toNat 4800

/-- KLN_CAP_EFF, below the clamp of R393. -/
def Dev.capEff (d : Dev) : Nat := min (max (d.fld rKlnCapEff 11 0) 1500) 4000

/-- KLN_WINDOW.MS (R393). -/
def Dev.window (d : Dev) : Nat := min (max (d.fld rKlnWindow 12 0) 500) 8000

/-- Sum of a list. -/
def sumL (l : List Nat) : Nat := l.foldl (· + ·) 0

/-- The window's budget of a bin (R391): the largest that keeps the window at the cap, corrected by the difference between measured and
modelled power of the last bin. -/
def Dev.windowBudget (d : Dev) (last : Nat) : Nat :=
  clampBudget (((d.capEff * d.window : Nat) : Int) - (sumL (d.kiln.bins.take (d.window - 1)) : Nat) - ((last : Int) - (d.kiln.model : Int)))

/-- The thermal limit of the next bin (R410): 160 W below the last budget while the condition holds, 160 W up for each bin once every sensor is
cool, until it no longer limits. -/
def thermLimit (k : Kiln) (t : Nat) : Option Nat :=
  if k.hot then some (clampBudget ((k.t : Int) - 160))
  else match k.lim with
    | none => none
    | some l => if k.cool then (if t ≤ l + 160 then none else some (l + 160)) else some l

/-- The thermal throttle is lifted through a release wave over every row (R404, R409). -/
def allRows : List Nat := List.range 128

/-- Some knob stands below full. -/
def Knobs.below (k : Knobs) : Bool := decide (k.duty < 64) || decide (k.mem < 16) || decide (k.link < 16)

/-- KILN_BIN (R391, R397, R400, R410): a 1 ms bin ends with its measured power, and the next begins. -/
def Dev.kilnBin (d : Dev) (w : Nat) : Dev :=
  let d1 := { (d.setFld rKlnPin 15 0 w) with kiln := { d.kiln with bins := (w :: d.kiln.bins).take 8000 } }
  let d2 := d1.setFld rKlnPavg 15 0 (sumL (d1.kiln.bins.take d1.window) / d1.window)
  let t0 := d2.windowBudget w
  let t1 := if d2.kiln.exc then min t0 d2.capEff else t0
  let lim := thermLimit d2.kiln t1
  let d3 : Dev := { d2 with kiln := { d2.kiln with lim := lim, lift := if lim.isNone && d2.kiln.lim.isSome then allRows else d2.kiln.lift } }
  let therm := lim.isSome || d3.kiln.hot
  let d4 := (d3.setFld rKlnStatus 4 4 (if therm then 1 else 0)).setFld rKlnStatus 1 1
    (if (knobsOf d3.order (dynWatts (d3.chooseCode t0)) t0).below then 1 else 0)
  let t := min t1 (lim.getD t1)
  (d4.applyBudget (d4.chooseCode t) t).setFld rKlnStatus 2 2 0

/-- KILN_BIN (R391). -/
def execKilnBin (watts : Nat) (s : State) : Host.Outcome State Fault Refusal := s.run fun d => if d.board.pgood then d.kilnBin watts else d

/-- POWER_SAMPLE (R392): the fast limit lowers D one level while the 10 µs average is at or above 4,700 W; an excursion ends when the input is back
at the cap. -/
def execPowerSample (watts avg10 : Nat) (s : State) : Host.Outcome State Fault Refusal :=
  s.run fun d =>
    if !d.board.pgood then d
    else
      let within := decide (watts ≤ d.capEff)
      let d1 := if within then { d with kiln := { d.kiln with exc := false } }.setFld rKlnStatus 3 3 0 else d
      if avg10 < 4700 then d1.setFld rKlnStatus 2 2 0
      else
        let d2 := (d1.setKnobs { d1.knobs with duty := max 1 (d1.knobs.duty - 1) }).setFld rKlnStatus 2 2 1
        if d1.knobs.duty ≤ 1 then d2 else d2.bump rKlnFastLimits 1

/-- EXCURSION_LIMIT (R392): an excursion above the cap has reached 10 ms; the setpoint changes at a bin only (R400). -/
def execExcursionLimit (s : State) : Host.Outcome State Fault Refusal :=
  s.run fun d =>
    if d.kiln.exc || !d.board.pgood then d
    else
      let d1 := ({ d with kiln := { d.kiln with exc := true } }.setFld rKlnStatus 3 3 1).bump rKlnExcursions 1
      d1.applyBudget (d1.fld rKlnSetpoint 7 0) (min d1.kiln.t d1.capEff)

/-! ### Issue windows and waves -/

/-- Duty that a tile row runs at: a row that a lifting wave has not reached stays at duty 1/4 (Table 14.3). -/
def Dev.rowDuty (d : Dev) (g : Nat) : Nat := if inSet d.kiln.lift g then min d.knobs.duty 16 else d.knobs.duty

/-- Ramp level of window `w` at duty D (R394). -/
def windowLevel (duty w : Nat) : Nat :=
  let f := duty % 16
  if w * f / 16 < (w + 1) * f / 16 then duty / 16 + 1 else duty / 16

/-- DUTY_WINDOW (R394, R405): the next issue window of a row begins. -/
def execDutyWindow (d row : Nat) (s : State) : Host.Outcome State Fault Refusal :=
  s.runIf (decide (d < 8) && decide (row < 16)) fun x =>
    let g := 16 * d + row
    let w := SMap.get 0 x.kiln.wins g
    { x with caps := SMap.set x.caps g (windowLevel (x.rowDuty g) w), kiln := { x.kiln with wins := SMap.set x.kiln.wins g (w + 1) } }

/-- Released WAITs of tiles in a row (R404): the tiles resume. -/
def Dev.releaseRow (d : Dev) (g : Nat) : Dev :=
  let hit (d : Dev) (w : Waiter) : Option Nat :=
    match w.who with
    | .tile t => if w.released && 16 * dieOf t + d.rowOf t == g && decide ((d.tile t).ctx.run = .waiting) && decide ((d.tile t).busy = .none)
        then some t else none
    | _ => none
  let ts := d.waiters.filterMap (hit d)
  let d1 : Dev := { d with waiters := d.waiters.filter fun w => (hit d w).isNone }
  ts.foldl (fun x t => x.waitOver t) d1

/-- WAVE_ROW_RELEASE (R404): a wide release reaches a tile row. -/
def execWaveRowRelease (d row : Nat) (s : State) : Host.Outcome State Fault Refusal :=
  s.runIf (decide (d < 8) && decide (row < 16)) fun x =>
    ({ x with kiln := { x.kiln with lift := setDel x.kiln.lift (16 * d + row) } }.releaseRow (16 * d + row))

/-! ### Droop -/

/-- A core-rail reading is below the droop detectors' level (R407). -/
def Dev.droops (d : Dev) (die mv : Nat) : Bool :=
  decide (mv + d.fld rKlnDroopCfg 7 0 < Config.tableMv die (d.fld rKlnSetpoint 7 0))

/-- DROOP_DETECT (R407): a core rail reads `mv` millivolts; below the level, the die's clock stretches. -/
def execDroopDetect (d mv : Nat) (s : State) : Host.Outcome State Fault Refusal :=
  s.runIf (decide (d < 8)) fun x =>
    if inSet x.kiln.slow d || !x.droops d mv then x else { x with kiln := { x.kiln with slow := setIns x.kiln.slow d } }.bump (rKlnDroopEvents d) 1

/-- DROOP_END (R407): the stretch ends after so many lengthened cycles. -/
def execDroopEnd (d cycles : Nat) (s : State) : Host.Outcome State Fault Refusal :=
  s.runIf (decide (d < 8)) fun x =>
    if inSet x.kiln.slow d then { x with kiln := { x.kiln with slow := setDel x.kiln.slow d } }.bump (rKlnDroopCycles d) cycles else x

/-! ### Supply dips -/

/-- A reading of the input: KLN_VIN, and the lowest since power-on. -/
def Dev.vinRead (d : Dev) (mv : Nat) : Dev :=
  let d1 := if d.board.pgood then d.setFld rKlnVin 15 0 (min mv 65535) else d
  if mv < d1.fld rKlnVinMin 15 0 then d1.setFld rKlnVinMin 15 0 mv else d1

/-- The input falls below 42.0 V (R408): D is at most 16 at once, so no row stays above level 1. -/
def Dev.vinLow (d : Dev) : Dev :=
  if d.board.dip then d
  else
    let d1 : Dev := { d with board := { d.board with dip := true } }
    if !d.board.pgood then d1
    else
      let d2 := ((d1.setFld rKlnStatus 5 5 1).bump rKlnVinWarn 1).raise 2
      { d2.setKnobs { d2.knobs with duty := min d2.knobs.duty 16 } with
        caps := (List.range 128).map fun g => (g, min 1 (SMap.get 4 d2.caps g)) }

/-- VIN_WARNING (R408). -/
def execVinWarning (mv : Nat) (s : State) : Host.Outcome State Fault Refusal :=
  s.run fun d => if mv < 42000 then (d.vinRead mv).vinLow else d

/-- The supply throttle lifts (R409): D returns to the budget's value through a release wave. -/
def Dev.vinLift (d : Dev) : Dev :=
  if d.fld rKlnStatus 5 5 = 0 then d
  else
    let d1 := { (d.setFld rKlnStatus 5 5 0) with kiln := { d.kiln with lift := allRows } }
    d1.setKnobs { d1.knobs with duty := d1.kiln.duty }

/-- VIN_RECOVER (R409, Table 14.3): the input is above 42.5 V again; rails that MOD_EN asks for start (R479). A deep dip
that reset the module is not counted: the boot has not begun. -/
def execVinRecover (mv : Nat) (s : State) : Host.Outcome State Fault Refusal :=
  s.run fun d =>
    if mv ≤ 42500 then d
    else
      let d1 := d.vinRead mv
      let ran := d1.board.deep && d1.bootStage != 0
      let d2 : Dev := { d1 with board := { d1.board with deep := false, hold := d1.board.hold || ran } }.bump rKlnVinDeep (if ran then 1 else 0)
      let d3 : Dev := { d2 with board := { d2.board with dip := false } }.railsStart
      if d3.board.hold then d3 else d3.vinLift

/-- VIN_DEEP (R409): the input falls below 38.0 V, and the 2 µs timer starts. -/
def execVinDeep (mv : Nat) (s : State) : Host.Outcome State Fault Refusal :=
  s.run fun d =>
    if mv < 38000 then
      let d1 := (d.vinRead mv).vinLow
      { d1 with board := { d1.board with deep := true } }
    else d

/-- VIN_DEEP_EXPIRY (R409): more than 2 µs below 38.0 V is a module reset. -/
def execVinDeepExpiry (s : State) : Host.Outcome State Fault Refusal :=
  s.run fun d =>
    if d.board.deep && d.board.standby then
      let d1 := d.moduleReset 3
      { d1 with board := { d1.board with hold := false } }
    else d

/-- VIN_HOLD_EXPIRY (R409): the input has stayed above 42.5 V for 1 ms after a deep dip. -/
def execVinHoldExpiry (s : State) : Host.Outcome State Fault Refusal :=
  s.run fun d =>
    if d.board.hold && !d.board.dip then { d with board := { d.board with hold := false } }.vinLift else d

/-! ### Thermal control -/

/-- The largest of some readings, and the first place it stands at. -/
def hottest : List Nat → Nat × Nat
  | [] => (0, 0)
  | a :: l => let r := hottest l; if r.2 ≤ a then (0, a) else (r.1 + 1, r.2)

/-- Stack temperatures as read (Table 6.6). -/
def Dev.stackTemps (d : Dev) (hbm : List Nat) : Dev :=
  iter (min 16 hbm.length) (fun k x => x.setFld (rHbmTemp k) 7 0 (min 255 (nth 0 hbm k))) d

/-- THERMAL_SAMPLE (R410, R411): the throttle, and the shutdown after two consecutive readings at its levels. -/
def Dev.thermal (d : Dev) (tj hbm : List Nat) : Dev :=
  let j := hottest tj
  let h := hottest hbm
  let d1 := ((d.stackTemps hbm).setFld rKlnTj 15 8 j.1).setFld rKlnTj 7 0 (min 255 j.2)
  let hot := decide (95 ≤ j.2) || decide (95 ≤ h.2)
  let cool := decide (j.2 < 92) && decide (h.2 < 92)
  let shut := decide (110 ≤ j.2) || decide (105 ≤ h.2)
  if shut && d1.kiln.shut then ((d1.setFld rKlnStatus 8 8 1).railsOff true d1.board.cause).alert 1
  else
    let enters := hot && d1.fld rKlnStatus 4 4 == 0
    let leaves := cool && d1.kiln.lim.isNone
    let d2 : Dev := { d1 with kiln := { d1.kiln with hot := hot, cool := cool, shut := shut } }
    if enters then ((d2.setFld rKlnStatus 4 4 1).bump rKlnThermThrottles 1).raise 1
    else if leaves then d2.setFld rKlnStatus 4 4 0
    else d2

/-- THERMAL_SAMPLE (R410). -/
def execThermalSample (tj hbm : List Nat) (s : State) : Host.Outcome State Fault Refusal :=
  s.run fun d => if d.board.pgood then d.thermal tj hbm else d

/-! ### Budget shifts -/

/-- Mean slack of the last STEPS committed steps, rounded down (R402). -/
def Dev.meanSlack (d : Dev) (steps : Nat) : Nat := sumL (d.slacks.take steps) / steps

/-- KLN_POOL.STEPS: 0 acts as 1. -/
def Dev.poolSteps (d : Dev) : Nat := max 1 (d.fld rKlnPool 15 0)

/-- Donor and taker of R402. -/
def Dev.donor (d : Dev) : Bool :=
  decide ((d.rd rKlnShiftHi).toNat ≤ d.meanSlack d.poolSteps)
    && decide (d.fld rKlnShiftMin 11 0 + d.fld rKlnShiftW 11 0 ≤ d.fld rKlnCapEff 11 0)

/-- See `Dev.donor`. -/
def Dev.taker? (d : Dev) : Bool :=
  decide (d.meanSlack d.poolSteps ≤ (d.rd rKlnShiftLo).toNat) && decide (d.fld rKlnCapEff 11 0 + d.fld rKlnShiftW 11 0 ≤ 4000)

/-- A COMMIT that makes UPD_STEP a multiple of STEPS starts a shift (R402): the Studio runs the pool's ALL_REDUCE at priority 3.
`base` keeps what the device was found to be. -/
def Dev.budgetStart (d : Dev) : Dev :=
  if d.fld rKlnPool 31 31 = 0 || d.rd64 rUpdStepLo % d.poolSteps ≠ 0 then d
  else
    let a := if d.donor then 1 else 0
    let b := if d.taker? then 1 else 0
    (d.addX { d.newX (2 ^ 25) 4 [] 0 3 grpNone with val := a + 2 ^ 32 * b, base := a + 2 * b }).startShift

/-- BUDGET_SHIFT_APPLY (R402). -/
def execBudgetShiftApply (s : State) : Host.Outcome State Fault Refusal :=
  s.run fun d =>
    match (if d.alive then d.xop? (2 ^ 25) else none) with
    | none => d
    | some x =>
      if !x.vdone || !x.free then d
      else
        let h := x.val % 2 ^ 32
        let z := x.val / 2 ^ 32 % 2 ^ 32
        let cap := d.fld rKlnCapEff 11 0
        let w := d.fld rKlnShiftW 11 0
        let d1 := d.xEnd x false 0
        if h = 0 || z = 0 then d1
        else
          let c1 := if x.base % 2 = 1 then cap - w else cap
          let c2 := if x.base / 2 = 1 then c1 + min (h * w / z) (4000 - c1) else c1
          (d1.setFld rKlnCapEff 11 0 c2).bump rKlnShifts 1

end Sys2Proof.Machine
end

