-- ==== Sys2Proof/Machine/Update.lean ====
section
/-!
DEFINITION. The update engine (R315 to R334): validation of update records, record outcomes, the two rules, Trim, the compute view; the end
of the Cone's evaluation (R340).
-/

namespace Sys2Proof.Machine

/-! ### The update record -/

/-- Fields of an update record (Table 11.3). -/
structure URec where
  group  : Nat
  flags  : Nat
  rows   : Nat
  cols   : Nat
  tensor : Nat
  row0   : Nat
  nrows  : Nat
  col0   : Nat
  ncols  : Nat
  ufirst : Nat
  ucount : Nat
  master : Nat
  trim   : Nat
  view   : Nat
  viewx  : Nat
  grad   : Nat
  count  : Nat
  work   : Nat
  shard  : Nat
  sync   : Nat
  tmo    : Nat
  done   : Nat
deriving DecidableEq, Repr

/-- The fields of 128 record bytes. -/
def urec (b : List Byte) : URec :=
  { group := field b 2 1, flags := field b 3 1, rows := field b 4 4, cols := field b 8 4, tensor := field b 12 4, row0 := field b 16 4
    nrows := field b 20 4, col0 := field b 24 4, ncols := field b 28 4, ufirst := field b 32 4, ucount := field b 36 4
    master := field b 40 8, trim := field b 48 8, view := field b 56 8, viewx := field b 64 8, grad := field b 72 8
    count := field b 80 8, work := field b 88 8, shard := field b 96 2, sync := field b 98 2 % 8192, tmo := field b 100 4
    done := field b 104 8 }

/-- The layer has the two dimensions that whitening needs (R324). -/
def URec.wide (r : URec) : Bool := decide (2 ≤ r.rows) && decide (2 ≤ r.cols)

/-- Offsets of the fields that break R327, for a record of a whitened group. -/
def URec.bad327 (r : URec) : List (Bool × Nat) :=
  [(decide (16384 < min r.rows r.cols), 4), (r.row0 != 0, 16), (r.nrows != r.rows, 16), (r.col0 != 0, 24), (r.ncols != r.cols, 28)
  , (r.ufirst != 0, 32), (r.ucount != r.nrows * r.ncols, 36), (r.shard != 0xFFFF, 96)]

/-- Offsets of the fields that break R333, for any record. -/
def URec.bad333 (r : URec) : List (Bool × Nat) :=
  [(decide (2 ≤ r.flags), 3), (r.rows == 0 || r.cols == 0, 4), (decide (r.rows < r.row0 + r.nrows), 16), (r.col0 % 64 != 0, 24)
  , (r.ncols % 64 != 0 || decide (r.cols < r.col0 + r.ncols), 28), (r.ufirst % 64 != 0, 32)
  , (r.ucount % 64 != 0 || decide (r.nrows * r.ncols < r.ufirst + r.ucount), 36)
  , (r.shard != 0xFFFF && decide (4095 < r.shard), 96), (r.shard != 0xFFFF && r.tmo == 0, 100)]

/-- The lowest offset among the failed checks. -/
def lowestBad (l : List (Bool × Nat)) : Option Nat :=
  l.foldl (fun a p => if p.1 then (match a with
    | some o => some (min o p.2)
    | none => some p.2) else a) none

/-- RULE of a group's UPD_GRPn_CTL (Table 11.6). -/
def ruleOf (ctl : Word) : Nat := bitsOf ctl 30 29

/-- The first field of an update record that validation refuses (R327, R333). -/
def Dev.updBad (d : Dev) (b : List Byte) : Option Nat :=
  let r := urec b
  let w := ruleOf (d.rd (rUpdGrpCtl r.group)) == 1
  lowestBad (r.bad333 ++ (if w && r.wide then r.bad327 else []) ++ [(w && (r.work == 0 || r.work % 256 != 0), 88), (!allZero (b.drop 112), 112)])

/-- Validate an update record (R328, R333, R424) and the group that SHARDGRP names (R286; DEDUCED, log 35). -/
def Dev.updCheck (va : Nat) (d : Dev) : Dev × Chk (List Byte × Option Grp) :=
  andChk (Dev.stuRead va 128 d) fun b d1 =>
    let r := urec b
    if 63 < r.group then (d1, .bad 0x12 r.group)
    else
      match lowestBad ((d1.updBad b).map (fun o => (true, o)) |>.toList) with
      | some o => (d1, .bad stBadParam (badField 0 o 1))
      | none =>
        if r.shard = 0xFFFF then (d1, .ok (b, none))
        else
          andChk (Dev.stuGroup r.shard d1) fun og d2 =>
            match og with
            | none => (d2, .bad stBadParam (badField 0 96 1))
            | some g => rejectAt g.badAt 3 d2 fun d3 => (d3, .ok (b, some g))

/-! ### Exact arithmetic of one element -/

/-- An exact number `n * 2^e`. -/
abbrev Dy := Int × Int

/-- Sum. -/
def dyAdd (a b : Dy) : Dy :=
  let e := min a.2 b.2
  (a.1 * (2 ^ (a.2 - e).toNat : Nat) + b.1 * (2 ^ (b.2 - e).toNat : Nat), e)

/-- Product. -/
def dyMul (a b : Dy) : Dy := (a.1 * b.1, a.2 + b.2)

/-- Negation. -/
def dyNeg (a : Dy) : Dy := (-a.1, a.2)

/-- `a` is at most `b`. -/
def dyLe (a b : Dy) : Bool := decide ((dyAdd b (dyNeg a)).1 ≥ 0)

/-- The value of finite FP32 bits. -/
def dyOf (bits : Nat) : Dy :=
  match fdecode 24 (-149) bits with
  | .fin neg m e => (if neg then -(m : Int) else (m : Int), e)
  | _ => (0, 0)

/-- FP32 bits are finite. -/
def isFin32 (bits : Nat) : Bool := !nonfin32 bits

/-- Round to FP32 (RNE). -/
def dyBits (a : Dy) : Nat := (fencode fmt32 false (.fin (decide (a.1 < 0)) a.1.natAbs a.2)).bits

/-- Round to an integer (RNE). -/
def dyRne (a : Dy) : Int :=
  if 0 ≤ a.2 then a.1 * (2 ^ a.2.toNat : Nat)
  else
    let q : Int := roundShift 0 a.1.natAbs (-a.2).toNat false
    if a.1 < 0 then -q else q

/-- Exponent of `ulp(w)` of a finite BF16 (R315). -/
def ulpExp (w : Nat) : Int := max ((w / 128 % 256 : Nat) : Int) 1 - 134

/-- The effective value of a finite master and its Trim (R315). -/
def effective (w : Nat) (t : Int) : Dy := dyAdd (dyOf (w * 65536)) (t, ulpExp w - 8)

/-- One updated element: master, Trim, the value of the view as FP32 bits, and the counts of R317. -/
structure UElem where
  w      : Nat
  t      : Int
  v      : Nat
  nonfin : Nat
  sat    : Nat
  tsat   : Nat
deriving DecidableEq, Repr

/-- The largest finite BF16. -/
def bf16Top : Nat := 0x7F7F

/-- R317: `u`, `a` and `b` are FP32 bits. A value that rounds to an infinity clamps the master, and then the Trim. -/
def updateElem (w : Nat) (t : Int) (u a b : Nat) : UElem :=
  if nonfin32 (w * 65536) then { w := w, t := t, v := w * 65536, nonfin := 1, sat := 0, tsat := 0 }
  else
    let x := effective w t
    let x1 := dyBits (dyAdd x (dyNeg (dyAdd (dyMul (dyOf a) (dyOf u)) (dyMul (dyOf b) x))))
    let r := (toBf16 false 0 x1).bits
    let sat := decide (r % 32768 = 0x7F80)
    let w1 := if sat then (if neg32 x1 then 0x8000 + bf16Top else bf16Top) else r
    let k : Dy := (1, 8 - ulpExp w1)
    let d : Int := if nonfin32 x1 then (if neg32 x1 then -128 else 128) else dyRne (dyMul (dyAdd (dyOf x1) (dyNeg (dyOf (w1 * 65536)))) k)
    let ts := decide (127 < d.natAbs)
    let t1 : Int := if ts then (if d < 0 then -127 else 127) else d
    { w := w1, t := t1, v := dyBits (effective w1 t1), nonfin := 0, sat := if sat then 1 else 0, tsat := if ts then 1 else 0 }

/-! ### Random rounding of the view -/

/-- R320. -/
def mix64 (z : BitVec 64) : BitVec 64 :=
  let a := (z ^^^ (z >>> 31)) * 0xD6E8FEB86659FD93#64
  let b := (a ^^^ (a >>> 29)) * 0xA5CB3A0F1D476E2B#64
  b ^^^ (b >>> 32)

/-- R320. -/
def rand16 (seed step tensor i : Nat) : Nat :=
  let key := mix64 (mix64 (BitVec.ofNat 64 seed ^^^ BitVec.ofNat 64 step) ^^^ BitVec.ofNat 64 tensor)
  (mix64 (key ^^^ BitVec.ofNat 64 (i / 4))).toNat / 2 ^ (16 * (i % 4)) % 65536

/-- Index in the whole layer of element `j` of the shard (R321). -/
def URec.index (r : URec) (j : Nat) : Nat := (r.row0 + j / r.ncols) * r.cols + (r.col0 + j % r.ncols)

/-! ### Square roots of quotients -/

/-- The correctly rounded FP32 square root of `n * 2^e / m`. -/
def sqrtQuot (n m : Nat) (e : Int) : Nat :=
  if n = 0 || m = 0 then 0
  else
    let odd := e % 2 = 1
    let n1 := if odd then 2 * n else n
    let e1 := if odd then e - 1 else e
    let sh := 128 + 2 * Nat.log2 m
    let q := n1 * 2 ^ sh / m
    let r := isqrt q
    (roundMag 24 (-149) 0 r ((e1 - sh) / 2) (decide (r * r ≠ q) || decide (n1 * 2 ^ sh % m ≠ 0))).mag

/-! ### Whitened sign -/

/-- One product element: an FP32 VFMA chain from +0 (R325). -/
def chain (xs ys : List Nat) : Nat := (xs.zip ys).foldl (fun c p => (fma fmt32 false false p.1 p.2 c).bits) 0

/-- Columns of a matrix of `n` columns. -/
def columns (n : Nat) (m : List (List Nat)) : List (List Nat) := (List.range n).map fun j => m.map fun r => nth 0 r j

/-- Product of two matrices; the right one has `n` columns. -/
def matMul (n : Nat) (a b : List (List Nat)) : List (List Nat) := a.map fun r => (columns n b).map fun c => chain r c

/-- A matrix by its element function. -/
def matOf (m : Nat) (f : Nat → Nat → Nat) : List (List Nat) := (List.range m).map fun i => (List.range m).map (f i)

/-- Element of a matrix. -/
def matAt (a : List (List Nat)) (i j : Nat) : Nat := nth 0 (nth [] a i) j

/-- The identity. -/
def matOne (m : Nat) : List (List Nat) := matOf m fun i j => if i = j then 0x3F800000 else 0

/-- The residual of `p` is at most `tol` (R324); a NaN on either side is not. -/
def converged (m : Nat) (tol : Nat) (p : List (List Nat)) : Bool :=
  (List.range m).all fun i => (List.range m).all fun j =>
    let x := matAt p i j
    let d := dyAdd (dyOf x) (if i = j then (-1, 0) else (0, 0))
    isFin32 x && !isNan (fdecode 24 (-149) tol) && !(neg32 tol && mag32 tol != 0) && (nonfin32 tol || dyLe ((d.1.natAbs : Int), d.2) (dyOf tol))

/-- Halves: `1.5 i - 0.5 p`, one rounding for each element. -/
def nsFactor (m : Nat) (p : List (List Nat)) : List (List Nat) :=
  matOf m fun i j =>
    let x := matAt p i j
    if isFin32 x then dyBits (dyAdd (if i = j then (3, -1) else (0, 0)) (dyMul (-1, -1) (dyOf x)))
    else (fmul fmt32 false 0xBF000000 x).bits

/-- The iteration of R324; `none` is the fallback. -/
def nsLoop (m tol : Nat) : Nat → List (List Nat) → List (List Nat) → Option (List (List Nat))
  | n, y, z =>
    match n with
    | 0 => if converged m tol (matMul m z y) then some z else none
    | k + 1 =>
      let p := matMul m z y
      if converged m tol p then some z
      else
        let tt := nsFactor m p
        nsLoop m tol k (matMul m y tt) (matMul m tt z)

/-- Result of whitening: the direction by row, or the fallback; whether epsilon was raised. -/
structure Whitened where
  u      : Option (List Nat)
  raised : Bool
deriving DecidableEq, Repr

/-- R324: the direction of a matrix of signs (FP32 bits, by row). -/
def whiten (rows cols : Nat) (s : List (List Nat)) (epsProg itmax tol : Nat) : Whitened :=
  let m := min rows cols
  let st := columns cols s
  let a := if rows ≤ cols then matMul rows s st else matMul cols st s
  let tr := (s.map fun r => (r.filter fun x => mag32 x != 0).length).foldl (· + ·) 0
  let epsMin := quotBits (.fin false tr (-20)) (.fin false m 0)
  let raised := fcmp fmt32 false epsProg epsMin == some (-1)
  let eps := if raised then epsMin else epsProg
  let c := dyBits (dyAdd (tr, 0) (dyMul (m, 0) (dyOf eps)))
  if !isFin32 eps || !isFin32 c then { u := none, raised := raised }
  else
    let y := matOf m fun i j =>
      let v := dyAdd (dyOf (matAt a i j)) (if i = j then dyOf eps else (0, 0))
      quotBits (.fin (decide (v.1 < 0)) v.1.natAbs v.2) (fdecode 24 (-149) c)
    match nsLoop m tol itmax y (matOne m) with
    | none => { u := none, raised := raised }
    | some z =>
      let kappa := match fdecode 24 (-149) c with
        | .fin _ mc ec => sqrtQuot (max rows cols) mc (-ec)
        | _ => 0
      let v := if rows ≤ cols then matMul cols z s else matMul cols s z
      { u := some (v.flatMap fun r => r.map fun x => (fmul fmt32 false kappa x).bits), raised := raised }

/-! ### Running a record -/

/-- The tile on which the engine works for a record: the lowest of the command's tiles that runs for it, unparked and not being saved. -/
def Dev.updTile (d : Dev) (u : UpdRun) : Option Nat :=
  match d.cmd? u.cmd with
  | some c => c.tiles.find? fun t =>
      decide ((d.tile t).ctx.run = .updating) && decide ((d.tile t).ctx.cmd = some u.cmd) && decide ((d.tile t).busy = .none)
        && !d.isParked (.tile t) && !d.tileRetry t
  | none => none

/-- Virtual address of the record that an UPDATE names. -/
def Dev.updVa (d : Dev) (u : UpdRun) : Nat :=
  match d.cmd? u.cmd with
  | some c => (match c.op with
      | .update va _ _ _ _ => va.toNat
      | _ => 0)
  | none => 0

/-- Replace an update record's run, found by its command. -/
def Dev.setUpd (d : Dev) (u : UpdRun) : Dev := { d with upds := d.upds.map fun x => if x.cmd = u.cmd then u else x }

/-- The record's work is over (Table 11.2). -/
def Dev.updDone (d : Dev) (u : UpdRun) (mark : Bool) (status detail : Nat) : Dev :=
  d.setUpd { u with stage := .written, mark := mark, status := status, detail := detail }

/-- Set a bit of UPD_STATUS when a condition holds (Table 11.5). -/
def Dev.updFlag (d : Dev) (c : Bool) (bit : Nat) : Dev := if c then d.setFld rUpdStatus bit bit 1 else d

/-- A record breaks R327: its shape, or its work area. -/
def URec.breaks327 (r : URec) : Bool := (lowestBad r.bad327).isSome || r.work == 0 || r.work % 256 != 0

/-- The settings of R329, as the engine keeps them: CTL, LAMBDA, FLOOR, EPS, TOL, ETA, UPD_STEP, RULE in force. -/
def Dev.updSettings (d : Dev) (r : URec) : List Nat × Bool :=
  let ctl := d.rd (rUpdGrpCtl r.group)
  let rule := ruleOf ctl
  let late := rule == 1 && r.wide && r.breaks327
  let eff := if rule == 1 && r.wide && !late then 1 else 0
  ([ctl.toNat, (d.rd (rUpdGrpLambda r.group)).toNat, (d.rd (rUpdGrpFloor r.group)).toNat, (d.rd (rUpdGrpEps r.group)).toNat
   , (d.rd (rUpdGrpTol r.group)).toNat, (d.rd (rConeGrpEta r.group)).toNat, d.rd64 rUpdStepLo, eff], late || decide (2 ≤ rule))

/-- Exchange key of a record's sum of squares (R533). -/
def URec.key (r : URec) : Nat := 2 ^ 24 + r.tensor % 2 ^ 24

/-- Head of a layer's sum of squares (R323). -/
def URec.head (r : URec) : Nat := ceilLog2 (r.rows * r.cols) + 1

/-- Master values of the shard as FP32 words. -/
def Dev.shardWords (ag : Agent) (stream : Nat) (r : URec) (d : Dev) : Dev × Option (List Nat) :=
  thenDo (Dev.vread ag stream r.master (2 * (r.nrows * r.ncols)) d) fun bs d1 => (d1, some (srcWords 2 bs [] (r.nrows * r.ncols)))

/-- A sum of squares is known: 255 makes it infinite, 0 makes it 0 (R323). -/
def sumOf (eg head : Nat) (s : Int) : SumSq := if eg = 255 then .inf else if eg = 0 then .val 0 0 else .val s (sumK eg head)

/-- The sum of squares over the shard alone (R323). -/
def Dev.sumLocal (d : Dev) (r : URec) (ag : Agent) (stream : Nat) : Dev × Option SumSq :=
  thenDo (Dev.shardWords ag stream r d) fun ws d1 =>
    let eg := maxExp (srcExps 1 [] ws)
    let s := if eg = 0 || eg = 255 then (0, 0) else sumSquares (sumK eg r.head) ws
    (d1.bump rUpdNormFlush s.2, some (sumOf eg r.head s.1))

/-- The sum of squares over the shard group: an exponent maximum, then the squares (R323, R533). -/
def Dev.sumGroup (d : Dev) (r : URec) (g : Grp) (ag : Agent) (stream prio : Nat) : Dev × Option SumSq :=
  match d.xop? r.key with
  | none =>
    thenDo (Dev.shardWords ag stream r d) fun ws d1 =>
      let x := { d1.newX r.key 12 [] stream prio g with val := maxExp (srcExps 1 [] ws) * 2 ^ 24 }
      let b := (d1.addX x).xBegin x
      (b.1.startValue b.2 4 0, none)
  | some x =>
    if x.valueAt 4 12 then
      (let eg := x.val / 2 ^ 24
       if eg = 0 || eg = 255 then (d.xEnd x false 0, some (sumOf eg r.head 0))
       else
         thenDo (Dev.shardWords ag stream r d) fun ws d1 =>
           let s := sumSquares (sumK eg r.head) ws
           ((d1.bump rUpdNormFlush s.2).startValue { x with val := uBits 64 s.1, eg := eg } 5 0, none))
    else if x.valueAt 5 12 then (d.xEnd x false 0, some (sumOf x.eg r.head (sInt 64 x.val)))
    else (d, none)

/-- Work towards the sum of squares of the layer's masters (R322): local without a shard group of two or more. -/
def Dev.updSum (d : Dev) (u : UpdRun) (ag : Agent) (stream prio : Nat) : Dev × Option SumSq :=
  let r := urec u.rec_
  match u.sq, u.grp with
  | .pending, some g => if g.n ≤ 1 then d.sumLocal r ag stream else d.sumGroup r g ag stream prio
  | .pending, none => d.sumLocal r ag stream
  | q, _ => (d, some q)

/-- The scale `s_L` (R322), as FP32 bits. -/
def scaleL (r : URec) (floor : Nat) : SumSq → Nat
  | .val s k => (fminmax fmt32 false true (sqrtQuot s.toNat (r.rows * r.cols) (-k)) floor).bits
  | _ => infBits fmt32 false

/-- A constant that is not finite is replaced by +0 (R318). -/
def constFix (x : Nat) : Nat × Bool := if isFin32 x then (x, false) else (0, true)

/-- The layer constants `a` and `b`, and the mark of BADCONST (R317, R318). -/
def layerConsts (eta sl lam : Nat) : Nat × Nat × Bool :=
  let e := constFix eta
  let s := constFix sl
  let l := constFix lam
  let a := constFix (fmul fmt32 false e.1 s.1).bits
  let b := constFix (fmul fmt32 false e.1 l.1).bits
  (a.1, b.1, e.2 || s.2 || l.2 || a.2 || b.2)

/-- FP32 bits of a gradient element's sign; the sign of a NaN is open (DESIGN CHOICE, log 36). -/
def signWord (free i x : Nat) : Nat :=
  if isNan (fdecode 24 (-149) x) then nth 0 [0, 0x3F800000, 0xBF800000] ((Config.freeWord (free + i)).toNat % 3)
  else if mag32 x = 0 then 0
  else if neg32 x then 0xBF800000
  else 0x3F800000

/-- Signs of gradient elements, with the open values used. -/
def Dev.signs (d : Dev) (g : List Nat) : List Nat × Dev :=
  ((g.zip (List.range g.length)).map (fun p => signWord d.free p.2 p.1),
    if g.any fun x => isNan (fdecode 24 (-149) x) then { d with free := d.free + g.length } else d)

/-- VIEWFMT in force, with the mark of BADFMT (Table 11.5). -/
def viewFmt (ctl : Word) : Nat × Bool :=
  let f := bitsOf ctl 21 19
  if f = 3 || f = 4 || f = 5 then (f, false) else (4, true)

/-- VIEWRND in force. -/
def viewRnd (ctl : Word) : Nat := if bitsOf ctl 23 22 = 3 then 0 else bitsOf ctl 23 22

/-- ITMAX in force. -/
def itMax (ctl : Word) : Nat := min (max (bitsOf ctl 27 24) 4) 12

/-- The blocks of the compute view of a range (R319, R320). -/
def viewBlocks (fmt mode seed step : Nat) (r : URec) (vs : List Nat) : List BlockOut :=
  let n := fmtBlock fmt
  let rs := if mode = 2 then (List.range vs.length).map fun j => rand16 seed step r.tensor (r.index (r.ufirst + j)) else []
  ((chunks n vs.length vs).zip (List.range (vs.length / n))).map fun p => convertBlock fmt mode p.1 ((rs.drop (n * p.2)).take n)

/-- Translate the writes of a record, all before any is done. -/
def Dev.updPas (ag : Agent) (stream : Nat) : List (Nat × List Byte) → Dev → Dev × Option (List (List Nat × List Byte))
  | [], d => (d, some [])
  | w :: ws, d =>
    thenDo (Dev.vaPas ag stream .write (cover w.1 w.2.length) d) fun p d1 =>
      thenDo (Dev.updPas ag stream ws d1) fun ps d2 => (d2, some ((p, w.2) :: ps))

/-- Do them. -/
def Dev.updPut (ps : List (List Nat × List Byte)) (d : Dev) : Dev := ps.foldl (fun y p => Dev.putBlocks p.1 p.2 y) d

/-- Bytes of a plane's range at an address; where the range ends the shard, the plane's padding with zero bytes to a whole block follows (R39). -/
def planeEnd (last : Bool) (va : Nat) (bs : List Byte) : List Byte :=
  bs ++ List.replicate (if last then roundUp (va + bs.length) 256 - (va + bs.length) else 0) 0

/-- Write a record's master, Trim and view, with its counts (R317, R319). -/
def Dev.updWrite (d : Dev) (u : UpdRun) (ag : Agent) (stream : Nat) (us ms ts : List Nat) : Dev × Option Unit :=
  let r := urec u.rec_
  let ctl : Word := BitVec.ofNat 32 (nth 0 u.set 0)
  let k := layerConsts (nth 0 u.set 5) (scaleL r (nth 0 u.set 2) u.sq) (nth 0 u.set 1)
  let es := (ms.zip (ts.zip us)).map fun p => updateElem p.1 (sInt 8 p.2.1) p.2.2 k.1 k.2.1
  let f := viewFmt ctl
  let bs := viewBlocks f.1 (viewRnd ctl) (d.rd64 rUpdSeedLo) ((nth 0 u.set 6 + (2 ^ 64 - 1)) % 2 ^ 64) r (es.map (·.v))
  let w := fmtWidth f.1
  let last := decide (r.ucount ≠ 0) && decide (r.ufirst + r.ucount = r.nrows * r.ncols)
  let va := r.view + r.ufirst * w / 8
  let vx := r.viewx + r.ufirst / fmtBlock f.1
  thenDo (Dev.updPas ag stream
      [(r.master + 2 * r.ufirst, es.flatMap fun e => toLe 2 e.w), (r.trim + r.ufirst, es.map fun e => BitVec.ofInt 8 e.t)
      , (va, planeEnd last va (packCodes w (bs.flatMap (·.codes))))
      , (vx, planeEnd last vx (bs.map fun b => BitVec.ofNat 8 b.ecode))] d) fun ps d1 =>
    let sum (g : UElem → Nat) : Nat := (es.map g).foldl (· + ·) 0
    let d2 := (((Dev.updPut ps d1).bump rUpdMasterNonfin (sum (·.nonfin))).bump rUpdMasterSat (sum (·.sat))).bump rUpdTrimSat (sum (·.tsat))
    let d3 := (d2.bump rUpdViewOvf ((bs.map (·.ovf)).foldl (· + ·) 0)).bump rUpdViewFlush ((bs.map (·.flush)).foldl (· + ·) 0)
    ((d3.updFlag k.2.2 3).updFlag f.2 4, some ())

/-- Bytes of the work area, whose contents after whitening are open (DESIGN CHOICE, log 36). -/
def Dev.workBytes (d : Dev) (r : URec) : List Byte :=
  (List.range (16 * (min r.rows r.cols * min r.rows r.cols))).map fun i => Config.freeByte (d.free + i)

/-- The direction of a record's elements (R322, R324, R326), with the counts of whitening. -/
def Dev.direction (d : Dev) (u : UpdRun) (ag : Agent) (stream : Nat) (g : List Nat) : Dev × Option (List Nat) :=
  let r := urec u.rec_
  let s := d.signs g
  if nth 0 u.set 7 = 0 then (s.2, some s.1)
  else
    let ctl : Word := BitVec.ofNat 32 (nth 0 u.set 0)
    let wb := s.2.workBytes r
    thenDo (Dev.vwrite ag stream r.work wb { s.2 with free := s.2.free + wb.length }) fun _ d1 =>
      let o := whiten r.rows r.cols (chunks r.cols r.rows s.1) (nth 0 u.set 3) (itMax ctl) (nth 0 u.set 4)
      let d2 := d1.bump rUpdEpsRaised (if o.raised then 1 else 0)
      match o.u with
      | some v => (d2, some v)
      | none => (d2.bump rUpdWhitenFallback 1, some s.1)

/-- Apply the rule to a record whose scale is known. -/
def Dev.updApply (d : Dev) (u : UpdRun) (ag : Agent) (stream : Nat) : Dev :=
  let r := urec u.rec_
  let gw := if r.flags % 2 = 1 then 2 else 4
  ifDone
    (thenDo (Dev.vread ag stream (r.master + 2 * r.ufirst) (2 * r.ucount) d) fun mb d1 =>
      thenDo (Dev.vread ag stream (r.trim + r.ufirst) r.ucount d1) fun tb d2 =>
        thenDo (Dev.vread ag stream (r.grad + gw * r.ufirst) (gw * r.ucount) d2) fun gb d3 =>
          thenDo (match u.dir with
            | some us => (d3, some us)
            | none => d3.direction u ag stream (srcWords (if gw = 2 then 2 else 1) gb [] r.ucount)) fun us d4 =>
            (d4.setUpd { u with dir := some us }).updWrite u ag stream us ((chunks 2 r.ucount mb).map leNat) (tb.map (·.toNat)))
    fun _ y => y.updDone u true 0 0

/-- A record whose settings are read goes on: the sum of squares, then the rule. -/
def Dev.updGo (d : Dev) (u : UpdRun) (ag : Agent) (stream prio : Nat) : Dev :=
  ifDone (d.updSum u ag stream prio) fun q y =>
    let u1 := { u with sq := q }
    (y.setUpd u1).updApply u1 ag stream

/-- Row 4 of Table 11.2: the word at COUNT is below MIN_TOKENS; a MIN_TOKENS or an address of 0 reads nothing (R331). -/
def Dev.starved (ag : Agent) (stream : Nat) (r : URec) (minTok : Nat) (d : Dev) : Dev × Option Bool :=
  if r.count = 0 || minTok = 0 then (d, some false)
  else thenDo (Dev.vread ag stream r.count 4 d) fun bs d1 => (d1, some (decide (leNat bs < minTok)))

/-- The engine starts a record (R330, R424): the first row of Table 11.2 that applies. -/
def Dev.updStart (d : Dev) (u : UpdRun) (ag : Agent) (stream prio : Nat) : Dev :=
  let v := (d.rd rXchVerdict).toNat
  ifDone (Dev.vread ag stream (d.updVa u) 128 d)
    fun b y =>
      let u1 := { u with rec_ := b }
      let r := urec b
      let ctl := y.rd (rUpdGrpCtl r.group)
      if v / 4 % 2 = 0 then (y.bump rUpdNotcommitSkips 1).updDone u1 false 0x24 255
      else if v % 4 ≠ 0 then (y.bump rUpdNotcommitSkips 1).updDone u1 false 0x24 (v % 4)
      else if r.done = y.rd64 rUpdStepLo then (y.bump rUpdDupSkips 1).updDone u1 false 0 0
      else if bitsOf ctl 31 31 = 1 then (y.bump rUpdFrozenSkips 1).updDone u1 true 0 0
      else
        ifDone (Dev.starved ag stream r (bitsOf ctl 15 0) y) fun low z =>
          if low then (z.bump rUpdStarvedSkips 1).updDone u1 true 0 0
          else
            let st := z.updSettings r
            let u2 := { u1 with stage := .sumsq, set := st.1 }
            ((z.updFlag st.2 1).setUpd u2).updGo u2 ag stream prio

/-- UPDATE_RECORD_RUN (R330, R334): work of record `k`, as far as it goes now. -/
def execUpdateRecordRun (k : Nat) (us : List Upset) (s : State) : Host.Outcome State Fault Refusal :=
  s.runC us fun d =>
    match d.upds[k]? with
    | none => d
    | some u =>
      if !d.alive then d
      else match d.updTile u with
        | none => d
        | some t =>
          let c := (d.tile t).ctx
          (match u.stage with
           | .waiting => if d.fld rConeStatus 0 0 = 1 then d else d.updStart u (.tile t) c.stream c.prio
           | .sumsq => d.updGo u (.tile t) c.stream c.prio
           | .written => d)

/-- A tile no longer works for an update; a save of it that has begun is dropped, as are its saved contexts of the command. -/
def Dev.updFree (id : Nat) (t : Nat) (d : Dev) : Dev :=
  let x := d.tile t
  let slots := x.slots.filter fun p => decide (p.2.ctx.cmd ≠ some id)
  if x.ctx.cmd = some id then
    (d.setTile t { x with ctx := { x.ctx with run := .idle, cmd := none }, slots := slots, busy := .none }).afterEnd t
  else d.setTile t { x with slots := slots }

/-- An update leaves the engine. -/
def Dev.updGone (d : Dev) (u : UpdRun) (tiles : List Nat) : Dev :=
  tiles.foldl (fun y t => y.updFree u.cmd t) { d with upds := d.upds.filter fun x => x.cmd != u.cmd }

/-- UPDATE_RECORD_END (R330): STEPDONE, the record's SYNC, the command. -/
def execUpdateRecordEnd (k : Nat) (us : List Upset) (s : State) : Host.Outcome State Fault Refusal :=
  s.runC us fun d =>
    match d.upds[k]? with
    | none => d
    | some u =>
      if !d.alive || decide (u.stage ≠ .written) then d
      else match d.updTile u, d.cmd? u.cmd with
        | some t, some c =>
          ifDone
            (if u.mark then Dev.vwrite (.tile t) (d.tile t).ctx.stream (d.updVa u + 104) (toLe 8 (d.rd64 rUpdStepLo)) d else (d, some ()))
            fun _ y => ((y.signal (urec u.rec_).sync).updGone u c.tiles).finishId u.cmd u.status u.detail
        | _, _ => d

/-- An UPDATE is dispatched: its record waits for its tiles (R332). -/
def Dev.updDispatch (d : Dev) (c : Cmd) (b : List Byte) (g : Option Grp) : Dev :=
  { d with upds := d.upds ++ [{ cmd := c.id, rec_ := b, grp := g, stage := .waiting, set := [], sq := .pending, mark := false, status := 0, detail := 0 }] }

/-! ### The Cone -/

/-- CONE_EVALUATION_DONE (R340): the step of the verdict is committed; its step slack is kept, and a budget shift may be due (R402). -/
def execConeEvaluationDone (us : List Upset) (s : State) : Host.Outcome State Fault Refusal :=
  s.runC us fun d =>
    if d.fld rConeStatus 0 0 = 1 then
      let d1 := d.coneDone
      { d1 with slacks := (d1.rd64 rXchSlackLo :: d1.slacks).take 65535 }.budgetStart
    else d

end Sys2Proof.Machine
end

