-- ==== Sys2Proof/Machine/Silent.lean ====
section
/-!
DEFINITION. Silent-error defence: the single retry (R365 to R369) and test firing (R370 to R378).
-/

namespace Sys2Proof.Machine

/-! ### The single retry -/

/-- The retry reads memory, so what is stored decides with it (Table 13.2). -/
def RetryOf.reads : RetryOf → Bool
  | .ldt _ _ | .dma _ _ | .bar2 _ _ _ | .recv _ | .reread _ _ _ _ => true
  | _ => false

/-- A held tile goes on. -/
def Dev.unhold (d : Dev) (t : Nat) : Dev := d.modCtx t fun c => { c with run := .running }

/-- The failed operation, with the check passed (R366). -/
def Dev.retried (d : Dev) (r : Retry) : Dev :=
  match r.what with
  | .cubePass t => d.passWrite t []
  | .drain t f => (d.unhold t).drain t f []
  | .store t => Dev.lsDrain t d
  | .ldt t k =>
    match d.xfer? t k with
    | some x => d.ldtBlock t k x .clean
    | none => d
  | .dma n e =>
    match d.dmaOn n e with
    | some x => d.dmaBlock n e x none .clean
    | none => d
  | .bar2 port off len => d.bar2Data port off len
  | .save t =>
    match (d.tile t).busy with
    | .saving q => d.saveDone t q
    | _ => d
  | .restore t =>
    match (d.tile t).busy with
    | .restoring q => d.restored t q
    | _ => d
  | .recv id =>
    match d.inbox.find? fun b => b.id == id with
    | some b =>
      match d.taker b with
      | some x => d.recvDo x b []
      | none => d
    | none => d
  | .reread key sub node off =>
    match d.xops.find? fun x => x.key == key && (x.sentFrom node sub off).isSome with
    | some x =>
      match x.sentFrom node sub off with
      | some (q, g) => d.resend x q g off none
      | none => d
    | none => d

/-- What a failed retry leaves of its operation: a BAR2 read still ends (R368). -/
def Dev.retryLost (d : Dev) (r : Retry) : Dev :=
  match r.what with
  | .bar2 port _ len => d.bar2Fail port len
  | _ => d

/-- The unit charged when a retry fails (Table 13.2): for a fresh read, the source when its own code or glaze fails there; for the reducer, always
the exchange engine half. -/
def Dev.retryUnit (d : Dev) (r : Retry) (u : Upset) : HwUnit :=
  match r.what with
  | .recv _ => r.unit
  | w => if w.reads then d.readUnit r.addr u (some r.unit) else r.unit

/-- A retry that reads memory again. -/
def Retry.fresh (r : Retry) : Bool := r.what.reads && r.check != 4

/-- What a retry finds: the counts of a fresh read that meets `u`, and whether it passes: a fresh read where its glaze is right, any other as `pass`
says. -/
def Dev.retryTry (d : Dev) (r : Retry) (pass : Bool) (u : Upset) : Bool × Dev :=
  if r.fresh then (!(d.readCounts r.addr u).glazeBad r.addr u, d.readCounts r.addr u) else (pass, d)

/-- A retry fails (R368): FAULT, and the unit is charged; the job-fatal event is not part of it. -/
def Dev.retryCharge (d : Dev) (r : Retry) (u : Upset) : Dev :=
  d.charge (if r.fresh then d.readCheck r.addr u else r.check) (d.retryUnit r u) r.addr r.detail

/-- Retries of other units that fail in the same cycle (Table 13.3): each gets its own FAULT entry and quarantine. -/
def Dev.alsoFail (d : Dev) (also : List (Nat × Upset)) : Dev :=
  (also.filterMap fun a => (d.retries[a.1]?).map fun r => (r, a.2)).foldl (fun x a =>
    let t := x.retryTry a.1 false a.2
    if t.1 || decide ((t.2.retryUnit a.1 a.2).cls = .hostPort) then x
    else { t.2.retryCharge a.1 a.2 with retries := t.2.retries.filter fun q => !decide (q = a.1) }) d

/-- RETRY_COMPLETE (R365 to R368): retry `k` passes or fails; `also` fail in the same cycle, with one job-fatal event for all (Table 13.3). -/
def execRetryComplete (k : Nat) (pass : Bool) (u : Upset) (also : List (Nat × Upset)) (us : List Upset) (s : State) :
    Host.Outcome State Fault Refusal :=
  s.runC us fun d =>
    match d.retries[k]? with
    | none => d
    | some r =>
      let t := { d with retries := delNth d.retries k }.retryTry r pass u
      if t.1 then (t.2.transient r.check r.unit r.addr r.detail).retried r
      else if (t.2.retryUnit r u).cls = .hostPort then (t.2.retryCharge r u).retryLost r
      else (((t.2.retryCharge r u).alsoFail also).jobFatal).retryLost r

/-! ### Test firing -/

/-- The sweep number (TST_SWEEP). -/
def Dev.sweep (d : Dev) : Nat := d.rd64 rTstSweepLo

/-- `m_s` of R371. -/
def Dev.fireMask (d : Dev) : Nat := d.sweep % 7 + 1

/-- Active time (R370): a job runs, and the device is not Dormant. -/
def Dev.active (d : Dev) : Bool := d.studio && d.job == 1

/-- TST_CTL.EN. -/
def Dev.firesOn (d : Dev) : Bool := d.fld rTstCtl 31 31 == 1

/-- A word of a tile's hidden test state (R373). -/
def Tile.hiddenWord (x : Tile) (i : Nat) : Word :=
  match x.hidden with
  | some n => Config.hiddenWord n i
  | none => 0

/-- A sweep is clean (R377): the clean point moves. -/
def Dev.cleanSweep (d : Dev) (step : Nat) : Dev := (d.wr64 rTstCleanStepLo step).bump rTstCleanEpoch 1

/-- A tile is kept for the retests of a mismatch. -/
def Referee.keeps (r : Referee) (t : Nat) : Bool := r.a == t || r.b == t || r.ref == t || decide (r.ref2 = some t)

/-- Tiles that fire or are to fire, but for those kept for retests. -/
def Dev.firingNow (d : Dev) : List Nat :=
  (d.tiles.filter fun p => p.2.inFiring && !d.fire.refs.any fun r => r.keeps p.1).map (·.1)

/-- Every group of the sweep has fired, with test firing on and no mismatch (R377). -/
def Dev.sweepSound (d : Dev) : Bool := !d.fire.dirty && d.firesOn && d.fire.groups.length == 75

/-- TEST_SWEEP_BOUNDARY (R377): a clean sweep moves the clean point, when its last firing has ended too; the next sweep starts. -/
def execTestSweepBoundary (s : State) : Host.Outcome State Fault Refusal :=
  s.run fun d =>
    if !d.active then d
    else
      let run := d.firingNow
      let d1 := if d.sweepSound && run.isEmpty then d.cleanSweep d.fire.step else d
      let late := if d.sweepSound && !run.isEmpty then some d.fire.step else none
      { d1.wr64 rTstSweepLo ((d.sweep + 1) % 2 ^ 64) with
        fire := { d1.fire with step := d.rd64 rUpdStepLo, dirty := !d.firesOn, groups := [], late := late, old := run } }

/-- A tile that fires: neither absent nor quarantined. -/
def Dev.fires (d : Dev) (t : Nat) : Bool := !d.tileOut t

/-- Ask for a tile of a pair (R372): a tile without a program is taken now, any other at its next pre-emption point. -/
def Dev.fireAsk (t u : Nat) (d : Dev) : Dev :=
  let x := d.tile t
  if x.ctx.run = .idle && x.busy = .none then d.setTile t { x with busy := .firing u }
  else d.setTile t { x with reqs := x.reqs ++ [⟨true, u⟩] }

/-- Start the firing of a pair. A tile whose firing of the last sweep still runs fires in no other, and the sweep is not clean. -/
def Dev.firePair (t u : Nat) (d : Dev) : Dev :=
  if !d.fires t || !d.fires u then d
  else if (d.tile t).inFiring || (d.tile u).inFiring then { d with fire := { d.fire with dirty := true } }
  else Dev.fireAsk u t (Dev.fireAsk t u d)

/-- TEST_FIRING_START (R371): the four pairs of group `g` on each C-die; a group starts once in a sweep. -/
def execTestFiringStart (g : Nat) (s : State) : Host.Outcome State Fault Refusal :=
  s.runIf (decide (g < 75)) fun d =>
    if !d.active || inSet d.fire.groups g then d
    else if !d.firesOn then { d with fire := { d.fire with dirty := true } }
    else
      let d1 := d.setFld rTstStatus 7 0 g
      let d2 : Dev := { d1 with fire := { d1.fire with groups := setIns d1.fire.groups g } }
      iter 8 (fun die x => iter 8 (fun i y =>
        let j := Nat.xor i d.fireMask
        if i < j then Dev.firePair (600 * die + 8 * g + i) (600 * die + 8 * g + j) y else y) x) d2

/-- Both tiles of a pair are taken for their firing. -/
def Dev.pairReady (d : Dev) (t : Nat) : Option Nat :=
  match (d.tile t).busy with
  | .firing u => if decide ((d.tile u).busy = .firing t) then some u else none
  | _ => none

/-- A tile is given back after a firing, whose test program has left the hidden state as it will. -/
def Dev.fireFree (t : Nat) (d : Dev) : Dev :=
  let d1 := { d with free := d.free + 1 }.modTile t fun x => { x with busy := .none, hidden := some d.free }
  if (d1.tile t).ctx.run = .idle then (d1.afterEnd t).startWaiting t else d1

/-- Record whether a tile's latest firing passed. -/
def Dev.setPassed (d : Dev) (t : Nat) (ok : Bool) : Dev :=
  { d with fire := { d.fire with passed := if ok then setIns d.fire.passed t else setDel d.fire.passed t } }

/-- Signatures of a firing: 64 of the cubes and one of the tile. -/
def sigs (l : List (BitVec 64)) : List (BitVec 64) := (List.range 65).map fun i => nth 0 l i

/-- Places at which signatures differ: 0 to 63 cubes, 64 the tile (R374). -/
def sigDiff (a b : List (BitVec 64)) : List Nat := (List.range 65).filter fun i => nth 0 a i != nth 0 b i

/-- DETAIL of a firing entry (Table 13.8): sweep number and partner's number on its die, of which the field holds the low 8 bits. -/
def Dev.fireDetail (d : Dev) (partner : Nat) : Nat := d.sweep % 2 ^ 24 + partner % 600 % 256 * 2 ^ 24

/-- The referee of a mismatch (R374): the lowest live tile of the die, beside `no`, whose latest firing passed. -/
def Dev.referee (d : Dev) (die : Nat) (no : List Nat) : Option Nat :=
  d.fire.passed.find? fun t => dieOf t == die && !inSet no t && d.fires t

/-- The last firing of an ended sweep has passed: the sweep is clean (R377). -/
def Dev.lateEnd (d : Dev) (t u : Nat) : Dev :=
  let old := (setDel (setDel d.fire.old t) u)
  let d1 : Dev := { d with fire := { d.fire with old := old } }
  match d.fire.late with
  | some st => if old.isEmpty then { d1.cleanSweep st with fire := { d1.fire with late := none } } else d1
  | none => d1

/-- A pair of an ended sweep is among those whose signatures differ, or one of the present sweep: that sweep is not clean (R377). -/
def Dev.spoil (d : Dev) (t : Nat) : Dev :=
  if inSet d.fire.old t then { d with fire := { d.fire with late := none } } else { d with fire := { d.fire with dirty := true } }

/-- TEST_FIRING_END (R374): `ta` is the lower tile of the pair, with the signatures of both. A difference starts the retests against the referee, for which
both tiles are kept; with no tile to referee there is no retest (DESIGN CHOICE, log 48). -/
def execTestFiringEnd (ta : Nat) (sa sb : List (BitVec 64)) (s : State) : Host.Outcome State Fault Refusal :=
  s.runIf (tileOk ta) fun d =>
    match d.pairReady ta with
    | none => d
    | some tb =>
      if d.fire.refs.any fun r => r.keeps ta || r.keeps tb then d
      else
        let same := decide (sigs sa = sigs sb)
        let d1 := (d.setPassed ta same).setPassed tb same
        if same then (Dev.fireFree tb (Dev.fireFree ta d1)).lateEnd ta tb
        else
          let d2 := ((d1.spoil ta).bump rTstMismatches 1).pushCrz (d1.entry 3 9 ⟨.tile, ta⟩ 0 (d1.fireDetail tb))
          match d2.referee (dieOf ta) [ta, tb] with
          | none => Dev.fireFree tb (Dev.fireFree ta d2)
          | some rf =>
            let d3 := Dev.fireAsk rf ta d2
            { d3 with fire := { d3.fire with
                refs := d3.fire.refs ++ [{ a := ta, b := tb, ref := rf, ua := ⟨.tile, ta⟩, ub := ⟨.tile, tb⟩ }] } }

/-- The unit that fails a retest (Table 13.4): the cube, where its signature is the one that differs, or the tile (DESIGN CHOICE, log 48). -/
def retestUnit (t : Nat) (diff : List Nat) : HwUnit :=
  match diff with
  | [c] => if c < 64 then ⟨.cube, 64 * t + c⟩ else ⟨.tile, t⟩
  | _ => ⟨.tile, t⟩

/-- A failed retest of a firing against a tile, then R368 (Table 13.4). -/
def Dev.retestFault (d : Dev) (u : HwUnit) (against : Nat) : Dev :=
  (d.failRetest 5 9 u 0 (d.fireDetail against)).unitFault 9 u 0 (d.fireDetail against)

/-- The retests of a mismatch are over: its tiles are given back. -/
def Dev.refOver (d : Dev) (r : Referee) : Dev :=
  let d1 : Dev := { d with fire := { d.fire with refs := d.fire.refs.filter fun x => x.a != r.a } }
  let fr (t : Nat) (y : Dev) : Dev := if (y.tile t).inFiring then Dev.fireFree t y else y
  let d2 := fr r.ref (fr r.b (fr r.a d1))
  match r.ref2 with
  | some t => fr t d2
  | none => d2

/-- A tile is taken for a firing. -/
def Dev.taken (d : Dev) (t : Nat) : Bool :=
  match (d.tile t).busy with
  | .firing _ => true
  | _ => false

/-- Both tiles of a mismatch have been retested (Table 13.4): neither fails, one fails, or both, when the referee is retested against the next such tile.
With none, no comparison has a majority, and nothing is charged (DESIGN CHOICE, log 48). -/
def Dev.refDecide (d : Dev) (r : Referee) : Dev :=
  match r.ra, r.rb with
  | some true, some true => (d.refOver r).transient 9 ⟨.tile, r.a⟩ 0 (d.fireDetail r.b)
  | some false, some true => (d.refOver r).retestFault r.ua r.ref
  | some true, some false => (d.refOver r).retestFault r.ub r.ref
  | some false, some false =>
    match d.referee (dieOf r.a) [r.a, r.b, r.ref] with
    | some t =>
      let d1 := Dev.fireAsk t r.ref d
      { d1 with fire := { d1.fire with refs := d1.fire.refs.map fun x => if x.a = r.a then { r with ref2 := some t } else x } }
    | none => d.refOver r
  | _, _ => d

/-- The referee's own retest (Table 13.4): where it agrees with the other tile, each tile of the pair has lost its comparison with the referee by
majority; where it does not, every tile it was compared with is against it, and it has lost (DESIGN CHOICE, log 48). -/
def Dev.refSettle (d : Dev) (r : Referee) (t : Nat) (diff : List Nat) : Dev :=
  if diff.isEmpty then ((d.refOver r).retestFault r.ua r.ref).retestFault r.ub r.ref
  else (d.refOver r).retestFault (retestUnit r.ref diff) t

/-- FIRING_RETEST (R374): tile `t` of a mismatch against its referee, or the referee against the next such tile: the signatures of `t` and of the other. -/
def execFiringRetest (t : Nat) (st sr : List (BitVec 64)) (s : State) : Host.Outcome State Fault Refusal :=
  s.runIf (tileOk t) fun d =>
    match (if d.alive then d.fire.refs.find? fun r => r.a == t || r.b == t || r.ref == t else none) with
    | none => d
    | some r =>
      let diff := sigDiff st sr
      if t = r.ref then
        (match r.ref2 with
         | some u => if d.taken u then d.refSettle r u diff else d
         | none => d)
      else if !d.taken r.ref || (if t = r.a then r.ra else r.rb).isSome then d
      else
        let ok := diff.isEmpty
        let u := retestUnit t diff
        let r1 : Referee := if t = r.a then { r with ra := some ok, ua := u } else { r with rb := some ok, ub := u }
        let d1 : Dev := { d with fire := { d.fire with refs := d.fire.refs.map fun x => if x.a = r.a then r1 else x } }
        d1.refDecide r1

end Sys2Proof.Machine
end

