-- ==== Sys2Proof/Machine/CmdCheck.lean ====
section
/-!
DEFINITION. Command packets (R413, R414) and the validation of a command in the order of Table 15.3 (R423 to R425, R434).
-/

namespace Sys2Proof.Machine

/-- A command as the Studio finds it on a ring: header, LEN, OPCODE, whether its reserved header bits are zero, its parameters (none where the
opcode is not listed), the offsets of parameter bytes that are not zero and should be. -/
structure Subm where
  h      : CmdHdr
  len    : Nat
  opcode : Nat
  clean  : Bool
  op     : Option CmdOp
  junk   : List Nat
deriving DecidableEq, Repr

/-! ### Packets -/

/-- A record that is not read yet. -/
def unread : List Byte := []

/-- The parameters of an opcode (Table 15.4), from the parameter area. -/
def parseOp (opcode : Nat) (b : List Byte) : Option CmdOp :=
  let a64 (off : Nat) : BitVec 64 := BitVec.ofNat 64 (field b off 8)
  let w32 (off : Nat) : Word := BitVec.ofNat 32 (field b off 4)
  match opcode with
  | 0x00 => some .nop
  | 0x01 => some (.launch ⟨field b 0 2, field b 2 2, field b 4 1 % 2 == 1, a64 8, field b 16 4, field b 20 4, a64 24⟩)
  | 0x02 => some (.copy (field b 0 1) ((b.drop 40).take 64 ++ List.replicate (64 - ((b.drop 40).take 64).length) 0))
  | 0x03 => some (.signal (field b 0 2) (field b 2 2))
  | 0x04 => some (.wait (field b 0 2) (field b 2 2) (w32 4))
  | 0x05 => some (.add (field b 0 2) (field b 2 2) (w32 4))
  | 0x06 => some (.reset (field b 0 2) (field b 2 2) (w32 4))
  | 0x08 => some (.ringOpen ⟨field b 0 2, field b 2 1, field b 3 1 % 32, field b 3 1 / 128 == 1, a64 8, a64 16⟩)
  | 0x09 => some (.ringClose (field b 0 1))
  | 0x10 => some (.route (a64 0) unread grpNone unread)
  | 0x11 => some (.exch 0x11 (a64 0) unread grpNone unread)
  | 0x12 => some (.exch 0x12 (a64 0) unread grpNone unread)
  | 0x13 => some (.exch 0x13 (a64 0) unread grpNone unread)
  | 0x14 => some (.update (a64 0) unread none (field b 8 2) (field b 10 2))
  | 0x18 => some (.windowOpen ⟨field b 0 2, BitVec.ofNat 3 (field b 2 1), field b 3 1, BitVec.ofNat 16 (field b 4 2), a64 8, field b 16 4,
      field b 20 4, a64 24⟩)
  | 0x19 => some (.windowClose (field b 0 1))
  | 0x1C => some (.tlbInval (a64 0) (a64 8))
  | 0x1D => some (.faultResolve (field b 0 4) (field b 4 1 == 1))
  | 0x20 => some (.jobStart (BitVec.ofNat 16 (field b 0 2)))
  | 0x21 => some (.jobReset none)
  | 0x22 => some (.tileReset (field b 0 2) (field b 2 2))
  | 0x23 => some .abort
  | 0x30 => some (.takeover (field b 0 1))
  | 0x38 => some (.query (field b 0 1) (field b 4 4))
  | 0x3A => some (.regRead (a64 0))
  | 0x3B => some (.regWrite (a64 0) (w32 8))
  | _ => none

/-- Parameter bytes that an opcode lists (Table 15.4), as offset and length. -/
def listed (opcode : Nat) : List (Nat × Nat) :=
  match opcode with
  | 0x01 => [(0, 5), (8, 24)]
  | 0x02 => [(0, 1), (40, 64)]
  | 0x03 | 0x22 => [(0, 4)]
  | 0x04 | 0x05 | 0x06 => [(0, 8)]
  | 0x08 => [(0, 4), (8, 16)]
  | 0x09 | 0x19 | 0x30 => [(0, 1)]
  | 0x10 | 0x11 | 0x12 | 0x13 | 0x3A => [(0, 8)]
  | 0x14 => [(0, 12)]
  | 0x18 => [(0, 6), (8, 24)]
  | 0x1C => [(0, 16)]
  | 0x1D => [(0, 5)]
  | 0x20 => [(0, 2)]
  | 0x38 => [(0, 1), (4, 4)]
  | 0x3B => [(0, 12)]
  | _ => []

/-- Reserved bits of a listed byte that are set (Table 15.4). -/
def reservedBits (opcode : Nat) (b : List Byte) : List Nat :=
  match opcode with
  | 0x01 => if 1 < field b 4 1 then [4] else []
  | 0x08 => if field b 3 1 / 32 % 4 ≠ 0 then [3] else []
  | 0x18 => if 7 < field b 2 1 then [2] else []
  | 0x1D => if 1 < field b 4 1 then [4] else []
  | _ => []

/-- Parameter bytes at fault: unlisted bytes that are not 0 (R427), and listed ones with reserved bits set. -/
def junkOf (opcode : Nat) (b : List Byte) : List Nat :=
  ((List.range b.length).filter fun i =>
    field b i 1 != 0 && !(listed opcode).any fun r => decide (r.1 ≤ i) && decide (i < r.1 + r.2)) ++ reservedBits opcode b

/-- Packets that a LEN field takes (R414). -/
def packets (len : Nat) : Nat := if 1 ≤ len && decide (len ≤ 4) then len else 1

/-- A command from the bytes of its packets (Table 15.1). -/
def parsePacket (port ringNo : Nat) (b : List Byte) : Subm :=
  let n := packets (field b 8 1)
  let p := (b.drop 24).take (40 + 64 * (n - 1))
  let opcode := field b 0 1
  { h := { port := port, ringNo := ringNo, flags := BitVec.ofNat 8 (field b 1 1), stream := field b 2 2
           seq := BitVec.ofNat 32 (field b 4 4), wsync := field b 10 2, wval := BitVec.ofNat 32 (field b 12 4), ssync := field b 16 2 }
    len := field b 8 1, opcode := opcode, clean := field b 9 1 == 0 && field b 18 6 == 0, op := parseOp opcode p, junk := junkOf opcode p }

/-- A command row as its packets: COPY takes two, every other opcode one. -/
def submOf (h : CmdHdr) (op : CmdOp) : Subm :=
  { h := h, len := (match op with
      | .copy _ _ => 2
      | _ => 1), opcode := op.code, clean := true, op := some op, junk := [] }

/-! ### Steps 1 to 7 -/

/-- Opcodes open to the standby (Table 15.4). -/
def CmdOp.open : CmdOp → Bool
  | .nop | .ringOpen _ | .ringClose _ | .takeover _ | .query _ _ | .regRead _ => true
  | _ => false

/-- The first number above 8,191 that a range reaches, as an ST_BAD_SYNC (Table 15.6). -/
def objBad (obj count : Nat) : Option (Nat × Nat) :=
  if 8191 < obj + (count - 1) then some (5, max obj 8192) else none

/-- The sync objects that a command names beside its records (Table 15.3, step 7). -/
def syncBad (h : CmdHdr) (op : CmdOp) : Option (Nat × Nat) :=
  let ofOp := match op with
    | .signal o n | .wait o n _ | .add o n _ | .reset o n _ => objBad o n
    | .query 0 o => objBad o 1
    | _ => none
  (if wantWait h then objBad h.wsync 1 else none) <|> (if wantSig h then objBad h.ssync 1 else none) <|> ofOp

/-- Steps 1 to 4: SEQ, header, STREAM, OPCODE; the status and DETAIL of the first that fails. -/
def headBad (r : Ring) (p : Subm) : Option (Nat × Nat) :=
  if p.h.seq ≠ r.seq then some (4, r.seq.toNat)
  else if p.len = 0 || 4 < p.len || bitsOf (p.h.flags.setWidth 32) 7 4 ≠ 0 || !p.clean then some (stBadParam, 0)
  else if p.h.stream ≠ r.stream then some (3, p.h.stream)
  else if p.op.isNone then some (1, p.opcode)
  else none

/-- Steps 5 to 7: owner, job state, sync objects. -/
def Dev.rightBad (d : Dev) (h : CmdHdr) (op : CmdOp) : Option (Nat × Nat) :=
  if h.port ≠ d.owner && !op.open then some (0x20, d.owner)
  else if op.isJob && decide (d.job ≠ 1) then some (9, d.job)
  else if (match op with
    | .jobStart _ => true
    | _ => false) && decide (d.job ≠ 0) then some (0x0A, d.job)
  else syncBad h op

/-! ### Step 8 -/

/-- A fault of a parameter: its offset, status and DETAIL. -/
abbrev Flaw := Nat × Nat × Nat

/-- A parameter out of range. -/
def flaw (bad : Bool) (off : Nat) : List Flaw := if bad then [(off, stBadParam, off)] else []

/-- The flaw at the lowest offset; the first listed, among those of one offset. -/
def firstFlaw : List Flaw → Option Flaw
  | [] => none
  | f :: l =>
    match firstFlaw l with
    | some g => if g.1 < f.1 then some g else some f
    | none => some f

/-- A tile range (Tables 15.6 and 15.7), with TILE0 at `off` and NTILES two bytes on. -/
def Dev.tileFlaw (d : Dev) (off t0 n : Nat) : List Flaw :=
  if 4800 ≤ t0 then [(off, 6, t0)]
  else if n = 0 then [(off + 2, 6, 0)]
  else if 4800 < t0 + n then [(off + 2, 6, 4800)]
  else match findFrom (d.tileOut) n t0 with
    | some t => [(off + 2, 0x15, t)]
    | none => []

/-- A ring of LOC 1 lies in the mappable part of a die (R417). -/
def ringMapped (base n : Nat) : Bool :=
  decide (base / hbmSpan = (base + n - 1) / hbmSpan) &&
    (match locate base, locate (base + n - 1) with
     | .hbm _ _, .hbm _ _ => true
     | _, _ => false)

/-- The register that an address names, as REG_READ and REG_WRITE reach it (R430, R522). -/
def regOff (addr : Nat) : Option Nat :=
  let w := canonOff (addr - 0x30000000000)
  if 0x30000000000 ≤ addr && decide (addr < 0x30004000000) && (regRow w).isSome
      && w != rEvcClaim && w != rEvcComplete && w != rEvcHold && w != rEvcTstat then some (addr - 0x30000000000)
  else none

/-- A register address (Table 15.4, R430). -/
def regFlaw (addr : Nat) : List Flaw :=
  if addr % 4 ≠ 0 then [(0, stBadParam, 0)] else if (regOff addr).isNone then [(0, 0x0C, addr)] else []

/-- The parameters at fault (Table 15.4), but for what a named record holds. -/
def Dev.flaws (d : Dev) (h : CmdHdr) : CmdOp → List Flaw
  | .launch l =>
    d.tileFlaw 0 l.tile0 l.ntiles ++ flaw (l.image.toNat % 256 != 0) 8 ++ flaw (decide (1024 < l.imgblk)) 16
      ++ flaw (l.entry % 8 != 0 || decide (262144 ≤ l.entry)) 20
  | .copy die r =>
    flaw (decide (7 < die)) 0 ++ flaw (decide (field r 0 1 = 0) || decide (3 < field r 0 1)) 40 ++ flaw (field r 1 1 != 0) 41
  | .signal _ n | .wait _ n _ | .add _ n _ | .reset _ n _ => flaw (decide (n = 0) || decide (8192 < n)) 2
  | .ringOpen o =>
    (if 63 < o.stream then [(0, 3, o.stream)] else []) ++ flaw (decide (3 < o.prio)) 2 ++ flaw (decide (o.n < 4) || decide (16 < o.n)) 3
      ++ flaw (o.cbase.toNat % 4096 != 0 || (o.loc && !ringMapped o.cbase.toNat (64 * 2 ^ min o.n 16))) 8
      ++ flaw (o.sbase.toNat % 4096 != 0 || (o.loc && !ringMapped o.sbase.toNat (16 * 2 ^ min o.n 16))) 16
  | .ringClose r => flaw (decide (r = 0) || decide (31 < r) || decide (r = h.ringNo)) 0
  | .route va _ _ _ => flaw (va.toNat % 256 != 0) 0
  | .exch _ va _ _ _ => flaw (va.toNat % 256 != 0) 0
  | .update va _ _ t0 n => flaw (va.toNat % 256 != 0) 0 ++ d.tileFlaw 8 t0 n
  | .windowOpen w =>
    flaw (decide (16383 < w.peer)) 0 ++ flaw (decide (63 < w.rwin)) 3
      ++ flaw (w.rbase.toNat % 256 != 0 || decide (2 ^ 52 ≤ w.rbase.toNat)) 8
      ++ flaw (w.lbase.toNat % 256 != 0 || decide (2 ^ 52 ≤ w.lbase.toNat)) 24
  | .windowClose i => flaw (decide (63 < i)) 0
  | .tlbInval va len => flaw (va.toNat % 65536 != 0) 0 ++ flaw (len.toNat % 65536 != 0) 8
  | .tileReset t0 n => d.tileFlaw 0 t0 n
  | .takeover m => flaw (decide (1 < m)) 0
  | .query k a => flaw (decide (3 < k)) 0 ++ flaw (k == 2 && decide (63 < a)) 4
  | .regRead a => regFlaw a.toNat
  | .regWrite a _ => regFlaw a.toNat
  | _ => []

/-- The record that a command names, read and checked (R423, R424). -/
def Dev.opRead (op : CmdOp) (d : Dev) : Dev × Chk CmdOp :=
  match op with
  | .route va _ _ _ => andChk (d.routeCheck va.toNat) fun x d1 => (d1, .ok (.route va x.1 x.2.1 x.2.2))
  | .exch opc va _ _ _ => andChk (d.xCheck opc va.toNat) fun x d1 => (d1, .ok (.exch opc va x.1 x.2.1 x.2.2))
  | .update va _ _ t0 n => andChk (d.updCheck va.toNat) fun x d1 => (d1, .ok (.update va x.1 x.2 t0 n))
  | _ => (d, .ok op)

/-- Reject at the first flaw, or go on. -/
def flawChk {α : Type} (l : List Flaw) (d : Dev) (k : Dev → Dev × Chk α) : Dev × Chk α :=
  match firstFlaw l with
  | some f => (d, .bad f.2.1 f.2.2)
  | none => k d

/-- Step 8: parameters in byte order; a named record is checked at P0. -/
def Dev.paramCheck (h : CmdHdr) (op : CmdOp) (junk : List Nat) (d : Dev) : Dev × Chk CmdOp :=
  let l := (d.flaws h op ++ junk.flatMap fun i => flaw true i)
  flawChk (l.filter fun f => f.1 == 0) d fun d1 =>
    andChk (d1.opRead op) fun o d2 => flawChk (l.filter fun f => f.1 != 0) d2 fun d3 => (d3, .ok o)

/-! ### Step 9 -/

/-- Palette entries that are valid. -/
def Dev.palOpen (d : Dev) : Nat := d.palCount.toNat

/-- WINDOW_OPENs accepted and not dispatched (R434). -/
def Dev.palHeld (d : Dev) : Nat := (d.cmds.filter fun c => !c.disp && (match c.op with
  | .windowOpen _ => true
  | _ => false)).length

/-- RING_OPENs of a port accepted and not dispatched (R434). -/
def Dev.ringHeld (d : Dev) (port : Nat) : List Cmd := d.cmds.filter fun c => !c.disp && c.h.port == port && (match c.op with
  | .ringOpen _ => true
  | _ => false)

/-- Closed rings 1 to 31 of a port, lowest first. -/
def Dev.freeRings (d : Dev) (port : Nat) : List Nat := (List.range 31).map (· + 1) |>.filter fun r => !(d.ring (32 * port + r)).opn

/-- The open ring that carries a stream. -/
def Dev.ringOf (d : Dev) (stream : Nat) : Option Nat := findFrom (fun g => (d.ring g).opn && (d.ring g).stream == stream) 64 0

/-- The ring that an accepted RING_OPEN of a stream is going to open. -/
def Dev.ringSoon (d : Dev) (stream : Nat) : Option Nat :=
  (List.range 2).findSome? fun p =>
    (d.ringHeld p).findSome? fun c =>
      match c.op with
      | .ringOpen o => if o.stream = stream then ((d.freeRings p).head?).map (32 * p + ·) else none
      | _ => none

/-- Step 9: free Palette entries and free rings (Table 15.7). -/
def Dev.roomBad (d : Dev) (h : CmdHdr) : CmdOp → Option (Nat × Nat)
  | .windowOpen _ => if 64 ≤ d.palOpen + d.palHeld then some (0x10, 64) else none
  | .ringOpen o =>
    match d.ringOf o.stream <|> d.ringSoon o.stream with
    | some g => some (8, g)
    | none => if (d.freeRings h.port).length ≤ (d.ringHeld h.port).length then some (7, 32) else none
  | _ => none

/-- Reject with a status and DETAIL, or go on. -/
def badChk {α : Type} (b : Option (Nat × Nat)) (d : Dev) (k : Dev → Dev × Chk α) : Dev × Chk α :=
  match b with
  | some x => (d, .bad x.1 x.2)
  | none => k d

/-- The checks of Table 15.3, in order. -/
def Dev.cmdCheck (p : Subm) (d : Dev) : Dev × Chk CmdOp :=
  badChk (headBad (d.ring (ringG p.h)) p) d fun d1 =>
    match p.op with
    | none => (d1, .bad 1 p.opcode)
    | some op =>
      badChk (d1.rightBad p.h op) d1 fun d2 =>
        andChk (d2.paramCheck p.h op p.junk) fun o d3 => badChk (d3.roomBad p.h o) d3 fun d4 => (d4, .ok o)

end Sys2Proof.Machine
end

