-- ==== Sys2Proof/Machine/Module.lean ====
section
/-!
DEFINITION. The management mailbox and the flash write engine (R509 to R513), coolant (R515), lane failures of HBM (R169).
-/

namespace Sys2Proof.Machine

/-! ### Mailbox frames -/

/-- Status codes of a mailbox response (Table 19.5). -/
def mbxOk : Nat := 0
/-- BADOP. -/
def mbxBadOp : Nat := 2
/-- BADARG. -/
def mbxBadArg : Nat := 3
/-- DENIED. -/
def mbxDenied : Nat := 4
/-- BUSY. -/
def mbxBusy : Nat := 5
/-- FLASHERR. -/
def mbxFlashErr : Nat := 6

/-- Bytes of a response (Table 19.5). -/
def mbxBytes (tag status : Nat) (payload : List Byte) : List Byte :=
  let b := toLe 1 tag ++ toLe 1 status ++ toLe 2 payload.length ++ payload
  b ++ toLe 4 (crc32c b).toNat

/-- A response is ready, and the in-band interrupt is raised (R509). -/
def Dev.mbxAnswer (d : Dev) (tag status : Nat) (payload : List Byte) : Dev :=
  { d with board := { d.board with req := none, unread := true } }.emit (.mailbox (mbxBytes tag status payload))

/-- A request meets an earlier one that is not done with (R510): BUSY, and the earlier one continues. -/
def Dev.mbxTaken (d : Dev) : Bool := d.board.unread || d.board.req.isSome

/-- Serve a request: island 0 answers while the standby rail is up (R498). -/
def Dev.mbxServe (d : Dev) (tag : Nat) (f : Dev → Dev) : Dev :=
  if !d.board.standby then d
  else if d.mbxTaken then d.emit (.mailbox (mbxBytes tag mbxBusy []))
  else f d

/-- Bytes of a register, least-significant byte first. -/
def wordBytes (w : Word) : List Byte := toLe 4 w.toNat

/-- STATUS (Table 19.6): the status page as port 0 sees it, BOOT_STATUS, BOOT_CAUSE, MOD_ALERT, MOD_COOLANT. It clears
no RC counter of the page (DESIGN CHOICE, log 76). -/
def execStatus (tag : BitVec 8) (s : State) : Host.Outcome State Fault Refusal :=
  s.run fun d => d.mbxServe tag.toNat fun x =>
    x.mbxAnswer tag.toNat mbxOk (((List.range 12).flatMap fun i => wordBytes (x.viewPort 0 (4 * i)))
      ++ wordBytes (x.rd rBootStatus) ++ wordBytes (x.rd rBootCause) ++ wordBytes (x.rd rModAlert) ++ wordBytes (x.rd rModCoolant))

/-- FLASH_READ (Table 19.6, R499): any region. -/
def execFlashRead (tag : BitVec 8) (off len : Nat) (s : State) : Host.Outcome State Fault Refusal :=
  s.run fun d => d.mbxServe tag.toNat fun x =>
    if len = 0 || decide (4096 < len) || decide (0x4000000 < off + len) then x.mbxAnswer tag.toNat mbxBadArg []
    else x.mbxAnswer tag.toNat mbxOk (x.flashBytes off len)

/-- Flash regions open to the mailbox (R512), as first offset and end. -/
def mbxRegions : List (Nat × Nat) :=
  [(0x00010000, 0x00020000), (0x00020000, 0x00030000), (0x00100000, 0x01900000), (0x01900000, 0x03100000)]

/-- A write or erase of the page at an offset is refused (R512). -/
def Dev.pageDeny (d : Dev) (off : Nat) : Bool :=
  match mbxRegions.find? fun r => decide (r.1 ≤ off) && decide (off < r.2) with
  | none => true
  | some r =>
    if r.1 < 0x00100000 then
      (match d.bootNow with
       | some (i, _) => r.1 == bootOff i
       | none => false)
    else d.studio && r.1 == imageOff (d.fld rBootStatus 1 1)

/-- A write or erase of a range is refused: some page of it is. -/
def Dev.mbxDeny (d : Dev) (off n : Nat) : Bool := (List.range ((n + 255) / 256)).any fun k => d.pageDeny (off + 256 * k)

/-- The boot ROM is in the steps in which mailbox writes and erases wait (R513). -/
def Dev.flashHeld (d : Dev) : Bool := decide (1 ≤ d.bootStage) && decide (d.bootStage ≤ 4)

/-- Put the operations of a mailbox request at the end of the write engine's queue (R513). -/
def Dev.mbxQueue (d : Dev) (tag : Nat) (ops : List FlashOp) : Dev :=
  { d with board := { d.board with
      req := some tag, ferr := false, fq := d.board.fq ++ ops, fwait := if d.board.fq.isEmpty then d.flashHeld else d.board.fwait } }

/-- Pages of a write. -/
def flashPages (off : Nat) : Nat → List Byte → List FlashOp
  | 0, _ => []
  | n + 1, bs => ⟨true, decide (n = 0), false, off, bs.take 256⟩ :: flashPages (off + 256) n (bs.drop 256)

/-- FLASH_WRITE (Table 19.6, R512). -/
def execFlashWrite (tag : BitVec 8) (off : Nat) (bytes : List Byte) (s : State) : Host.Outcome State Fault Refusal :=
  s.run fun d => d.mbxServe tag.toNat fun x =>
    if 4096 < bytes.length then x.bump rModMbxErrs 1
    else if bytes.length % 256 ≠ 0 || off % 256 ≠ 0 then x.mbxAnswer tag.toNat mbxBadArg []
    else if x.mbxDeny off bytes.length then x.mbxAnswer tag.toNat mbxDenied []
    else if bytes.isEmpty then x.mbxAnswer tag.toNat mbxOk []
    else x.mbxQueue tag.toNat (flashPages off (bytes.length / 256) bytes)

/-- FLASH_ERASE (Table 19.6, R512). -/
def execFlashErase (tag : BitVec 8) (off : Nat) (arg : BitVec 32) (s : State) : Host.Outcome State Fault Refusal :=
  s.run fun d => d.mbxServe tag.toNat fun x =>
    if off % 65536 ≠ 0 || arg ≠ 0 then x.mbxAnswer tag.toNat mbxBadArg []
    else if x.mbxDeny off 65536 then x.mbxAnswer tag.toNat mbxDenied []
    else x.mbxQueue tag.toNat [⟨true, true, true, off, []⟩]

/-- ALERT_CLEAR (Table 19.6): every named cause except THERM. -/
def execAlertClear (tag : BitVec 8) (mask : BitVec 32) (s : State) : Host.Outcome State Fault Refusal :=
  s.run fun d => d.mbxServe tag.toNat fun x =>
    (x.wr rModAlert (x.rd rModAlert &&& ~~~(mask &&& 0xE#32))).mbxAnswer tag.toNat mbxOk []

/-- ABORT by mailbox (Table 19.6): the hardware ABORT with cause 2 (R276). -/
def execMailboxAbort (tag : BitVec 8) (s : State) : Host.Outcome State Fault Refusal :=
  s.run fun d => d.mbxServe tag.toNat fun x => (x.abortFlood 2).mbxAnswer tag.toNat mbxOk []

/-- MAILBOX_BAD_OP (Table 19.6): an OP that the table does not list. -/
def execMailboxBadOp (tag op : BitVec 8) (s : State) : Host.Outcome State Fault Refusal :=
  s.run fun d =>
    if decide (1 ≤ op.toNat) && decide (op.toNat ≤ 6) then d
    else d.mbxServe tag.toNat fun x => x.mbxAnswer tag.toNat mbxBadOp []

/-- The bytes of a request are as Table 19.5 lays them out: LEN, and the CRC-32C of all before it. LEN of a FLASH_READ is what it returns, and no
payload stands in its request (DESIGN CHOICE, log 43). -/
def mbxShape (b : List Byte) : Bool :=
  let n := field b 2 2
  decide (n ≤ 4096) && decide (b.length = 16 + if field b 0 1 = 2 then 0 else n)
    && decide (field b (b.length - 4) 4 = (crc32c (b.take (b.length - 4))).toNat)

/-- MAILBOX_REQUEST_DISCARD (R510): a request whose CRC or length is wrong is counted; any other, come too early, is told BUSY. -/
def execMailboxRequestDiscard (bytes : List Byte) (s : State) : Host.Outcome State Fault Refusal :=
  s.run fun d =>
    if !d.board.standby then d
    else if !mbxShape bytes then d.bump rModMbxErrs 1
    else if d.mbxTaken then d.emit (.mailbox (mbxBytes (field bytes 1 1) mbxBusy []))
    else d

/-- MAILBOX_RESPONSE_READ (R510). -/
def execMailboxResponseRead (s : State) : Host.Outcome State Fault Refusal :=
  s.run fun d => { d with board := { d.board with unread := false } }

/-- DYNAMIC_ADDRESS_ASSIGNMENT (R509). -/
def execDynamicAddressAssignment (addr : BitVec 7) (s : State) : Host.Outcome State Fault Refusal :=
  s.run fun d => if d.board.standby then { d with board := { d.board with dyn := some addr.toNat } } else d

/-! ### The write engine -/

/-- Bytes programmed over others read back as the AND of old and new (R512). -/
def programBytes : List Byte → List Byte → List Byte
  | o :: os, n :: ns => (o &&& n) :: programBytes os ns
  | _, _ => []

/-- Perform an operation of the write engine; the flag says whether the program or erase succeeded and reads back right. -/
def Dev.flashDo (d : Dev) (o : FlashOp) (ok : Bool) : Bool × Dev :=
  if !ok then (false, d.tear o)
  else if o.erase then (true, d.flashErase o.off)
  else
    let now := programBytes (d.flashBytes o.off o.bytes.length) o.bytes
    (decide (now = o.bytes), d.flashPut o.off now)

/-- The operation at the head of the engine ends (R513). -/
def Dev.flashEnd (d : Dev) (o : FlashOp) (rest : List FlashOp) (ok : Bool) : Dev :=
  let r := d.flashDo o ok
  let d1 : Dev := { r.2 with board := { r.2.board with fq := rest, fwait := r.2.flashHeld } }
  if o.mbox then
    (let bad := d1.board.ferr || !r.1
     let d2 : Dev := { d1 with board := { d1.board with ferr := bad } }
     if o.last then d2.mbxAnswer (d2.board.req.getD 0) (if bad then mbxFlashErr else mbxOk) [] else d2)
  else if r.1 then d1 else d1.flashFail

/-- FLASH_OP_COMPLETE (R513): the operations go on through a module reset (Table 19.9). -/
def execFlashOpComplete (ok : Bool) (s : State) : Host.Outcome State Fault Refusal :=
  s.run fun d =>
    match d.board.fq with
    | [] => d
    | o :: rest => if d.board.standby && !d.board.fwait then d.flashEnd o rest ok else d

/-! ### Coolant, HBM lanes -/

/-- COOLANT_SAMPLE (R515, Table 19.4). -/
def execCoolantSample (inlet outlet : BitVec 8) (s : State) : Host.Outcome State Fault Refusal :=
  s.run fun d =>
    if !d.board.standby then d else
    let d1 := (d.setFld rModCoolant 15 8 outlet.toNat).setFld rModCoolant 7 0 inlet.toNat
    if 65 ≤ outlet.toNat then d1.alert 8 else d1

/-- HBM_LANE_FAILURE (R169, R383, R384): DEGRADED, the memory-degraded event, one failed retest of the pin. -/
def execHbmLaneFailure (stack channel pin : Nat) (s : State) : Host.Outcome State Fault Refusal :=
  s.runIf (decide (stack < 16) && decide (channel < 32) && decide (pin < 70)) fun d =>
    let d1 := ({ d with chans := if d.chans.any (fun c => decide (c = (stack, channel))) then d.chans else d.chans ++ [(stack, channel)] }.setFld
      (rHbmStatus stack) 3 3 1).raise 3
    d1.laneFail 5 12 ⟨.hbmLane, 2240 * stack + 70 * channel + pin⟩

end Sys2Proof.Machine
end

