-- ==== Sys2Proof/Machine/Commands.lean ====
section
/-!
DEFINITION. Rings, fetch, dispatch (R416 to R422), what each opcode does (Table 15.4), the resets of Table 18.5 that commands make, TAKEOVER (R456
to R459), doorbells (R418, R419, R443).
-/

namespace Sys2Proof.Machine

/-! ### Dispatch -/

/-- The head of a ring: its first command that is not dispatched (R420). -/
def Dev.headOf (d : Dev) (g : Nat) : Option Cmd := d.cmds.find? fun c => ringG c.h == g && !c.disp

/-- A waiter of a command. -/
def waitsCmd (id : Nat) : WaitWho → Bool
  | .cmd i _ => i == id
  | _ => false

/-- The head of a ring begins to wait: on WSYNC with WAITEN, on every object of a WAIT (R420, R444). -/
def Dev.armHead (d : Dev) (g : Nat) : Dev :=
  match d.headOf g with
  | none => d
  | some c =>
    if c.armed then d
    else
      let d1 := d.setCmd { c with armed := true }
      let d2 := if wantWait c.h then d1.addWaiter (.cmd c.id 0) c.h.wsync c.h.wval else d1
      match c.op with
      | .wait o n v => iter n (fun i x => x.addWaiter (.cmd c.id (i + 1)) (o + i) v) d2
      | _ => d2

/-- The agent of a command can accept it (R420). -/
def Dev.agentTakes (d : Dev) : CmdOp → Bool
  | .copy die _ => d.dmaRoom die
  | _ => true

/-- The head of a ring may be dispatched (R420). -/
def Dev.ready (d : Dev) (c : Cmd) : Bool :=
  c.armed && !(d.waiters.any fun w => waitsCmd c.id w.who && !w.released)
    && (!wantFence c.h || !(d.cmds.any fun x => ringG x.h == ringG c.h && decide (x.id < c.id))) && d.agentTakes c.op

/-- The ring whose head the Studio dispatches next: highest priority, rings of equal priority in turn (R421); 64 and up, what a lost ring left
(R452). -/
def Dev.choice (d : Dev) : Option Nat :=
  ((List.range 64).flatMap fun i => [64 + (d.rr + 1 + i) % 64, (d.rr + 1 + i) % 64]).foldl (fun (a : Option (Nat × Nat)) g =>
    match d.headOf g with
    | none => a
    | some c =>
      if !d.ready c then a
      else match a with
        | none => some (g, c.prio)
        | some b => if b.2 < c.prio then some (g, c.prio) else a) none |>.map (·.1)

/-! ### Windows and translations -/

/-- The lowest free Palette entry (R279). -/
def Dev.freeWindow (d : Dev) : Option Nat := findFrom (fun i => d.fld (rPalEntryPeer i) 15 15 == 0) 64 0

/-- WINDOW_OPEN (R278, R279, Table 9.11). -/
def Dev.windowOpen (d : Dev) (c : Cmd) (w : WindowP) : Dev :=
  match d.freeWindow with
  | none => d.rejectCmd c 0x10 64
  | some i =>
    let seq := (d.fld (rPalEntrySeq i) 15 0 + 1) % 65536
    let d1 := d.wr (rPalEntryPeer i) (BitVec.ofNat 32 (w.peer % 2 ^ 14 + 2 ^ 15 + w.perm.toNat * 2 ^ 16 + w.rwin % 64 * 2 ^ 24))
    let d2 := d1.wr (rPalEntrySeq i) (BitVec.ofNat 32 (seq + w.rseq.toNat * 2 ^ 16))
    let d3 := (d2.wr64 (rPalEntryRbaseLo i) w.rbase.toNat).wr64 (rPalEntryLbaseLo i) w.lbase.toNat
    let d4 := (d3.wr (rPalEntryRlen i) (BitVec.ofNat 32 w.rlen)).wr (rPalEntryLlen i) (BitVec.ofNat 32 w.llen)
    d4.finish c 0 (i + seq * 2 ^ 16)

/-- A cached translation maps part of a range. -/
def TlbEntry.hits (e : TlbEntry) (va len : Nat) : Bool :=
  decide (len = 0) || meets (e.page * 2 ^ lvlShift e.level) (2 ^ lvlShift e.level) va len

/-- TLB_INVAL (R188): every cache drops its entries for the range; 0 bytes is the whole space (Table 15.4). -/
def Dev.tlbInval (d : Dev) (va len : Nat) : Dev :=
  let keep (m : SMap (List TlbEntry)) : SMap (List TlbEntry) := m.map fun p => (p.1, p.2.filter fun e => !e.hits va len)
  { d with tlbT := keep d.tlbT, tlbD := keep d.tlbD }

/-! ### Faults -/

/-- FAULT_RESOLVE (R198): the command itself has been dispatched, and ends with ST_OK. An id that no pending record has changes nothing. -/
def Dev.faultResolve (d : Dev) (c : Cmd) (id : Nat) (fail : Bool) : Dev :=
  let d1 := { d with cmds := d.cmds.filter fun x => x.id != c.id }
  let d2 := if d1.faults.any (fun f => f.id == id) then (if fail then d1.faultFail id else d1.resumeAll id) else d1
  d2.finish c 0 0

/-! ### Job start and reset -/

/-- JOB_START (R431). -/
def Dev.jobStart (d : Dev) (c : Cmd) (epoch : BitVec 16) : Dev :=
  if d.job ≠ 0 then d.rejectCmd c 0x0A d.job
  else
    (((d.wr rStuJob (BitVec.ofNat 32 (epoch.toNat * 2 ^ 16 + 1))).setFld rXchEpoch 15 0 epoch.toNat).wr rXchGen 0).finish c 0 0

/-- A tile after a job reset: nothing runs, nothing is saved (Table 7.9); the store and the registers stand. -/
def jobTile (x : Tile) : Tile :=
  { x with
    ctx := { x.ctx with run := .idle, cmd := none, loops := [], lsq := [], jobs := [] }
    cq := [], passes := [], vt := {}, slots := [], busy := .none, reqs := [] }

/-- A quarantined unit is retested (R382, R383): one that passes is readmitted, and the pages of a row leave the retired list; a tile or cube
that fails leaves quarantine when a spare site takes its number. -/
def Dev.retest (d : Dev) (u : HwUnit) (pass : Bool) : Dev :=
  let out (x : Dev) : Dev := { x with quar := x.quar.filter fun y => decide (y ≠ u) }
  if pass then
    let d1 := out (d.pushCrz (d.entry 4 11 u 0 0))
    if u.cls = .hbmRow && !(d.retests.any fun x => decide (x = u)) then d1.retire u [] else d1
  else
    let d1 := (d.failRetest 5 11 u 0 0).replaceUnit 11 u
    let t := if u.cls = .cube then u.num / 64 else u.num
    if (u.cls = .cube || u.cls = .tile) && !inSet d1.absent t then out d1 else d1

/-- The retests of a job reset; without word of their outcome, each is open (DESIGN CHOICE, log 38). -/
def Dev.retestAll (d : Dev) (failing : Option (List HwUnit)) : Dev :=
  let d1 := d.quar.foldl (fun x u =>
    match failing with
    | some l => x.retest u (!l.any fun y => decide (y = u))
    | none => x.freshWord.2.retest u (x.freshWord.1.getLsbD 0)) d
  d1.wr rTstQuarCount (BitVec.ofNat 32 d1.quar.length)

/-- What a job reset leaves of the job's agents and their work. Flits that wait in a receive buffer leave it, with their credits (R265). -/
def Dev.jobClear (d0 : Dev) : Dev :=
  let d := d0.inbox.foldl (fun (y : Dev) b => y.credBack b.port b.vc 1) d0
  { d with
    tiles := d.tiles.map fun p => (p.1, jobTile p.2)
    sync := [], waiters := [], faults := [], parks := [], dma := [], xops := [], inbox := [], closedX := [], bars := []
    vcode := 0, endB := none, normEnd := false, normed := false, stepRel := false, owned := [], slacks := [], dig := {}
    routes := [], early := [], sorts := [], upds := []
    fire := { d.fire with step := d.rd64 rUpdStepLo, dirty := true, refs := [] } }

/-- Registers that a job reset changes (R282, R378, R403, Table 10.13). -/
def Dev.jobRegs (d : Dev) : Dev :=
  let d1 := iter 64 (fun i x => x.setFld (rPalEntryPeer i) 15 15 0) d
  let d2 := (((d1.wr rXchGen 0).wr rXchVerdict (resetVal rXchVerdict)).wr rXchNonfinEntry (resetVal rXchNonfinEntry)).wr64 rTstCleanStepLo 0
  d2.setFld rKlnCapEff 11 0 (capIn (d.fld rKlnCap 11 0))

/-- JOB_RESET (R431). -/
def Dev.jobReset (d : Dev) (failing : Option (List HwUnit)) : Dev :=
  (((d.stopAgents.endCmds).setFld rStuJob 1 0 0).jobClear.jobRegs).retestAll failing

/-! ### Tile reset -/

/-- A tile after a tile-level reset (R432, R106). A test firing on it goes on. -/
def resetTile (x : Tile) : Tile :=
  { x with
    ctx := { x.ctx with run := .idle, cmd := none, loops := [], vt := [], acc := [], lsq := [], jobs := [] }
    cq := [], passes := [], vt := {}, slots := [], endSet := true, group := 0
    reqs := x.reqs.filter (·.firing)
    busy := match x.busy with
      | .firing p => .firing p
      | _ => .none }

/-- The command with an id has work on a tile, running or saved. -/
def Tile.serves (x : Tile) (id : Nat) : Bool :=
  (decide (x.ctx.cmd = some id) && decide (x.ctx.run ≠ .idle)) || x.slots.any fun s => decide (s.2.ctx.cmd = some id)

/-- Agent of a tile. -/
def tileAgent (t n : Nat) : Agent → Bool
  | .tile x => decide (t ≤ x) && decide (x < t + n)
  | _ => false

/-- Withdraw the fault records of a range of tiles; one that other agents are merged under stays (Table 7.9). -/
def Dev.withdraw (d : Dev) (t n : Nat) : Dev :=
  let parks := d.parks.filter fun p => !tileAgent t n p.agent
  { d with
    parks := parks
    faults := d.faults.filter fun f => !tileAgent t n f.agent || parks.any fun p => decide (p.fault = some f.id) }

/-- Retries and waits of a tile end with it. -/
def Dev.tileDrop (t : Nat) (d : Dev) : Dev :=
  let mine (r : Retry) : Bool :=
    match r.what with
    | .cubePass x | .drain x _ | .store x | .ldt x _ | .save x | .restore x => x == t
    | _ => false
  let die := d.dmaDie (dieOf t)
  let d1 := ({ d with retries := d.retries.filter fun r => !mine r }.setDmaDie (dieOf t)
    { die with susp := die.susp.filter fun r => !r.names t }).dropWaiters fun w =>
      match w with
      | .tile x => x == t
      | .saved x _ => x == t
      | _ => false
  if SMap.has d1.tiles t then d1.modTile t resetTile else d1

/-- A LAUNCH or UPDATE ends with ST_TILE_RESET; an update's SYNC is signalled, and the engine drops it (R330, R432). -/
def Dev.endReset (d : Dev) (c : Cmd) (low : Nat) : Dev :=
  match d.upds.find? fun u => u.cmd == c.id with
  | some u =>
    let d1 := ((d.signal (urec u.rec_).sync).updGone u c.tiles)
    { d1 with xops := d1.xops.filter fun x => !(x.key == (urec u.rec_).key && x.op == 12) }.finish c 0x23 low
  | none => d.finish c 0x23 low

/-- TILE_RESET (R432). -/
def Dev.tileReset (d : Dev) (t0 n : Nat) : Dev :=
  let hit (c : Cmd) : Option Nat := if c.disp then findFrom (fun t => (d.tile t).serves c.id) n t0 else none
  let ended := d.cmds.filterMap fun c => (hit c).map fun t => (c, t)
  let d1 := (iterFrom Dev.tileDrop n t0 d).withdraw t0 n
  ended.foldl (fun x p => x.endReset p.1 p.2) d1

/-! ### Takeover -/

/-- REASON of a TAKEOVER (R456, R457). -/
def Dev.takeReason (d : Dev) (port mode : Nat) : Nat :=
  if port = d.owner then 2
  else if mode = 0 then (if max (d.rd rHifHbLimit).toNat 1000 ≤ (d.rd rHifHbAge).toNat then 0 else 1)
  else if d.fld rHifOwner 8 8 = 1 then 0 else 3

/-- The steps of R458. -/
def Dev.takeOver (d : Dev) (port : Nat) : Dev :=
  let old := d.owner
  let d1 := d.setFld rHifOwner 0 0 port
  let d2 := (d1.cmds.filter fun c => c.h.port == old && !c.disp).foldl (fun x c => x.finish c 0x21 port) d1
  let d3 := iter 256 (fun s x => if x.tgt s = old + 1 && !(decide (6 ≤ s) && decide (s ≤ 9)) then x.setFld (rEvcTgt s) 1 0 (port + 1) else x) d2
  let d4 := (d3.faults.filter (·.sent)).foldl (fun x f => x.sendFault f) d3
  (((((d4.wr rHifHbAge 0).setFld rHifOwner 8 8 0).bump rHifTakeovers 1).raise 6).raise 7)

/-- TAKEOVER (R456 to R458). -/
def Dev.takeover (d : Dev) (c : Cmd) (mode : Nat) : Dev :=
  let why := d.takeReason c.h.port mode
  let age := (d.rd rHifHbAge).toNat
  let d1 := if why = 0 then d.takeOver c.h.port else d
  d1.finish c 0 ((if why = 0 then 1 else 0) + 2 * why + 2 ^ 8 * d1.owner + 2 ^ 16 * age)

/-! ### QUERY and register access -/

/-- DETAIL of a QUERY (Table 15.5). -/
def Dev.queryOf (d : Dev) (kind arg : Nat) : Nat :=
  if kind = 0 then (d.count arg).toNat
  else if kind = 1 then d.job + d.epoch * 2 ^ 16
  else if kind = 2 then
    (let r := d.ring arg
     (d.cmds.filter fun c => ringG c.h == arg).length % 65536 + r.fetched.toNat % 65536 * 2 ^ 16 + r.stream * 2 ^ 32 + r.prio * 2 ^ 40
       + (if r.opn then 2 ^ 48 else 0))
  else 64 - d.palOpen

/-- REG_READ (R430, R524, R526). -/
def Dev.regRead (d : Dev) (c : Cmd) (addr : Nat) : Dev :=
  let r := d.regGet (.ring c.h.port c.h.ringNo) (addr - 0x30000000000) 0
  r.2.finish c 0 r.1.toNat

/-- REG_WRITE (R430, R527). BOOT_CTL.DORMANT acts after the reply (R495). -/
def Dev.regWriteCmd (d : Dev) (c : Cmd) (addr : Nat) (v : Word) : Dev :=
  let off := addr - 0x30000000000
  let path : Path := .ring c.h.port c.h.ringNo
  if canonOff off = rBootCtl && bitsOf v 1 1 = 1 then
    ((Dev.regPut path off (v &&& ~~~(2#32)) d).finish c 0 0).dormantEnter none
  else (Dev.regPut path off v d).finish c 0 0

/-! ### Effects -/

/-- A LAUNCH or UPDATE takes the tiles of its range, lowest first (R428, R203). -/
def Dev.claimAll (d : Dev) (c : Cmd) (t0 n : Nat) : Dev :=
  let c1 := { c with tiles := (List.range n).map (t0 + ·), start := (List.range n).map (t0 + ·) }
  iterFrom (fun t x => if x.alive then x.claimTile c1 t else x) n t0 (d.setCmd c1)

/-- RING_OPEN (R416): the lowest closed ring of the port. -/
def Dev.ringOpenCmd (d : Dev) (c : Cmd) (o : RingOpenP) : Dev :=
  match (d.freeRings c.h.port).head? with
  | none => d.rejectCmd c 7 32
  | some r =>
    (d.setRing (32 * c.h.port + r)
      { opn := true, stream := o.stream, prio := o.prio, n := o.n, loc := o.loc, cbase := o.cbase.toNat, sbase := o.sbase.toNat }).finish c 0 r

/-- What a dispatched command does (Table 15.4). -/
def Dev.effect (d : Dev) (c : Cmd) : Dev :=
  match c.op with
  | .nop => d.finish c 0 0
  | .launch l => d.claimAll c l.tile0 l.ntiles
  | .copy die r => d.dmaPush die (dmaRecOf r (.cmd c.id) c.h.stream c.prio d.dmaSeq)
  | .signal o n => (iterFrom (fun i x => x.signal i) n o d).finish c 0 0
  | .wait _ _ _ => d.finish c 0 0
  | .add o n v => (iterFrom (fun i x => x.setCount i (x.count i + v)) n o d).finish c 0 0
  | .reset o n v => (iterFrom (fun i x => x.setCount i v) n o d).finish c 0 0
  | .ringOpen o => d.ringOpenCmd c o
  | .ringClose r => d.setRing (32 * c.h.port + r) { d.ring (32 * c.h.port + r) with closing := true }
  | .route _ b g hd => d.routeLaunch c b g hd
  | .exch opc _ b g t => if opc = 0x13 then (d.xLaunch c b g t).startPermute (xrec b).xid else d.xLaunch c b g t
  | .update _ b g t0 n => (d.updDispatch c b g).claimAll c t0 n
  | .windowOpen w => d.windowOpen c w
  | .windowClose _ => d
  | .tlbInval va len => (d.tlbInval va.toNat len.toNat).finish c 0 0
  | .faultResolve id fail => d.faultResolve c id fail
  | .jobStart e => d.jobStart c e
  | .jobReset l =>
    let d1 := d.jobReset l
    d1.finish c 0 (d1.quar.length % 65536)
  | .tileReset t n => (d.tileReset t n).finish c 0 0
  | .abort => (d.abortFlood 3).finish c 0 0
  | .takeover m => d.takeover c m
  | .query k a => d.finish c 0 (d.queryOf k a)
  | .regRead a => d.regRead c a.toNat
  | .regWrite a v => d.regWriteCmd c a.toNat v

/-- Dispatch the head of a ring (R420, R421). -/
def Dev.dispatchHead (d : Dev) (g : Nat) : Dev :=
  match d.headOf g with
  | none => d
  | some c =>
    let c1 := { c with disp := true }
    let d1 := ({ d with rr := g % 64 }.setCmd c1).dropWaiters (waitsCmd c.id)
    (d1.effect c1).armHead g

/-! ### Fetch -/

/-- Packets of a ring that lie below its tail and are not fetched (R418). -/
def Ring.waiting (r : Ring) : Nat := (r.tail - r.fetched).toNat

/-- Replies written and not consumed (R419). -/
def Ring.unread (r : Ring) : Nat := (r.replies - r.consumed).toNat

/-- A ring's commands are served: it is open, the Studio runs, its port may issue requests (R451), a reply has a place (R419). -/
def Dev.mayFetch (d : Dev) (g : Nat) : Bool :=
  let r := d.ring g
  d.studio && r.opn && (d.port (g / 32)).bme && !(d.port (g / 32)).d3hot
    && decide ((d.cmds.filter fun c => ringG c.h == g).length + r.unread < 2 ^ r.n)

/-- Packets are fetched (R414, R419); HIF_ADMINp_HEAD counts those of an admin ring. -/
def Dev.took (d : Dev) (g n : Nat) : Dev :=
  let r := d.ring g
  let r1 : Ring := { r with fetched := r.fetched + BitVec.ofNat 32 n, seq := r.seq + 1 }
  let d1 := d.setRing g r1
  if g % 32 = 0 then d1.wr (rHifAdminHead (g / 32)) r1.fetched else d1

/-- A command that has been validated: accepted, rejected, or ended by the fault of a record's memory (R423, R424). -/
def Dev.judged (p : Subm) (prio : Nat) (r : Dev × Chk CmdOp) : Dev :=
  let d := r.1
  let mk (op : CmdOp) : Cmd :=
    { id := d.cmdSeq, h := p.h, op := op, prio := prio, disp := false, armed := false, tiles := [], start := [], bad := 0, low := 0 }
  match r.2 with
  | .ok op => { d with cmds := d.cmds ++ [mk op], cmdSeq := d.cmdSeq + 1 }.armHead (ringG p.h)
  | .bad st det => (d.bump (rHifCmdRejects p.h.port) 1).reply p.h p.opcode st det
  | .dead =>
    match p.op with
    | some op => { d with cmdSeq := d.cmdSeq + 1 }.finish (mk op) 0x22 d.epoch
    | none => d

/-- Fetch a command and validate it (R419, R423). -/
def Dev.fetch (p : Subm) (d : Dev) : Dev :=
  let g := ringG p.h
  Dev.judged p (d.ring g).prio ((d.cmdCheck p).1.took g (packets p.len), (d.cmdCheck p).2)

/-- A port and one of its rings. -/
def ringOk (port ringNo : Nat) : Bool := decide (port < 2) && decide (ringNo < 32)

/-- A command row: its packets are on its ring below the tail, and the Studio fetches and validates it; when it is next by R421 it is dispatched. -/
def Dev.submit (p : Subm) (d : Dev) : Dev :=
  let g := ringG p.h
  if !d.mayFetch g then d
  else
    let r := d.ring g
    let n := packets p.len
    let d1 := d.setRing g { r with tail := if r.waiting < n then r.fetched + BitVec.ofNat 32 n else r.tail }
    let d2 := Dev.fetch p d1
    if d2.choice = some g then d2.dispatchHead g else d2

/-- The outcome of a command row. -/
def State.command (s : State) (h : CmdHdr) (op : CmdOp) : Host.Outcome State Fault Refusal :=
  s.runIf (ringOk h.port h.ringNo) (Dev.submit (submOf h op))

/-- The same for a command whose records, image or work are read from device memory: its reads meet the outcomes `us` of the codes. -/
def State.commandC (s : State) (us : List Upset) (h : CmdHdr) (op : CmdOp) : Host.Outcome State Fault Refusal :=
  s.runIfC us (ringOk h.port h.ringNo) (Dev.submit (submOf h op))

/-- The bytes of `n` packets of a ring in device memory, or a glaze fault of it (R417, R176). -/
def Dev.ringBytes (r : Ring) : Nat → Nat → Dev → Dev × Option (List Byte)
  | 0, _, d => (d, some [])
  | n + 1, i, d =>
    let pa := r.cbase + 64 * ((r.fetched.toNat + i) % 2 ^ r.n)
    match d.readBlock none pa with
    | (d1, false) => (d1, none)
    | (d1, true) =>
      match Dev.ringBytes r n (i + 1) d1 with
      | (d2, some bs) => (d2, some (Mem.bytes 0 d1.mem pa 64 ++ bs))
      | x => x

/-- COMMAND_FETCH (R419): `bytes` are the packets at the ring's next entries, where the ring lies in host memory. -/
def execCommandFetch (port ringNo : Nat) (bytes : List Byte) (us : List Upset) (s : State) : Host.Outcome State Fault Refusal :=
  s.runIfC us (ringOk port ringNo) fun d =>
    let r := d.ring (32 * port + ringNo)
    if !d.mayFetch (32 * port + ringNo) || decide (r.waiting = 0) then d
    else if r.loc then
      ifDone (Dev.ringBytes r 1 0 d) fun b d1 =>
        if r.waiting < packets (field b 8 1) then d1
        else ifDone (Dev.ringBytes r (packets (field b 8 1)) 0 d1) fun bs d2 => Dev.fetch (parsePacket port ringNo bs) d2
    else if r.waiting < packets (field bytes 8 1) then d
    else Dev.fetch (parsePacket port ringNo bytes) d

/-- COMMAND_DISPATCH (R420, R421). -/
def execCommandDispatch (port ringNo : Nat) (us : List Upset) (s : State) : Host.Outcome State Fault Refusal :=
  s.runIfC us (ringOk port ringNo) fun d =>
    match (if d.studio then d.choice else none) with
    | some g => if g % 64 = 32 * port + ringNo then d.dispatchHead g else d
    | none => d

/-- SYNC_WAITER_RELEASE (R439): waiter `k` of the unit, once released, resumes: a tile goes on after its WAIT, a command is dispatched when it
is next. -/
def execSyncWaiterRelease (k : Nat) (us : List Upset) (s : State) : Host.Outcome State Fault Refusal :=
  s.runC us fun d =>
    match d.waiters[k]? with
    | none => d
    | some w =>
      if !w.released then d
      else match w.who with
        | .tile t =>
          if decide ((d.tile t).ctx.run = .waiting) && decide ((d.tile t).busy = .none) then { d with waiters := delNth d.waiters k }.waitOver t
          else d
        | .cmd id _ =>
          match d.cmd? id with
          | some c => if d.studio && decide (d.choice = some (ringG c.h)) then d.dispatchHead (ringG c.h) else d
          | none => d
        | _ => d

/-! ### Doorbells -/

/-- A port's BAR4 answers: BAR2 and BAR4 are refused after a failed start (Table 18.8). -/
def Dev.bellsOn (d : Dev) (p : Nat) : Bool := d.barsOn p && d.bootStage == 12

/-- DB_CMD_TAIL (R418, R443): a doorbell write wakes the Studio's source of its port (Table 17.1). -/
def execDbCmdTail (port ringNo : Nat) (v : BitVec 32) (s : State) : Host.Outcome State Fault Refusal :=
  s.runIf (ringOk port ringNo) fun d =>
    let r := d.ring (32 * port + ringNo)
    if !d.bellsOn port then d
    else if !r.opn || decide (2 ^ r.n < (v - r.fetched).toNat) then d.bump (rHifDbIgnored port) 1
    else (d.setRing (32 * port + ringNo) { r with tail := v }).raise (18 + port)

/-- DB_STS_HEAD (R419, R443): replies consumed. A count beyond the replies written is ignored (DESIGN CHOICE, log 39). -/
def execDbStsHead (port ringNo : Nat) (v : BitVec 32) (s : State) : Host.Outcome State Fault Refusal :=
  s.runIf (ringOk port ringNo) fun d =>
    let r := d.ring (32 * port + ringNo)
    if !d.bellsOn port then d
    else if !r.opn || decide (r.unread < (v - r.consumed).toNat) then d.bump (rHifDbIgnored port) 1
    else (d.setRing (32 * port + ringNo) { r with consumed := v }).raise (18 + port)

/-! ### The command rows -/

/-- NOP (R427). -/
def execNop (h : CmdHdr) (s : State) : Host.Outcome State Fault Refusal := s.command h .nop

/-- LAUNCH (R428). -/
def execLaunch (h : CmdHdr) (l : LaunchP) (us : List Upset) (s : State) : Host.Outcome State Fault Refusal := s.commandC us h (.launch l)

/-- COPY (R429). -/
def execCopy (h : CmdHdr) (die : Nat) (r : List Byte) (s : State) : Host.Outcome State Fault Refusal := s.command h (.copy die r)

/-- SIGNAL (R436). -/
def execSignal (h : CmdHdr) (obj count : Nat) (s : State) : Host.Outcome State Fault Refusal := s.command h (.signal obj count)

/-- WAIT (R444). -/
def execWait (h : CmdHdr) (obj count : Nat) (v : BitVec 32) (s : State) : Host.Outcome State Fault Refusal := s.command h (.wait obj count v)

/-- ADD (R436). -/
def execCmdAdd (h : CmdHdr) (obj count : Nat) (v : BitVec 32) (s : State) : Host.Outcome State Fault Refusal := s.command h (.add obj count v)

/-- RESET (R436). -/
def execReset (h : CmdHdr) (obj count : Nat) (v : BitVec 32) (s : State) : Host.Outcome State Fault Refusal := s.command h (.reset obj count v)

/-- RING_OPEN (R416). -/
def execRingOpen (h : CmdHdr) (o : RingOpenP) (s : State) : Host.Outcome State Fault Refusal := s.command h (.ringOpen o)

/-- RING_CLOSE (R427). -/
def execRingClose (h : CmdHdr) (ringNo : Nat) (s : State) : Host.Outcome State Fault Refusal := s.command h (.ringClose ringNo)

/-- ROUTE (R212). -/
def execRoute (h : CmdHdr) (desc : BitVec 64) (us : List Upset) (s : State) : Host.Outcome State Fault Refusal := s.commandC us h (.route desc unread grpNone unread)

/-- EXCHANGE (R284). -/
def execExchange (h : CmdHdr) (va : BitVec 64) (us : List Upset) (s : State) : Host.Outcome State Fault Refusal := s.commandC us h (.exch 0x11 va unread grpNone unread)

/-- REDUCE_INT (R284). -/
def execReduceInt (h : CmdHdr) (va : BitVec 64) (us : List Upset) (s : State) : Host.Outcome State Fault Refusal := s.commandC us h (.exch 0x12 va unread grpNone unread)

/-- PERMUTE (R310). -/
def execPermute (h : CmdHdr) (va : BitVec 64) (us : List Upset) (s : State) : Host.Outcome State Fault Refusal := s.commandC us h (.exch 0x13 va unread grpNone unread)

/-- UPDATE (R332). -/
def execUpdate (h : CmdHdr) (va : BitVec 64) (tile0 ntiles : Nat) (us : List Upset) (s : State) : Host.Outcome State Fault Refusal :=
  s.commandC us h (.update va unread none tile0 ntiles)

/-- WINDOW_OPEN (R279). -/
def execWindowOpen (h : CmdHdr) (w : WindowP) (s : State) : Host.Outcome State Fault Refusal := s.command h (.windowOpen w)

/-- WINDOW_CLOSE (R279). -/
def execWindowClose (h : CmdHdr) (index : Nat) (s : State) : Host.Outcome State Fault Refusal := s.command h (.windowClose index)

/-- TLB_INVAL (R188). -/
def execTlbInval (h : CmdHdr) (va len : BitVec 64) (s : State) : Host.Outcome State Fault Refusal := s.command h (.tlbInval va len)

/-- FAULT_RESOLVE (R198). -/
def execFaultResolve (h : CmdHdr) (id : Nat) (fail : Bool) (s : State) : Host.Outcome State Fault Refusal := s.command h (.faultResolve id fail)

/-- JOB_START (R431). -/
def execJobStart (h : CmdHdr) (epoch : BitVec 16) (s : State) : Host.Outcome State Fault Refusal := s.command h (.jobStart epoch)

/-- JOB_RESET (R431): `failing` are the quarantined units whose retest fails. -/
def execJobReset (h : CmdHdr) (failing : List HwUnit) (s : State) : Host.Outcome State Fault Refusal := s.command h (.jobReset (some failing))

/-- TILE_RESET (R432). -/
def execTileReset (h : CmdHdr) (tile0 ntiles : Nat) (s : State) : Host.Outcome State Fault Refusal := s.command h (.tileReset tile0 ntiles)

/-- ABORT (R276). -/
def execAbort (h : CmdHdr) (s : State) : Host.Outcome State Fault Refusal := s.command h .abort

/-- TAKEOVER (R457). -/
def execTakeover (h : CmdHdr) (mode : Nat) (s : State) : Host.Outcome State Fault Refusal := s.command h (.takeover mode)

/-- QUERY (R427). -/
def execQuery (h : CmdHdr) (kind arg : Nat) (s : State) : Host.Outcome State Fault Refusal := s.command h (.query kind arg)

/-- REG_READ (R430). -/
def execRegRead (h : CmdHdr) (addr : BitVec 64) (s : State) : Host.Outcome State Fault Refusal := s.command h (.regRead addr)

/-- REG_WRITE (R430). -/
def execRegWrite (h : CmdHdr) (addr : BitVec 64) (v : BitVec 32) (s : State) : Host.Outcome State Fault Refusal := s.command h (.regWrite addr v)

end Sys2Proof.Machine
end

