-- ==== Sys2Proof/Machine/HostPort.lean ====
section
/-!
DEFINITION. The host ports: MSI-X (R450), Bus Master Enable and D3hot (R451), PERST# and lost links (R452, R481), the DOE mailbox with the SPDM responder (R461,
R462, R491, R492), and the wake from Dormant, after which the Studio serves them (R497).
-/

namespace Sys2Proof.Machine

/-! ### Interrupts and bus mastering -/

/-- A pending message goes, if the line is still high; the pending bit clears (R450). -/
def Dev.msixGo (d : Dev) (p : Nat) : Dev :=
  if (d.port p).pend && !(d.port p).masked && d.mayIssue p then
    let d1 := d.setPort p { d.port p with pend := false }
    if (d1.evcT (p + 1)).line then d1.emit (.msix p) else d1
  else d

/-- A masked vector is unmasked: a message is due if the line is high, whether or not the line rose under the mask (R450, Table 17.3). -/
def Dev.unmask (d : Dev) (p : Nat) : Dev :=
  if (d.port p).masked then (d.setPort p { d.port p with masked := false, pend := (d.evcT (p + 1)).line }).msixGo p else d

/-- MSIX_UNMASK (R450). -/
def execMsixUnmask (port : Nat) (s : State) : Host.Outcome State Fault Refusal :=
  s.runIf (hostOk port) fun d => d.unmask port

/-- A held write goes (R451): a reply of a ring that has closed is dropped and counted (R452). -/
def Dev.heldGo (p : Nat) (d : Dev) (w : Nat × List Byte) : Dev :=
  if w.1 = 64 then (d.emit (.faultRing p w.2)).raise 4
  else if (d.ring (32 * p + w.1)).opn then d.emit (.reply p w.1 w.2)
  else d.bump rHifReplyDrops 1

/-- What was held while the port could not issue goes, in order (R451). -/
def Dev.release (d : Dev) (p : Nat) : Dev :=
  if d.mayIssue p then
    ((d.port p).held.foldl (Dev.heldGo p) (d.setPort p { d.port p with held := [] })).msixGo p
  else d

/-- BUS_MASTER_ENABLE_CHANGE (R451). -/
def execBusMasterEnableChange (port : Nat) (bme d3hot : Bool) (s : State) : Host.Outcome State Fault Refusal :=
  s.runIf (hostOk port) fun d => (d.setPort port { d.port port with bme := bme, d3hot := d3hot }).release port

/-! ### Port reset -/

/-- A ring closes without its host (R452); the admin ring's enable clears. -/
def Dev.ringLost (d : Dev) (g : Nat) : Dev :=
  let d1 := d.ringShut g
  if g % 32 = 0 then d1.setFld (rHifAdminCtl (g / 32)) 31 31 0 else d1

/-- PERST_ASSERT (R452): the port resets; replies held for its rings can no longer be written. -/
def execPerstAssert (port : Nat) (s : State) : Host.Outcome State Fault Refusal :=
  s.runIf (hostOk port) fun d =>
    let d1 := iter 32 (fun i x => x.ringLost (32 * port + i)) d
    (d1.setPort port { ({} : HostPort) with held := (d1.port port).held }).wr (rHifLink port) 0

/-- PERST_DEASSERT (R481): once its X-die is released the port trains its link, and what was held goes. -/
def execPerstDeassert (port : Nat) (gen : BitVec 4) (width : BitVec 5) (flit : Bool) (s : State) : Host.Outcome State Fault Refusal :=
  s.runIf (hostOk port) fun d =>
    let d1 := d.setPort port { d.port port with perst := false }
    if d1.bootStage = 0 then d1
    else (d1.wr (rHifLink port) (BitVec.ofNat 32 (gen.toNat + 16 * width.toNat + (if flit then 512 else 0) + 1024))).release port

/-- CONFIGURATION_REQUEST (R481). -/
def execConfigurationRequest (port : Nat) (s : State) : Host.Outcome State Fault Refusal :=
  s.runIf (hostOk port) fun d =>
    if d.linkUp port && !(d.port port).perst then d.emit (.config port (d.bootStage != 12 && d.bootStage != 15)) else d

/-- RING_FETCH_FAILED (R452): 0 Completion Timeout, 1 Unsupported Request, 2 Completer Abort. -/
def execRingFetchFailed (port ringNo kind : Nat) (s : State) : Host.Outcome State Fault Refusal :=
  s.runIf (ringOk port ringNo && decide (kind < 3)) fun d =>
    let g := 32 * port + ringNo
    if d.mayFetch g && !(d.ring g).loc && decide (0 < (d.ring g).waiting) then (d.ringLost g).emit (.aer port (2 + kind)) else d

/-! ### SPDM (PRESUMED, log 40: the layouts of SPDM 1.2) -/

/-- The first four bytes of an SPDM 1.2 message. -/
def spdmHead (code p1 p2 : Nat) : List Byte := [0x12, BitVec.ofNat 8 code, BitVec.ofNat 8 p1, BitVec.ofNat 8 p2]

/-- ERROR: 1 InvalidRequest, 5 Unspecified, 7 UnsupportedRequest. -/
def spdmError (code data : Nat) : List Byte := spdmHead 0x7F code data

/-- Open bytes (DESIGN CHOICE, log 12): `n` of them, and the device with its counter advanced. -/
def Dev.freshBytes (d : Dev) (n : Nat) : List Byte × Dev :=
  ((List.range n).map fun i => Config.freeByte (d.free + i), { d with free := d.free + n })

/-- The certificate chain that slot 0 serves (R491): as flash holds it, with its length in the first two bytes. -/
def Dev.certChain (d : Dev) : List Byte := d.flashBytes 0x03240000 (leNat (d.flashBytes 0x03240000 2))

/-- The identity key failed (R491). -/
def Dev.idFail (d : Dev) : Bool := d.fld rSecStatus 1 1 == 1

/-- Type of a measurement block, as a digest (Table 18.4). -/
def blockType (i : Nat) : Nat := if i = 1 then 0 else if i = 2 then 1 else 3

/-- A measurement block (R492, Table 18.4). -/
def Dev.measBlock (d : Dev) (i : Nat) : List Byte :=
  [BitVec.ofNat 8 i, 1] ++ toLe 2 35 ++ [BitVec.ofNat 8 (blockType i)] ++ toLe 2 32
    ++ (List.range 8).flatMap fun w => toLe 4 (d.rd (rSecMeasW i w)).toNat

/-- VERSION: 1.2 only (Table 16.6). -/
def spdmVersion : List Byte := [0x10, 0x04, 0, 0, 0, 1, 0x00, 0x12]

/-- CAPABILITIES: CERT, CHAL, MEAS with signature (Table 16.6); messages fit the mailbox (R461). The timing exponent is open. -/
def Dev.spdmCaps (d : Dev) : List Byte × Dev :=
  let f := d.freshBytes 1
  (spdmHead 0x61 0 0 ++ [0] ++ f.1 ++ [0, 0] ++ toLe 4 0x16 ++ toLe 4 4088 ++ toLe 4 4088, f.2)

/-- ALGORITHMS: SM2 and SM3-256 (Table 16.6). -/
def spdmAlgs : List Byte :=
  spdmHead 0x63 0 0 ++ toLe 2 36 ++ [1, 0] ++ toLe 4 0x80 ++ toLe 4 0x200 ++ toLe 4 0x40 ++ List.replicate 12 0 ++ [0, 0] ++ toLe 2 0

/-- CERTIFICATE: a portion of the chain; an empty slot or an offset past the end is an invalid request. -/
def Dev.spdmCert (d : Dev) (slot off len : Nat) : List Byte :=
  let c := d.certChain
  let part := (c.drop off).take (min len 4080)
  if d.idFail then spdmError 5 0
  else if slot ≠ 0 || c.length ≤ off then spdmError 1 0
  else spdmHead 0x02 slot 0 ++ toLe 2 part.length ++ toLe 2 (c.length - off - part.length) ++ part

/-- The identity key's signature over a message (R490); its random number comes from the free counter. -/
def Dev.spdmSign (d : Dev) (msg : List Byte) : List Byte × Dev :=
  (Config.sm2Sign (d.key.getD 0) msg d.free, { d with free := d.free + 1 })

/-- CHALLENGE_AUTH (R490, R491): the responder's nonce is open; the signature covers the request and the response before it. -/
def Dev.spdmAuth (d : Dev) (slot : Nat) (nonce : List Byte) : List Byte × Dev :=
  if d.idFail then (spdmError 5 0, d)
  else if slot ≠ 0 then (spdmError 1 0, d)
  else
    let n := d.freshBytes 32
    let body := spdmHead 0x03 0 1 ++ Config.sm3 d.certChain ++ n.1 ++ toLe 2 0
    let g := n.2.spdmSign (spdmHead 0x83 slot 0 ++ nonce ++ body)
    (body ++ g.1, g.2)

/-- MEASUREMENTS (R490, R492): index 0 gives their number, 0xFF all of them; a signature covers the request and the response before it. -/
def Dev.spdmMeas (d : Dev) (index : Nat) (sign : Bool) (nonce : List Byte) : List Byte × Dev :=
  if d.idFail then (spdmError 5 0, d)
  else if index ≠ 0 && index ≠ 0xFF && 5 < index then (spdmError 1 0, d)
  else
    let is := if index = 0 then [] else if index = 0xFF then [1, 2, 3, 4, 5] else [index]
    let recs := is.flatMap fun i => d.measBlock i
    let n := d.freshBytes 32
    let body := spdmHead 0x60 (if index = 0 then 5 else 0) 0 ++ toLe 1 is.length ++ toLe 3 recs.length ++ recs ++ n.1 ++ toLe 2 0
    if sign then
      let g := n.2.spdmSign (spdmHead 0xE0 1 index ++ nonce ++ [0] ++ body)
      (body ++ g.1, g.2)
    else (body, n.2)

/-- DOE Discovery: index 0 is discovery itself, 1 SPDM (R461). -/
def doeFound (index : Nat) : List Byte :=
  if index = 0 then [0x01, 0x00, 0x00, 0x01] else if index = 1 then [0x01, 0x00, 0x01, 0x00] else [0xFF, 0xFF, 0xFF, 0x00]

/-- The Studio's answer to a data object (R461, R462). A NEGOTIATE_ALGORITHMS without SM2 or without SM3 leaves the connection as it was. -/
def Dev.doeAnswer (d : Dev) (p : Nat) : DoeReq → List Byte × Dev
  | .discovery i => (doeFound i, d)
  | .version => (spdmVersion, d.setPort p { d.port p with algs := false })
  | .capabilities => d.spdmCaps
  | .algorithms a h =>
    if a && h then (spdmAlgs, d.setPort p { d.port p with algs := true })
    else
      let f := d.freshBytes 1
      (spdmHead 0x7F 0 0 |>.set 2 (nth 0 f.1 0), f.2)
  | .digests => (spdmHead 0x01 0 1 ++ Config.sm3 d.certChain, d)
  | .certificate s o l => (d.spdmCert s o l, d)
  | .challenge s n => d.spdmAuth s n
  | .measurements i s n => d.spdmMeas i s n
  | .unsupported c => (spdmError 7 c.toNat, d)

/-- The Studio serves a port's mailbox. -/
def Dev.doeServe (d : Dev) (p : Nat) : Dev :=
  match (if d.studio then (d.port p).doe else none) with
  | none => d
  | some q =>
    let a := d.doeAnswer p q
    (a.2.setPort p { a.2.port p with doe := none }).emit (.spdm p a.1)

/-- A data object is written to a port's mailbox: the Studio's event (Table 17.1), and its answer. A mailbox that holds one takes no other. -/
def State.doe (s : State) (port : Nat) (q : DoeReq) : Host.Outcome State Fault Refusal :=
  s.runIf (hostOk port) fun d =>
    if !d.barsOn port || (d.port port).doe.isSome then d
    else ((d.setPort port { d.port port with doe := some q }).raise (20 + port)).doeServe port

/-- DOE_DISCOVERY (R461). -/
def execDoeDiscovery (port index : Nat) (s : State) : Host.Outcome State Fault Refusal := s.doe port (.discovery index)

/-- GET_VERSION (R462). -/
def execGetVersion (port : Nat) (s : State) : Host.Outcome State Fault Refusal := s.doe port .version

/-- GET_CAPABILITIES (R462). -/
def execGetCapabilities (port : Nat) (s : State) : Host.Outcome State Fault Refusal := s.doe port .capabilities

/-- NEGOTIATE_ALGORITHMS (R462): whether SM2 and SM3 are among those offered. -/
def execNegotiateAlgorithms (port : Nat) (sm2 sm3 : Bool) (s : State) : Host.Outcome State Fault Refusal := s.doe port (.algorithms sm2 sm3)

/-- GET_DIGESTS (R462). -/
def execGetDigests (port : Nat) (s : State) : Host.Outcome State Fault Refusal := s.doe port .digests

/-- GET_CERTIFICATE (R462, R491). -/
def execGetCertificate (port slot off len : Nat) (s : State) : Host.Outcome State Fault Refusal := s.doe port (.certificate slot off len)

/-- CHALLENGE (R490, R491). -/
def execChallenge (port slot : Nat) (nonce : List Byte) (s : State) : Host.Outcome State Fault Refusal := s.doe port (.challenge slot nonce)

/-- GET_MEASUREMENTS (R490, R492). -/
def execGetMeasurements (port index : Nat) (sign : Bool) (nonce : List Byte) (s : State) : Host.Outcome State Fault Refusal :=
  s.doe port (.measurements index sign nonce)

/-- UNSUPPORTED_SPDM_REQUEST (R462). -/
def execUnsupportedSpdmRequest (port : Nat) (code : BitVec 8) (s : State) : Host.Outcome State Fault Refusal := s.doe port (.unsupported code)

/-- DOE_ABORT (R461). -/
def execDoeAbort (port : Nat) (s : State) : Host.Outcome State Fault Refusal :=
  s.runIf (hostOk port) fun d => if d.barsOn port then d.setPort port { d.port port with doe := none } else d

/-! ### Waking -/

/-- DORMANT_WAKE (R497): an event for a target whose hold bit is 0; ports whose EN is set retrain, and the Studio serves the mailboxes. -/
def execDormantWake (s : State) : Host.Outcome State Fault Refusal :=
  s.run fun d =>
    if d.dormant && (d.lineCond 0 || d.lineCond 1 || d.lineCond 2) then
      let d1 := iter 32 (fun p x => if x.fld (rXchPortCtl p) 0 0 = 1 then x.setFld (rXchPortStatus p) 2 0 1 else x) (d.setFld rBootStatus 0 0 0)
      (d1.doeServe 0).doeServe 1
    else d

end Sys2Proof.Machine
end

