-- ==== Sys2Proof/Machine/Memory.lean ====
section
/-!
DEFINITION. Events of the memories: write-back of corrected codewords (R166), the patrol scrubber (R168), partial writes (R177), the
Shelf atomics (R173).
-/

namespace Sys2Proof.Machine

/-- CORRECTED_WRITE_BACK (R166): codeword `cw` (its physical address over 64) is written back, unless a write came first. -/
def execCorrectedWriteBack (cw : Nat) (s : State) : Host.Outcome State Fault Refusal :=
  s.run fun d => { d with wback := setDel d.wback cw }

/-- What the scrubber does about a codeword (R166 to R168). -/
def Dev.scrub (d : Dev) (stack off : Nat) : Upset → Dev
  | .corrected _ =>
    let d1 := (d.bump (rHbmCorr stack) 1).wr64 (rHbmCorrAddrLo stack) off
    if d1.fld (rHbmCtl stack) 0 0 = 1 then { d1 with wback := setIns d1.wback (stackPa stack off / 64) } else d1
  | .uncorrectable _ => ((d.bump (rHbmUncorr stack) 1).wr64 (rHbmUncorrAddrLo stack) off).setFld (rHbmStatus stack) 1 1 1
  | _ => d

/-- PATROL_SCRUB (R168): codeword `cw` of a stack is read; the last of a pass counts the pass. It stops in the Dormant state (R496). -/
def execPatrolScrub (stack cw : Nat) (u : Upset) (passDone : Bool) (s : State) : Host.Outcome State Fault Refusal :=
  s.runIf (decide (stack < 16)) fun d =>
    if d.fld (rHbmCtl stack) 15 8 = 0 || d.dormant then d
    else (d.scrub stack (64 * cw) u).bump (rHbmScrubPasses stack) (if passDone then 1 else 0)

/-- PARTIAL_BLOCK_WRITE (R177): bytes of one block, not all of it. -/
def execPartialBlockWrite (pa : Nat) (bytes : List Byte) (u : Upset) (s : State) : Host.Outcome State Fault Refusal :=
  s.run fun d =>
    if bytes.isEmpty || decide (256 ≤ bytes.length) || decide (256 < pa % 256 + bytes.length) then d
    else match d.refuse pa with
      | some d1 => d1
      | none => d.writePart pa bytes u

/-- SHELF_ADD64 (R173, Table 6.2). -/
def execShelfAdd64 (pa : Nat) (v : BitVec 64) (u : Upset) (s : State) : Host.Outcome State Fault Refusal :=
  s.run fun d => d.atomic .add64 pa v.toNat u

/-- SHELF_ADD32 (R173, Table 6.2). -/
def execShelfAdd32 (pa : Nat) (v : BitVec 32) (u : Upset) (s : State) : Host.Outcome State Fault Refusal :=
  s.run fun d => d.atomic .add32 pa v.toNat u

/-- SHELF_SADD32 (R173, Table 6.2). -/
def execShelfSadd32 (pa : Nat) (v : BitVec 32) (u : Upset) (s : State) : Host.Outcome State Fault Refusal :=
  s.run fun d => d.atomic .sadd32 pa v.toNat u

/-- SHELF_UMAX32 (R173, Table 6.2). -/
def execShelfUmax32 (pa : Nat) (v : BitVec 32) (u : Upset) (s : State) : Host.Outcome State Fault Refusal :=
  s.run fun d => d.atomic .umax32 pa v.toNat u

end Sys2Proof.Machine
end

