-- ==== Sys2Proof/Machine/Scalar.lean ====
section
/-!
DEFINITION. The scalar, branch and system classes of the tile sequencer (R529, Tables 3.19, 3.22 and 3.23).
-/

namespace Sys2Proof.Machine

/-- The second operand of a scalar instruction (Table 3.19). -/
def Ctx.opnd (c : Ctx) : Opnd → BitVec 64
  | .reg r => c.getSq r
  | .imm v => v.signExtend 64

/-- A scalar instruction: RD takes a function of RA and B. -/
def Dev.scalar (d : Dev) (t rd ra : Nat) (b : Opnd) (f : BitVec 64 → BitVec 64 → BitVec 64) : Dev :=
  d.modCtx t fun c => (c.setSq rd (f (c.getSq ra) (c.opnd b))).adv

/-- Shift amount: bits [5:0] of B. -/
def sh6 (b : BitVec 64) : Nat := b.toNat % 64

/-- ADD (Table 3.19). -/
def execAdd (t rd ra : Nat) (b : Opnd) (s : State) : Host.Outcome State Fault Refusal :=
  s.instr t fun d => d.scalar t rd ra b fun x y => x + y

/-- SUB (Table 3.19). -/
def execSub (t rd ra : Nat) (b : Opnd) (s : State) : Host.Outcome State Fault Refusal :=
  s.instr t fun d => d.scalar t rd ra b fun x y => x - y

/-- AND (Table 3.19). -/
def execAnd (t rd ra : Nat) (b : Opnd) (s : State) : Host.Outcome State Fault Refusal :=
  s.instr t fun d => d.scalar t rd ra b fun x y => x &&& y

/-- OR (Table 3.19). -/
def execOr (t rd ra : Nat) (b : Opnd) (s : State) : Host.Outcome State Fault Refusal :=
  s.instr t fun d => d.scalar t rd ra b fun x y => x ||| y

/-- XOR (Table 3.19). -/
def execXor (t rd ra : Nat) (b : Opnd) (s : State) : Host.Outcome State Fault Refusal :=
  s.instr t fun d => d.scalar t rd ra b fun x y => x ^^^ y

/-- SHL (Table 3.19). -/
def execShl (t rd ra : Nat) (b : Opnd) (s : State) : Host.Outcome State Fault Refusal :=
  s.instr t fun d => d.scalar t rd ra b fun x y => x <<< sh6 y

/-- SHR (Table 3.19). -/
def execShr (t rd ra : Nat) (b : Opnd) (s : State) : Host.Outcome State Fault Refusal :=
  s.instr t fun d => d.scalar t rd ra b fun x y => x >>> sh6 y

/-- SAR (Table 3.19). -/
def execSar (t rd ra : Nat) (b : Opnd) (s : State) : Host.Outcome State Fault Refusal :=
  s.instr t fun d => d.scalar t rd ra b fun x y => x.sshiftRight (sh6 y)

/-- MUL (Table 3.19). -/
def execMul (t rd ra : Nat) (b : Opnd) (s : State) : Host.Outcome State Fault Refusal :=
  s.instr t fun d => d.scalar t rd ra b fun x y => x * y

/-- CMP (Table 3.19): -1, 0 or +1, both operands signed. -/
def execCmp (t rd ra : Nat) (b : Opnd) (s : State) : Host.Outcome State Fault Refusal :=
  s.instr t fun d => d.scalar t rd ra b fun x y => if x.slt y then -1 else if x = y then 0 else 1

/-- LI (Table 3.19): RD takes the sign-extended 39-bit immediate. -/
def execLi (t rd : Nat) (imm : BitVec 39) (s : State) : Host.Outcome State Fault Refusal :=
  s.instr t fun d => d.modCtx t fun c => (c.setSq rd (imm.signExtend 64)).adv

/-- Target of a branch (Table 3.22). -/
def branchTo (pc : Nat) (off : BitVec 26) : Nat := (((pc : Int) + 8 * off.toInt) % (tsSize : Int)).toNat

/-- Jump when a condition holds, else move on. A taken branch out of a REPEAT's body leaves the REPEAT in progress, and one to the end of the body counts
no pass (DESIGN CHOICE, log 71). -/
def Ctx.branch (c : Ctx) (cond : Bool) (off : BitVec 26) : Ctx := if cond then { c with pc := branchTo c.pc off } else c.adv

/-- BR (Table 3.22). -/
def execBr (t : Nat) (off : BitVec 26) (s : State) : Host.Outcome State Fault Refusal :=
  s.instr t fun d => d.modCtx t fun c => c.branch true off

/-- BEQ (Table 3.22). -/
def execBeq (t ra rb : Nat) (off : BitVec 26) (s : State) : Host.Outcome State Fault Refusal :=
  s.instr t fun d => d.modCtx t fun c => c.branch (c.getSq ra == c.getSq rb) off

/-- BNE (Table 3.22). -/
def execBne (t ra rb : Nat) (off : BitVec 26) (s : State) : Host.Outcome State Fault Refusal :=
  s.instr t fun d => d.modCtx t fun c => c.branch (c.getSq ra != c.getSq rb) off

/-- BLT (Table 3.22), signed. -/
def execBlt (t ra rb : Nat) (off : BitVec 26) (s : State) : Host.Outcome State Fault Refusal :=
  s.instr t fun d => d.modCtx t fun c => c.branch ((c.getSq ra).slt (c.getSq rb)) off

/-- CALL (Table 3.22): RD takes the address of the next instruction. -/
def execCall (t rd : Nat) (off : BitVec 26) (s : State) : Host.Outcome State Fault Refusal :=
  s.instr t fun d => d.modCtx t fun c =>
    (c.setSq rd (BitVec.ofNat 64 ((c.pc + 8) % tsSize))).branch true off

/-- RET (Table 3.22): to bits [17:0] of RA, 8-byte aligned. -/
def execRet (t ra : Nat) (s : State) : Host.Outcome State Fault Refusal :=
  s.instr t fun d => d.modCtx t fun c => { c with pc := (c.getSq ra).toNat % tsSize / 8 * 8 }

/-- REPEAT (R102, Table 3.22): the body of LEN instructions runs the count of RA[31:0] times; a count of zero skips it; a third
nested level, or a LEN outside 1 to 256, is a NOP that sets BADOP. -/
def execRepeatBody (t ra : Nat) (len : BitVec 9) (s : State) : Host.Outcome State Fault Refusal :=
  s.instr t fun d =>
    let c := (d.tile t).ctx
    if len.toNat = 0 || decide (256 < len.toNat) || decide (2 ≤ c.loops.length) then d.badop t
    else
      let n := (c.getSq ra).toNat % 2 ^ 32
      let first := (c.pc + 8) % tsSize
      let stop := (c.pc + 8 + 8 * len.toNat) % tsSize
      if n = 0 then d.modCtx t fun c =>
        let r := loopNext c.loops stop
        { c with pc := r.1, loops := r.2 }
      else d.modCtx t fun c => { c with pc := first, loops := ⟨first, stop, n⟩ :: c.loops }

/-- NOP (Table 3.23). -/
def execTileNop (t : Nat) (s : State) : Host.Outcome State Fault Refusal := s.instr t fun d => d.adv t

/-- A reserved class or an operation that no table lists: NOP, and BADOP is set (Table 3.11, R529, R109, R126, R441). -/
def execReservedInstruction (t : Nat) (s : State) : Host.Outcome State Fault Refusal := s.instr t fun d => d.badop t

/-- RDSTAT (Table 3.23). -/
def execRdstat (t rd : Nat) (sel : BitVec 4) (s : State) : Host.Outcome State Fault Refusal :=
  s.instr t fun d =>
    let v : Nat :=
      if sel = 0 then (d.rd (rTilStatus t)).toNat
      else if sel = 1 then (d.rd (rTilLsStatus t)).toNat
      else if sel = 2 then t
      else if sel = 3 then d.rd64 (rCubIssuedLo t)
      else if sel = 4 then d.rd64 (rVecIssuedLo t)
      else 0
    d.modCtx t fun c => (c.setSq rd (BitVec.ofNat 64 v)).adv

/-- HALT (Table 3.23): the tile stops issuing and waits for its work to end (TILE_HALTED). -/
def execHalt (t : Nat) (s : State) : Host.Outcome State Fault Refusal :=
  s.instr t fun d => d.modCtx t fun c => { c with run := .halting }

end Sys2Proof.Machine
end

