-- ==== Sys2Proof/Machine/Dispatch.lean ====
section
/-!
DEFINITION. One meaning per command: the arms of `exec`, in the order of spec/opcode_table.json.
-/

namespace Sys2Proof.Machine

/-- The effect of a command on everything but the queue. -/
def exec (i : Instr) (s : State) : Host.Outcome State Fault Refusal :=
  match i with
  | .registerWrite path off v ev => Sys2Proof.Machine.execRegisterWrite path off v ev s
  | .rcRegisterRead path off ev => Sys2Proof.Machine.execRcRegisterRead path off ev s
  | .narrowAccess port bar4 off write => Sys2Proof.Machine.execNarrowAccess port bar4 off write s
  | .loHalfRead path off => Sys2Proof.Machine.execLoHalfRead path off s
  | .hiHalfWrite path off v => Sys2Proof.Machine.execHiHalfWrite path off v s
  | .cvtClose t n => Sys2Proof.Machine.execCvtClose t n s
  | .cvtSlotChange t n slot => Sys2Proof.Machine.execCvtSlotChange t n slot s
  | .add t rd ra b => Sys2Proof.Machine.execAdd t rd ra b s
  | .sub t rd ra b => Sys2Proof.Machine.execSub t rd ra b s
  | .and t rd ra b => Sys2Proof.Machine.execAnd t rd ra b s
  | .or t rd ra b => Sys2Proof.Machine.execOr t rd ra b s
  | .xor t rd ra b => Sys2Proof.Machine.execXor t rd ra b s
  | .shl t rd ra b => Sys2Proof.Machine.execShl t rd ra b s
  | .shr t rd ra b => Sys2Proof.Machine.execShr t rd ra b s
  | .sar t rd ra b => Sys2Proof.Machine.execSar t rd ra b s
  | .mul t rd ra b => Sys2Proof.Machine.execMul t rd ra b s
  | .cmp t rd ra b => Sys2Proof.Machine.execCmp t rd ra b s
  | .li t rd imm => Sys2Proof.Machine.execLi t rd imm s
  | .cmm t f ecc => Sys2Proof.Machine.execCmm t f ecc s
  | .cubePassWrite t bad => Sys2Proof.Machine.execCubePassWrite t bad s
  | .cubeRampStep t c => Sys2Proof.Machine.execCubeRampStep t c s
  | .cubeRampHoldExpiry t c => Sys2Proof.Machine.execCubeRampHoldExpiry t c s
  | .cdesc t dsc ra rb => Sys2Proof.Machine.execCdesc t dsc ra rb s
  | .cacc t acc rmask cmask => Sys2Proof.Machine.execCacc t acc rmask cmask s
  | .br t off => Sys2Proof.Machine.execBr t off s
  | .beq t ra rb off => Sys2Proof.Machine.execBeq t ra rb off s
  | .bne t ra rb off => Sys2Proof.Machine.execBne t ra rb off s
  | .blt t ra rb off => Sys2Proof.Machine.execBlt t ra rb off s
  | .call t rd off => Sys2Proof.Machine.execCall t rd off s
  | .ret t ra => Sys2Proof.Machine.execRet t ra s
  | .repeatBody t ra len => Sys2Proof.Machine.execRepeatBody t ra len s
  | .tileNop t => Sys2Proof.Machine.execTileNop t s
  | .reservedInstruction t => Sys2Proof.Machine.execReservedInstruction t s
  | .halt t => Sys2Proof.Machine.execHalt t s
  | .tileHalted t => Sys2Proof.Machine.execTileHalted t s
  | .rdstat t rd sel => Sys2Proof.Machine.execRdstat t rd sel s
  | .preemptionPoint t steps => Sys2Proof.Machine.execPreemptionPoint t steps s
  | .tileSignal t obj => Sys2Proof.Machine.execTileSignal t obj s
  | .tileWait t obj sa => Sys2Proof.Machine.execTileWait t obj sa s
  | .tileAdd t obj sa => Sys2Proof.Machine.execTileAdd t obj sa s
  | .fenceLs t => Sys2Proof.Machine.execFenceLs t s
  | .fenceCube t => Sys2Proof.Machine.execFenceCube t s
  | .fenceAll t => Sys2Proof.Machine.execFenceAll t s
  | .fenceRelease t => Sys2Proof.Machine.execFenceRelease t s
  | .vadd t f => Sys2Proof.Machine.execVadd t f s
  | .vsub t f => Sys2Proof.Machine.execVsub t f s
  | .vmul t f => Sys2Proof.Machine.execVmul t f s
  | .vfma t f => Sys2Proof.Machine.execVfma t f s
  | .vfms t f => Sys2Proof.Machine.execVfms t f s
  | .vmin t f => Sys2Proof.Machine.execVmin t f s
  | .vmax t f => Sys2Proof.Machine.execVmax t f s
  | .vabs t f => Sys2Proof.Machine.execVabs t f s
  | .vneg t f => Sys2Proof.Machine.execVneg t f s
  | .vadds t f => Sys2Proof.Machine.execVadds t f s
  | .vmuls t f => Sys2Proof.Machine.execVmuls t f s
  | .vaddH t f => Sys2Proof.Machine.execVaddH t f s
  | .vmulH t f => Sys2Proof.Machine.execVmulH t f s
  | .vfmaH t f => Sys2Proof.Machine.execVfmaH t f s
  | .vdot2 t f => Sys2Proof.Machine.execVdot2 t f s
  | .vexp t f => Sys2Proof.Machine.execVexp t f s
  | .vexp2 t f => Sys2Proof.Machine.execVexp2 t f s
  | .vlog t f => Sys2Proof.Machine.execVlog t f s
  | .vlog2 t f => Sys2Proof.Machine.execVlog2 t f s
  | .vrcp t f => Sys2Proof.Machine.execVrcp t f s
  | .vsqrt t f => Sys2Proof.Machine.execVsqrt t f s
  | .vrsqrt t f => Sys2Proof.Machine.execVrsqrt t f s
  | .vtanh t f => Sys2Proof.Machine.execVtanh t f s
  | .vcmpeq t f => Sys2Proof.Machine.execVcmpeq t f s
  | .vcmpne t f => Sys2Proof.Machine.execVcmpne t f s
  | .vcmplt t f => Sys2Proof.Machine.execVcmplt t f s
  | .vcmple t f => Sys2Proof.Machine.execVcmple t f s
  | .vcmpun t f => Sys2Proof.Machine.execVcmpun t f s
  | .vsel t f => Sys2Proof.Machine.execVsel t f s
  | .vclass t f => Sys2Proof.Machine.execVclass t f s
  | .viadd t f => Sys2Proof.Machine.execViadd t f s
  | .visub t f => Sys2Proof.Machine.execVisub t f s
  | .vimul t f => Sys2Proof.Machine.execVimul t f s
  | .vand t f => Sys2Proof.Machine.execVand t f s
  | .vor t f => Sys2Proof.Machine.execVor t f s
  | .vxor t f => Sys2Proof.Machine.execVxor t f s
  | .vshl t f => Sys2Proof.Machine.execVshl t f s
  | .vshr t f => Sys2Proof.Machine.execVshr t f s
  | .vsar t f => Sys2Proof.Machine.execVsar t f s
  | .vcvtFi t f => Sys2Proof.Machine.execVcvtFi t f s
  | .vcvtIf t f => Sys2Proof.Machine.execVcvtIf t f s
  | .vpackH t f => Sys2Proof.Machine.execVpackH t f s
  | .vunpkH t f => Sys2Proof.Machine.execVunpkH t f s
  | .vredsum t f => Sys2Proof.Machine.execVredsum t f s
  | .vredmax t f => Sys2Proof.Machine.execVredmax t f s
  | .vredmin t f => Sys2Proof.Machine.execVredmin t f s
  | .vtrans t f => Sys2Proof.Machine.execVtrans t f s
  | .vbcast t f => Sys2Proof.Machine.execVbcast t f s
  | .vext t f => Sys2Proof.Machine.execVext t f s
  | .vmov t f => Sys2Proof.Machine.execVmov t f s
  | .vdrain t f differ flips => Sys2Proof.Machine.execVdrain t f differ flips s
  | .ldv t f ecc => Sys2Proof.Machine.execLdv t f ecc s
  | .ldvb t f ecc => Sys2Proof.Machine.execLdvb t f ecc s
  | .stv t f ecc mismatch => Sys2Proof.Machine.execStv t f ecc mismatch s
  | .stvb t f ecc mismatch => Sys2Proof.Machine.execStvb t f ecc mismatch s
  | .ldt t f => Sys2Proof.Machine.execLdt t f s
  | .stt t f => Sys2Proof.Machine.execStt t f s
  | .ldtBlockArrival t k u us => Sys2Proof.Machine.execLdtBlockArrival t k u us s
  | .sttBlockWrite t k ecc us => Sys2Proof.Machine.execSttBlockWrite t k ecc us s
  | .bsqClose t => Sys2Proof.Machine.execBsqClose t s
  | .expand24 t ra ecc => Sys2Proof.Machine.execExpand24 t ra ecc s
  | .merge t ra ecc => Sys2Proof.Machine.execMerge t ra ecc s
  | .sparseJobEnd t k ecc => Sys2Proof.Machine.execSparseJobEnd t k ecc s
  | .dmaCopy t ra ecc => Sys2Proof.Machine.execDmaCopy t ra ecc s
  | .dmaCopy2d t ra ecc => Sys2Proof.Machine.execDmaCopy2d t ra ecc s
  | .dmaFill t ra ecc => Sys2Proof.Machine.execDmaFill t ra ecc s
  | .dmaBadKind t ra ecc => Sys2Proof.Machine.execDmaBadKind t ra ecc s
  | .dmaRecordStart d n u ecc us => Sys2Proof.Machine.execDmaRecordStart d n u ecc us s
  | .dmaPreempt d => Sys2Proof.Machine.execDmaPreempt d s
  | .dmaRecordComplete d e u ecc us => Sys2Proof.Machine.execDmaRecordComplete d e u ecc us s
  | .sort t ra ecc => Sys2Proof.Machine.execSort t ra ecc s
  | .sortComplete d us => Sys2Proof.Machine.execSortComplete d us s
  | .correctedWriteBack cw => Sys2Proof.Machine.execCorrectedWriteBack cw s
  | .patrolScrub stack cw u passDone => Sys2Proof.Machine.execPatrolScrub stack cw u passDone s
  | .partialBlockWrite pa bytes u => Sys2Proof.Machine.execPartialBlockWrite pa bytes u s
  | .shelfAdd64 pa v uncorr => Sys2Proof.Machine.execShelfAdd64 pa v uncorr s
  | .shelfAdd32 pa v uncorr => Sys2Proof.Machine.execShelfAdd32 pa v uncorr s
  | .shelfSadd32 pa v uncorr => Sys2Proof.Machine.execShelfSadd32 pa v uncorr s
  | .shelfUmax32 pa v uncorr => Sys2Proof.Machine.execShelfUmax32 pa v uncorr s
  | .translationFault ag va acc us => Sys2Proof.Machine.execTranslationFault ag va acc us s
  | .faultPost ag => Sys2Proof.Machine.execFaultPost ag s
  | .studioFaultTake us => Sys2Proof.Machine.execStudioFaultTake us s
  | .faultExpiry id => Sys2Proof.Machine.execFaultExpiry id s
  | .holdRefresh xid => Sys2Proof.Machine.execHoldRefresh xid s
  | .holdExpiry xid => Sys2Proof.Machine.execHoldExpiry xid s
  | .contextSaveDone t glazeOk ecc us => Sys2Proof.Machine.execContextSaveDone t glazeOk ecc us s
  | .contextRestoreDone t glazeOk => Sys2Proof.Machine.execContextRestoreDone t glazeOk s
  | .route h desc us => Sys2Proof.Machine.execRoute h desc us s
  | .wheelHalfStart r d half us => Sys2Proof.Machine.execWheelHalfStart r d half us s
  | .layerSkipDecision r us => Sys2Proof.Machine.execLayerSkipDecision r us s
  | .tallyComplete r half us => Sys2Proof.Machine.execTallyComplete r half us s
  | .grantComplete r half us => Sys2Proof.Machine.execGrantComplete r half us s
  | .dispatchRowReceive r half src num first us => Sys2Proof.Machine.execDispatchRowReceive r half src num first us s
  | .returnLaunch r half us => Sys2Proof.Machine.execReturnLaunch r half us s
  | .combineContribution r half src num us => Sys2Proof.Machine.execCombineContribution r half src num us s
  | .combineDrain r d half us => Sys2Proof.Machine.execCombineDrain r d half us s
  | .windowOpen h w => Sys2Proof.Machine.execWindowOpen h w s
  | .windowClose h index => Sys2Proof.Machine.execWindowClose h index s
  | .portEnWrite path p en => Sys2Proof.Machine.execPortEnWrite path p en s
  | .portTrained p node pport => Sys2Proof.Machine.execPortTrained p node pport s
  | .frameTransmit p => Sys2Proof.Machine.execFrameTransmit p s
  | .idle p fec => Sys2Proof.Machine.execIdle p fec s
  | .head p f => Sys2Proof.Machine.execHead p f s
  | .recvPlainWrite k us => Sys2Proof.Machine.execRecvPlainWrite k us s
  | .recvAdd32 k mismatch us => Sys2Proof.Machine.execRecvAdd32 k mismatch us s
  | .recvAdd64 k mismatch us => Sys2Proof.Machine.execRecvAdd64 k mismatch us s
  | .recvUmax32 k flips us => Sys2Proof.Machine.execRecvUmax32 k flips us s
  | .link p l => Sys2Proof.Machine.execLink p l s
  | .replayTimeout p => Sys2Proof.Machine.execReplayTimeout p s
  | .hold p f => Sys2Proof.Machine.execHold p f s
  | .resume p f => Sys2Proof.Machine.execResume p f s
  | .barrier p f => Sys2Proof.Machine.execBarrier p f s
  | .xcredit p f us => Sys2Proof.Machine.execXcredit p f us s
  | .reread p f u us => Sys2Proof.Machine.execReread p f u us s
  | .badFlit p kind fec => Sys2Proof.Machine.execBadFlit p kind fec s
  | .abortFlit p epoch origin cause crcOk fec => Sys2Proof.Machine.execAbortFlit p epoch origin cause crcOk fec s
  | .laneSpareRequest p lane aligned corr granted => Sys2Proof.Machine.execLaneSpareRequest p lane aligned corr granted s
  | .spareRequestReceive p lane spare aligned => Sys2Proof.Machine.execSpareRequestReceive p lane spare aligned s
  | .spareLocked p lane idsMatch => Sys2Proof.Machine.execSpareLocked p lane idsMatch s
  | .laneSwitch p lane => Sys2Proof.Machine.execLaneSwitch p lane s
  | .exchange h rec us => Sys2Proof.Machine.execExchange h rec us s
  | .reduceInt h rec us => Sys2Proof.Machine.execReduceInt h rec us s
  | .permute h rec us => Sys2Proof.Machine.execPermute h rec us s
  | .alltoall x us => Sys2Proof.Machine.execAlltoall x us s
  | .reduceScatter x us => Sys2Proof.Machine.execReduceScatter x us s
  | .allGather x us => Sys2Proof.Machine.execAllGather x us s
  | .allReduce x us => Sys2Proof.Machine.execAllReduce x us s
  | .send x us => Sys2Proof.Machine.execSend x us s
  | .recv x us => Sys2Proof.Machine.execRecv x us s
  | .ring x us => Sys2Proof.Machine.execRing x us s
  | .ringStepArrived x us => Sys2Proof.Machine.execRingStepArrived x us s
  | .barrierOp x us => Sys2Proof.Machine.execBarrierOp x us s
  | .barrierRoundComplete x us => Sys2Proof.Machine.execBarrierRoundComplete x us s
  | .grad x us => Sys2Proof.Machine.execGrad x us s
  | .gradBucketEmaxDone x us => Sys2Proof.Machine.execGradBucketEmaxDone x us s
  | .gradBucketSumDone x us => Sys2Proof.Machine.execGradBucketSumDone x us s
  | .gradNormDone x => Sys2Proof.Machine.execGradNormDone x s
  | .verdict x us => Sys2Proof.Machine.execVerdict x us s
  | .verdictComplete x us => Sys2Proof.Machine.execVerdictComplete x us s
  | .coneEvaluationDone us => Sys2Proof.Machine.execConeEvaluationDone us s
  | .reductionHopDone x us => Sys2Proof.Machine.execReductionHopDone x us s
  | .oneValueExchangeDone x us => Sys2Proof.Machine.execOneValueExchangeDone x us s
  | .permuteRoundEnd x us => Sys2Proof.Machine.execPermuteRoundEnd x us s
  | .exchangeTimeout x => Sys2Proof.Machine.execExchangeTimeout x s
  | .update h rec tile0 ntiles us => Sys2Proof.Machine.execUpdate h rec tile0 ntiles us s
  | .updateRecordRun k us => Sys2Proof.Machine.execUpdateRecordRun k us s
  | .updateRecordEnd k us => Sys2Proof.Machine.execUpdateRecordEnd k us s
  | .retryComplete k pass u also us => Sys2Proof.Machine.execRetryComplete k pass u also us s
  | .testSweepBoundary => Sys2Proof.Machine.execTestSweepBoundary s
  | .testFiringStart g => Sys2Proof.Machine.execTestFiringStart g s
  | .testFiringEnd ta sa sb => Sys2Proof.Machine.execTestFiringEnd ta sa sb s
  | .firingRetest t bad pass => Sys2Proof.Machine.execFiringRetest t bad pass s
  | .crazeEntryWrite ok => Sys2Proof.Machine.execCrazeEntryWrite ok s
  | .powerSample watts avg10 => Sys2Proof.Machine.execPowerSample watts avg10 s
  | .kilnBin watts => Sys2Proof.Machine.execKilnBin watts s
  | .excursionLimit => Sys2Proof.Machine.execExcursionLimit s
  | .dutyWindow d row => Sys2Proof.Machine.execDutyWindow d row s
  | .budgetShiftApply => Sys2Proof.Machine.execBudgetShiftApply s
  | .waveRowRelease d row => Sys2Proof.Machine.execWaveRowRelease d row s
  | .droopDetect d mv => Sys2Proof.Machine.execDroopDetect d mv s
  | .droopEnd d cycles => Sys2Proof.Machine.execDroopEnd d cycles s
  | .vinWarning mv => Sys2Proof.Machine.execVinWarning mv s
  | .vinRecover mv => Sys2Proof.Machine.execVinRecover mv s
  | .vinDeep mv => Sys2Proof.Machine.execVinDeep mv s
  | .vinDeepExpiry => Sys2Proof.Machine.execVinDeepExpiry s
  | .vinHoldExpiry => Sys2Proof.Machine.execVinHoldExpiry s
  | .thermalSample tj hbm => Sys2Proof.Machine.execThermalSample tj hbm s
  | .dbCmdTail port ringNo v => Sys2Proof.Machine.execDbCmdTail port ringNo v s
  | .dbStsHead port ringNo v => Sys2Proof.Machine.execDbStsHead port ringNo v s
  | .commandFetch port ringNo bytes us => Sys2Proof.Machine.execCommandFetch port ringNo bytes us s
  | .commandDispatch port ringNo us => Sys2Proof.Machine.execCommandDispatch port ringNo us s
  | .nop h => Sys2Proof.Machine.execNop h s
  | .launch h l us => Sys2Proof.Machine.execLaunch h l us s
  | .launchTileStart t us => Sys2Proof.Machine.execLaunchTileStart t us s
  | .copy h die rec => Sys2Proof.Machine.execCopy h die rec s
  | .signal h obj count => Sys2Proof.Machine.execSignal h obj count s
  | .wait h obj count v => Sys2Proof.Machine.execWait h obj count v s
  | .cmdAdd h obj count v => Sys2Proof.Machine.execCmdAdd h obj count v s
  | .reset h obj count v => Sys2Proof.Machine.execReset h obj count v s
  | .syncWaiterRelease k us => Sys2Proof.Machine.execSyncWaiterRelease k us s
  | .ringOpen h o => Sys2Proof.Machine.execRingOpen h o s
  | .ringClose h ringNo => Sys2Proof.Machine.execRingClose h ringNo s
  | .tlbInval h va len => Sys2Proof.Machine.execTlbInval h va len s
  | .faultResolve h id fail => Sys2Proof.Machine.execFaultResolve h id fail s
  | .jobStart h epoch => Sys2Proof.Machine.execJobStart h epoch s
  | .jobReset h failing => Sys2Proof.Machine.execJobReset h failing s
  | .tileReset h tile0 ntiles => Sys2Proof.Machine.execTileReset h tile0 ntiles s
  | .abort h => Sys2Proof.Machine.execAbort h s
  | .takeover h mode => Sys2Proof.Machine.execTakeover h mode s
  | .query h kind arg => Sys2Proof.Machine.execQuery h kind arg s
  | .regRead h addr => Sys2Proof.Machine.execRegRead h addr s
  | .regWrite h addr v => Sys2Proof.Machine.execRegWrite h addr v s
  | .hifAdminCtlWrite path p v => Sys2Proof.Machine.execHifAdminCtlWrite path p v s
  | .bar2Read port off len u => Sys2Proof.Machine.execBar2Read port off len u s
  | .bar2Write port off bytes poison us => Sys2Proof.Machine.execBar2Write port off bytes poison us s
  | .msixUnmask port => Sys2Proof.Machine.execMsixUnmask port s
  | .busMasterEnableChange port bme d3hot => Sys2Proof.Machine.execBusMasterEnableChange port bme d3hot s
  | .perstAssert port => Sys2Proof.Machine.execPerstAssert port s
  | .ringFetchFailed port ringNo kind => Sys2Proof.Machine.execRingFetchFailed port ringNo kind s
  | .heartbeatWrite port v => Sys2Proof.Machine.execHeartbeatWrite port v s
  | .hifAbort port => Sys2Proof.Machine.execHifAbort port s
  | .getVersion port => Sys2Proof.Machine.execGetVersion port s
  | .getCapabilities port => Sys2Proof.Machine.execGetCapabilities port s
  | .negotiateAlgorithms port sm2 sm3 => Sys2Proof.Machine.execNegotiateAlgorithms port sm2 sm3 s
  | .getDigests port => Sys2Proof.Machine.execGetDigests port s
  | .getCertificate port slot off len => Sys2Proof.Machine.execGetCertificate port slot off len s
  | .challenge port slot nonce => Sys2Proof.Machine.execChallenge port slot nonce s
  | .getMeasurements port index sign nonce => Sys2Proof.Machine.execGetMeasurements port index sign nonce s
  | .unsupportedSpdmRequest port code => Sys2Proof.Machine.execUnsupportedSpdmRequest port code s
  | .doeAbort port => Sys2Proof.Machine.execDoeAbort port s
  | .evcClaim tgt ev => Sys2Proof.Machine.execEvcClaim tgt ev s
  | .evcComplete tgt => Sys2Proof.Machine.execEvcComplete tgt s
  | .evcHold tgt hold => Sys2Proof.Machine.execEvcHold tgt hold s
  | .evcSet tgt n v => Sys2Proof.Machine.execEvcSet tgt n v s
  | .evcPendClear tgt n v ev => Sys2Proof.Machine.execEvcPendClear tgt n v ev s
  | .evcTgtWrite tgt src dst => Sys2Proof.Machine.execEvcTgtWrite tgt src dst s
  | .standbyRailUp straps => Sys2Proof.Machine.execStandbyRailUp straps s
  | .standbyHoldExpiry => Sys2Proof.Machine.execStandbyHoldExpiry s
  | .modEnHigh mv => Sys2Proof.Machine.execModEnHigh mv s
  | .modEnLow => Sys2Proof.Machine.execModEnLow s
  | .railTimeout => Sys2Proof.Machine.execRailTimeout s
  | .moduleReset => Sys2Proof.Machine.execModuleReset s
  | .bootStart e => Sys2Proof.Machine.execBootStart e s
  | .bootConfirm => Sys2Proof.Machine.execBootConfirm s
  | .dormantEnter path => Sys2Proof.Machine.execDormantEnter path s
  | .dormantWake => Sys2Proof.Machine.execDormantWake s
  | .status tag => Sys2Proof.Machine.execStatus tag s
  | .flashRead tag off len => Sys2Proof.Machine.execFlashRead tag off len s
  | .flashWrite tag off bytes => Sys2Proof.Machine.execFlashWrite tag off bytes s
  | .flashErase tag off arg => Sys2Proof.Machine.execFlashErase tag off arg s
  | .alertClear tag mask => Sys2Proof.Machine.execAlertClear tag mask s
  | .mailboxAbort tag => Sys2Proof.Machine.execMailboxAbort tag s
  | .mailboxBadOp tag op => Sys2Proof.Machine.execMailboxBadOp tag op s
  | .mailboxRequestDiscard bytes => Sys2Proof.Machine.execMailboxRequestDiscard bytes s
  | .flashOpComplete ok => Sys2Proof.Machine.execFlashOpComplete ok s
  | .coolantSample inlet outlet => Sys2Proof.Machine.execCoolantSample inlet outlet s
  | .perstDeassert port gen width flit => Sys2Proof.Machine.execPerstDeassert port gen width flit s
  | .configurationRequest port => Sys2Proof.Machine.execConfigurationRequest port s
  | .doeDiscovery port index => Sys2Proof.Machine.execDoeDiscovery port index s
  | .dynamicAddressAssignment addr => Sys2Proof.Machine.execDynamicAddressAssignment addr s
  | .mailboxResponseRead => Sys2Proof.Machine.execMailboxResponseRead s
  | .railRegulationLoss rail => Sys2Proof.Machine.execRailRegulationLoss rail s
  | .hbmLaneFailure stack channel pin => Sys2Proof.Machine.execHbmLaneFailure stack channel pin s

end Sys2Proof.Machine
end

