-- ==== Sys2Proof/Machine/Tick.lean ====
section
/-!
DEFINITION. The passing of one core cycle while no command waits (DESIGN CHOICE, log 18): the cycle and microsecond counts (R7, R27), the heartbeat's age (R455), the Studio's
tick (Table 16.7), the cycles that a fabric channel is held full (R270), and the issue of cube instructions that wait (R92, R93, R97).
-/

namespace Sys2Proof.Machine

/-- Core cycles in a microsecond at the setpoint in use: code times 50 MHz (R399). -/
def Dev.perUs (d : Dev) : Nat := max 1 (d.fld rKlnSetpoint 7 0 * 50)

/-- A microsecond of the control clock has passed (R455): the heartbeat ages while the rails are on, and the Studio ticks each
millisecond. HIF_STUDIO_TICK, which is no event counter of R14, starts again at 0 after 2^32 - 1 (DESIGN CHOICE, log 18). -/
def Dev.usPassed (d : Dev) : Dev :=
  let d1 := { d with us := d.us + 1, cyc := 0 }
  let d2 := if d1.board.rails then d1.bump rHifHbAge 1 else d1
  if d2.studio && d2.us % 1000 == 0 then d2.wr rHifStudioTick (d2.rd rHifStudioTick + 1) else d2

/-- Every tile tries the head of its cube issue queue. -/
def Dev.cubesTry (d : Dev) : Dev := (d.tiles.filter fun p => !p.2.cq.isEmpty).foldl (fun x p => x.cubeTry p.1) d

/-- A cycle in which a channel's whole share of 128 flits (R265) is held by parked flits counts on its port (R270). -/
def Dev.parkFull (d : Dev) : Dev :=
  if d.inbox.length < 128 then d
  else ((List.range 32).filter fun p => (List.range 4).any fun v => decide (128 ≤ d.parkedIn p v)).foldl (fun x p => x.bump (rXchPortParkfull p) 1) d

/-- One core cycle. -/
def Dev.tickCc (d : Dev) : Dev :=
  let d1 := { d with cc := d.cc + 1, cyc := d.cyc + 1 }
  (if d1.perUs ≤ d1.cyc then d1.usPassed else d1).parkFull.cubesTry

/-- A step with no command waiting. -/
def tick (s : State) : Host.Outcome State Fault Refusal := s.run Dev.tickCc

end Sys2Proof.Machine
end

