-- ==== Sys2Proof/Machine/Flits.lean ====
section
/-!
DEFINITION. The flits of a fabric link (R258, Tables 9.2 to 9.5): the bytes of each kind, and the command that flits of the link stream stand for.
-/

namespace Sys2Proof.Machine

/-! ### Bytes of a flit -/

/-- Fill with zero bytes to a length. -/
def padBytes (n : Nat) (b : List Byte) : List Byte := b ++ List.replicate (n - b.length) 0

/-- Bytes 0 to 251 with their CRC-32C in bytes 252 to 255. -/
def sealFlit (b : List Byte) : List Byte := b ++ toLe 4 (crc32c b).toNat

/-- The CRC-32C of bytes 0 to 251 is the one in bytes 252 to 255. -/
def sealOk (b : List Byte) : Bool := decide (field b 252 4 = (crc32c (b.take 252)).toNat)

/-- ACK and CREDIT, bytes 244 to 251. -/
def ackBytes (ack : Word) (credit : List Nat) : List Byte := toLe 4 ack.toNat ++ (List.range 4).flatMap fun v => toLe 1 (nth 0 credit v)

/-- Window, exchange and offset of a block (bytes 20 to 31 of a HEAD and of a REREAD). -/
def placeBytes (f : Frame) : List Byte := toLe 1 f.win ++ toLe 3 f.sub.toNat ++ toLe 8 f.offset

/-- Bytes 20 to 243 of a routed flit, by KIND (Tables 9.3 and 9.4). -/
def bodyBytes (f : Frame) : List Byte :=
  padBytes 224 (match f.kind with
    | 1 => placeBytes f ++ f.glaze.flatMap fun g => toLe 4 g.toNat
    | 3 => [1, 0, 0, 0] ++ toLe 4 f.faultId.toNat
    | 6 => toLe 4 f.value.toNat ++ toLe 8 f.step.toNat
    | 7 => toLe 4 f.value.toNat
    | 8 => placeBytes f
    | _ => [])

/-- A head or routed control flit (Table 9.3). -/
def routedFlit (f : Frame) : List Byte :=
  sealFlit (toLe 1 f.kind ++ toLe 1 (f.hops % 4 + if f.last then 4 else 0) ++ toLe 1 f.blocks.length ++ toLe 1 f.xop.toNat ++ toLe 4 f.fseq.toNat
    ++ toLe 2 f.dst ++ toLe 2 f.src ++ toLe 2 f.epoch.toNat ++ toLe 2 f.wseq.toNat ++ toLe 4 f.xid.toNat ++ bodyBytes f ++ ackBytes f.ack f.credit)

/-- A LINK flit (Table 9.5). -/
def linkFlit (l : LinkF) : List Byte :=
  sealFlit (padBytes 244 (toLe 1 2 ++ toLe 1 (if l.nak then 1 else 0) ++ [0, 0] ++ toLe 4 l.nseq.toNat) ++ ackBytes l.ack l.credit)

/-- An ABORT flit (Table 9.5). -/
def abortFlit (epoch origin : BitVec 16) (cause : BitVec 8) : List Byte :=
  sealFlit (padBytes 252 ([5, 0] ++ toLe 2 epoch.toNat ++ toLe 2 origin.toNat ++ toLe 1 cause.toNat))

/-! ### From flits to commands -/

/-- The frame that a head or routed control flit and its data flits carry. -/
def frameOf (b : List Byte) (blocks : List (List Byte)) (fec : FecIn) : Frame :=
  let k := field b 0 1
  let placed := k == 1 || k == 8
  { kind := k, hops := field b 1 1 % 4, last := (field b 1 1).testBit 2, xop := BitVec.ofNat 8 (field b 3 1), fseq := BitVec.ofNat 32 (field b 4 4)
    dst := field b 8 2 % 2 ^ 14, src := field b 10 2 % 2 ^ 14, epoch := BitVec.ofNat 16 (field b 12 2), wseq := BitVec.ofNat 16 (field b 14 2)
    xid := BitVec.ofNat 32 (field b 16 4), win := if placed then field b 20 1 % 64 else 0
    sub := if placed then BitVec.ofNat 24 (field b 21 3) else 0, offset := if placed then field b 24 8 else 0
    value := if k == 6 || k == 7 then BitVec.ofNat 32 (field b 20 4) else 0, step := if k == 6 then BitVec.ofNat 64 (field b 24 8) else 0
    faultId := if k == 3 then BitVec.ofNat 32 (field b 24 4) else 0
    glaze := if k == 1 then (List.range blocks.length).map fun i => BitVec.ofNat 32 (field b (32 + 4 * i) 4) else []
    blocks := blocks, ack := BitVec.ofNat 32 (field b 244 4), credit := (List.range 4).map fun v => field b (248 + v) 1
    hcrcOk := sealOk b, fec := fec }

/-- The command that a flit stands for on port `p`, by KIND (Table 9.2), with the data flits that follow a head. `u` and `us` are what the reads met that
the command makes; an unlisted KIND is BAD_FLIT. -/
def flitCommand (p : Nat) (b : List Byte) (blocks : List (List Byte)) (fec : FecIn) (u : Upset) (us : List Upset) : Instr :=
  let f := frameOf b blocks fec
  match field b 0 1 with
  | 0 => .idle p fec
  | 1 => .head p f
  | 2 => .link p
      { nak := (field b 1 1).testBit 0, nseq := BitVec.ofNat 32 (field b 4 4), ack := f.ack, credit := f.credit, crcOk := sealOk b, fec := fec }
  | 3 => .hold p f
  | 4 => .resume p f
  | 5 => .abortFlit p (BitVec.ofNat 16 (field b 2 2)) (BitVec.ofNat 16 (field b 4 2)) (BitVec.ofNat 8 (field b 6 1)) (sealOk b) fec
  | 6 => .barrier p f
  | 7 => .xcredit p f us
  | 8 => .reread p f u us
  | k => .badFlit p (BitVec.ofNat 8 k) fec

/-- The next command of a link stream and the flits after it (R258): a HEAD takes its D data flits with it, and waits for them. -/
def flitsTake (p : Nat) (fec : FecIn) (u : Upset) (us : List Upset) : List (List Byte) → Option (Instr × List (List Byte))
  | [] => none
  | b :: l =>
    let n := if field b 0 1 = 1 then field b 2 1 else 0
    if l.length < n then none else some (flitCommand p b (l.take n) fec u us, l.drop n)

/-- The flits of a command that came over a link intact: every check word is right and no codeword was bad. -/
def flitsOf : Instr → Option (List (List Byte))
  | .idle _ _ => some [List.replicate 256 0]
  | .head _ f => some (routedFlit f :: f.blocks)
  | .link _ l => some [linkFlit l]
  | .hold _ f => some [routedFlit f]
  | .resume _ f => some [routedFlit f]
  | .barrier _ f => some [routedFlit f]
  | .xcredit _ f _ => some [routedFlit f]
  | .reread _ f _ _ => some [routedFlit f]
  | .abortFlit _ e o c _ _ => some [abortFlit e o c]
  | _ => none

/-- A frame of a kind has only what its flit carries (Tables 9.3 and 9.4), each field within its bits, and came intact. -/
def frameFits (kind : Nat) (f : Frame) : Bool :=
  let placed := kind == 1 || kind == 8
  decide (f.kind = kind) && decide (f.hops < 4) && decide (f.dst < 2 ^ 14) && decide (f.src < 2 ^ 14) && decide (f.win < 64)
    && decide (f.offset < 2 ^ 64) && decide (f.blocks.length ≤ 53) && decide (f.glaze.length = f.blocks.length)
    && (kind == 1 || f.blocks.isEmpty) && (placed || (f.win == 0 && f.sub == 0 && f.offset == 0))
    && (kind == 6 || kind == 7 || f.value == 0) && (kind == 6 || f.step == 0) && (kind == 3 || f.faultId == 0)
    && decide (f.credit.length = 4) && f.credit.all (fun c => decide (c < 256)) && f.hcrcOk && decide (f.fec = {})

/-- A command of a link stream that its flits spell whole. -/
def linkFits : Instr → Bool
  | .idle _ fec => decide (fec = {})
  | .head _ f => frameFits 1 f
  | .link _ l => decide (l.credit.length = 4) && l.credit.all (fun c => decide (c < 256)) && l.crcOk && decide (l.fec = {})
  | .hold _ f => frameFits 3 f
  | .resume _ f => frameFits 4 f
  | .barrier _ f => frameFits 6 f
  | .xcredit _ f us => frameFits 7 f && us.isEmpty
  | .reread _ f u us => frameFits 8 f && decide (u = .clean) && us.isEmpty
  | .abortFlit _ _ _ _ ok fec => ok && decide (fec = {})
  | _ => false

end Sys2Proof.Machine
end

