-- ==== Sys2Proof/WellFormed.lean ====
section
/-!
DEFINITION. Which commands can be sent at all: every operand names a unit the device has or fits the field that carries it (Table 0.2, the
encodings of Tables 3.2, 3.19, 4.1, 4.6, 9.3, 15.1 and 15.4). The meanings check what they need on their own; this says what an agent can write.
-/

namespace Sys2Proof.WellFormed

/-- A number fits a field of `w` bits. -/
def fits (w n : Nat) : Bool := decide (n < 2 ^ w)

/-- A logical tile. -/
def tileOk (t : Nat) : Bool := decide (t < 4800)

/-- A scalar register (R529, Table 3.19). -/
def regOk (r : Nat) : Bool := decide (r < 32)

/-- An accumulator tile or a descriptor, 0 to 7. -/
def slotOk (n : Nat) : Bool := decide (n < 8)

/-- A cube of a tile. -/
def cubeOk (c : Nat) : Bool := decide (c < 64)

/-- A host port. -/
def hostOk (p : Nat) : Bool := decide (p < 2)

/-- A fabric port. -/
def portOk (p : Nat) : Bool := decide (p < 32)

/-- A ring of a port (R416). -/
def ringNoOk (r : Nat) : Bool := decide (r < 32)

/-- A C-die. -/
def dieOk (d : Nat) : Bool := decide (d < 8)

/-- A firing group (R371). -/
def groupOk (g : Nat) : Bool := decide (g < 75)

/-- A pin of an HBM channel (Table 13.7). -/
def pinOk (n : Nat) : Bool := decide (n < 70)

/-- How a ring fetch fails (R452): Completion Timeout, Unsupported Request, Completer Abort. -/
def kindOk (k : Nat) : Bool := decide (k < 3)

/-- A second operand. -/
def opndOk : Opnd → Bool
  | .reg r => regOk r
  | .imm _ => true

/-- An access path. -/
def pathWf : Path → Bool
  | .bar0 p => hostOk p
  | .ring p r => hostOk p && ringNoOk r
  | .studio => true

/-- An agent (Table 7.6). -/
def agentOk : Agent → Bool
  | .tile t => tileOk t
  | .dma n e => dieOk n && fits 3 e
  | .wheel n => dieOk n
  | .xrecv h => fits 1 h
  | .xsend h => fits 1 h

/-- A target of the event controller. -/
def targetOk : Target → Bool
  | .studio => true
  | .host p => hostOk p

/-- A packet header (Table 15.1). -/
def hdrOk (h : CmdHdr) : Bool := hostOk h.port && ringNoOk h.ringNo && fits 16 h.stream && fits 16 h.wsync && fits 16 h.ssync

/-- Parameters of LAUNCH. -/
def launchOk (l : LaunchP) : Bool := fits 16 l.tile0 && fits 16 l.ntiles && fits 32 l.imgblk && fits 32 l.entry

/-- Parameters of RING_OPEN. -/
def ringOpenOk (o : RingOpenP) : Bool := fits 16 o.stream && fits 8 o.prio && fits 5 o.n

/-- Parameters of WINDOW_OPEN. -/
def windowOk (w : WindowP) : Bool := fits 16 w.peer && fits 8 w.rwin && fits 32 w.rlen && fits 32 w.llen

/-- A byte string of a given length. -/
def lenOk (n : Nat) (l : List Byte) : Bool := decide (l.length = n)

/-- A frame (R260, Table 9.3): node ids of 14 bits, at most 53 blocks of 256 bytes with a glaze word each. -/
def frameOk (f : Frame) : Bool :=
  fits 14 f.dst && fits 14 f.src && fits 6 f.win && decide (f.blocks.length ≤ 53) && f.blocks.all (lenOk 256)
    && decide (f.glaze.length = f.blocks.length)

/-- Units of a class each (Table 13.8). -/
def unitsOk (l : List HwUnit) : Bool := l.all fun u => fits 32 u.num

/-- Bytes within the block of an address. -/
def inBlock (pa : Nat) (l : List Byte) : Bool := decide (0 < l.length) && decide (pa % 256 + l.length ≤ 256)

/-- Whole packets, one to four (R413). -/
def packetsOk (l : List Byte) : Bool := decide (l.length % 64 = 0) && decide (0 < l.length) && decide (l.length ≤ 256)

/-- A negotiated generation (Table 16.7). -/
def genOk (g : BitVec 4) : Bool := decide (1 ≤ g.toNat) && decide (g.toNat ≤ 6)

/-- A negotiated width (Table 16.7). -/
def widthOk (w : BitVec 5) : Bool := decide (1 ≤ w.toNat) && decide (w.toNat ≤ 8)

/-- A command that an agent can send. -/
def wf : Instr → Bool
  | .registerWrite path _ _ _ | .rcRegisterRead path _ _ | .loHalfRead path _ | .hiHalfWrite path _ _ | .dormantEnter path => pathWf path
  | .narrowAccess port bar4 off _ => hostOk port && fits (if bar4 then 17 else 16) off
  | .bar2Read port _ _ _ | .bar2Write port _ _ _ _ | .msixUnmask port | .busMasterEnableChange port _ _
  | .perstAssert port | .heartbeatWrite port _ | .hifAbort port | .getVersion port | .getCapabilities port
  | .negotiateAlgorithms port _ _ | .getDigests port | .unsupportedSpdmRequest port _ | .doeAbort port | .configurationRequest port =>
    hostOk port
  | .cvtClose t n | .cvtSlotChange t n _ => tileOk t && fits 1 n
  | .add t rd ra b | .sub t rd ra b | .and t rd ra b | .or t rd ra b | .xor t rd ra b | .shl t rd ra b | .shr t rd ra b
  | .sar t rd ra b | .mul t rd ra b | .cmp t rd ra b => tileOk t && regOk rd && regOk ra && opndOk b
  | .li t rd _ | .call t rd _ | .rdstat t rd _ => tileOk t && regOk rd
  | .cmm t _ _ | .cubePassWrite t _ | .br t _ | .tileNop t | .reservedInstruction t | .halt t | .tileHalted t | .preemptionPoint t _
  | .tileSignal t _ | .fenceLs t | .fenceCube t | .fenceAll t | .fenceRelease t | .vadd t _ | .vsub t _ | .vmul t _ | .vfma t _
  | .vfms t _ | .vmin t _ | .vmax t _ | .vabs t _ | .vneg t _ | .vadds t _ | .vmuls t _ | .vaddH t _ | .vmulH t _ | .vfmaH t _
  | .vdot2 t _ | .vexp t _ | .vexp2 t _ | .vlog t _ | .vlog2 t _ | .vrcp t _ | .vsqrt t _ | .vrsqrt t _ | .vtanh t _ | .vcmpeq t _
  | .vcmpne t _ | .vcmplt t _ | .vcmple t _ | .vcmpun t _ | .vsel t _ | .vclass t _ | .viadd t _ | .visub t _ | .vimul t _ | .vand t _
  | .vor t _ | .vxor t _ | .vshl t _ | .vshr t _ | .vsar t _ | .vcvtFi t _ | .vcvtIf t _ | .vpackH t _ | .vunpkH t _ | .vredsum t _
  | .vredmax t _ | .vredmin t _ | .vtrans t _ | .vbcast t _ | .vext t _ | .vmov t _ | .vdrain t _ _ _ | .ldv t _ _ | .ldvb t _ _
  | .stv t _ _ _ | .stvb t _ _ _ | .ldt t _ | .stt t _ | .ldtBlockArrival t _ _ _ | .sttBlockWrite t _ _ _ | .bsqClose t
  | .sparseJobEnd t _ _ | .contextSaveDone t _ _ _ | .contextRestoreDone t _ | .firingRetest t _ _ | .launchTileStart t _ => tileOk t
  | .cubeRampStep t c | .cubeRampHoldExpiry t c => tileOk t && cubeOk c
  | .cdesc t dsc ra rb => tileOk t && slotOk dsc && regOk ra && regOk rb
  | .cacc t acc _ _ => tileOk t && slotOk acc
  | .beq t ra rb _ | .bne t ra rb _ | .blt t ra rb _ => tileOk t && regOk ra && regOk rb
  | .ret t ra | .repeatBody t ra _ | .expand24 t ra _ | .merge t ra _ | .dmaCopy t ra _ | .dmaCopy2d t ra _ | .dmaFill t ra _ | .dmaBadKind t ra _
  | .sort t ra _ => tileOk t && regOk ra
  | .tileWait t _ sa | .tileAdd t _ sa => tileOk t && regOk sa
  | .dmaRecordStart d n _ _ _ => dieOk d && fits 3 n
  | .dmaPreempt d | .sortComplete d _ | .droopDetect d _ | .droopEnd d _ => dieOk d
  | .dmaRecordComplete d e _ _ _ => dieOk d && fits 3 e
  | .correctedWriteBack _ | .studioFaultTake _ | .holdRefresh _ | .holdExpiry _ | .layerSkipDecision _ _ | .recvPlainWrite _ _
  | .recvAdd32 _ _ _ | .recvAdd64 _ _ _ | .recvUmax32 _ _ _ | .alltoall _ _ | .reduceScatter _ _ | .allGather _ _ | .allReduce _ _ | .send _ _ | .recv _ _
  | .ring _ _ | .ringStepArrived _ _ | .barrierOp _ _ | .barrierRoundComplete _ _ | .grad _ _ | .gradBucketEmaxDone _ _ | .gradBucketSumDone _ _
  | .gradNormDone _ | .verdict _ _ | .verdictComplete _ _ | .coneEvaluationDone _ | .reductionHopDone _ _ | .oneValueExchangeDone _ _
  | .permuteRoundEnd _ _ | .exchangeTimeout _ | .updateRecordRun _ _ | .updateRecordEnd _ _ | .retryComplete _ _ _ _ _ | .testSweepBoundary
  | .crazeEntryWrite _ | .powerSample _ _ | .kilnBin _ | .excursionLimit | .budgetShiftApply | .vinWarning _ | .vinRecover _
  | .vinDeep _ | .vinDeepExpiry | .vinHoldExpiry | .thermalSample _ _ | .syncWaiterRelease _ _ | .standbyRailUp _ | .standbyHoldExpiry
  | .modEnHigh _ | .modEnLow | .railTimeout | .moduleReset | .bootStart _ | .bootConfirm | .dormantWake | .status _ | .flashRead _ _ _
  | .flashWrite _ _ _ | .flashErase _ _ _ | .alertClear _ _ | .mailboxAbort _ | .mailboxBadOp _ _ | .mailboxRequestDiscard _
  | .flashOpComplete _ | .coolantSample _ _ | .dynamicAddressAssignment _ | .mailboxResponseRead | .railRegulationLoss _ => true
  | .patrolScrub stack _ _ _ => fits 4 stack
  | .partialBlockWrite pa bytes _ => fits 48 pa && inBlock pa bytes
  | .shelfAdd64 pa _ _ | .shelfAdd32 pa _ _ | .shelfSadd32 pa _ _ | .shelfUmax32 pa _ _ => fits 48 pa
  | .translationFault ag _ _ _ | .faultPost ag => agentOk ag
  | .faultExpiry id => fits 32 id
  | .route h _ _ | .exchange h _ _ | .reduceInt h _ _ | .permute h _ _ | .nop h | .tlbInval h _ _ | .jobStart h _ | .abort h | .regRead h _
  | .regWrite h _ _ => hdrOk h
  | .wheelHalfStart _ d half _ | .combineDrain _ d half _ => dieOk d && fits 1 half
  | .tallyComplete _ half _ | .grantComplete _ half _ | .returnLaunch _ half _ | .combineContribution _ half _ _ _ => fits 1 half
  | .dispatchRowReceive _ half src _ _ _ => fits 1 half && fits 14 src
  | .windowOpen h w => hdrOk h && windowOk w
  | .windowClose h index => hdrOk h && fits 8 index
  | .portEnWrite path p _ => pathWf path && portOk p
  | .portTrained p node pport => portOk p && fits 14 node && fits 5 pport
  | .frameTransmit p | .idle p _ | .link p _ | .replayTimeout p | .badFlit p _ _ | .abortFlit p _ _ _ _ _ => portOk p
  | .head p f | .hold p f | .resume p f | .barrier p f | .xcredit p f _ | .reread p f _ _ => portOk p && frameOk f
  | .laneSpareRequest p lane _ _ _ | .spareLocked p lane _ | .laneSwitch p lane => portOk p && fits 2 lane
  | .spareRequestReceive p lane spare _ => portOk p && fits 2 lane && fits 4 spare
  | .update h _ tile0 ntiles _ | .tileReset h tile0 ntiles => hdrOk h && fits 16 tile0 && fits 16 ntiles
  | .testFiringStart g => groupOk g
  | .testFiringEnd ta _ _ => tileOk ta
  | .dutyWindow d row | .waveRowRelease d row => dieOk d && fits 4 row
  | .dbCmdTail port ringNo _ | .dbStsHead port ringNo _ | .commandDispatch port ringNo _ => hostOk port && ringNoOk ringNo
  | .commandFetch port ringNo bytes _ => hostOk port && ringNoOk ringNo && packetsOk bytes
  | .launch h l _ => hdrOk h && launchOk l
  | .copy h die rec => hdrOk h && fits 8 die && lenOk 64 rec
  | .signal h obj count | .wait h obj count _ | .cmdAdd h obj count _ | .reset h obj count _ => hdrOk h && fits 16 obj && fits 16 count
  | .ringOpen h o => hdrOk h && ringOpenOk o
  | .ringClose h ringNo => hdrOk h && fits 8 ringNo
  | .faultResolve h id _ => hdrOk h && fits 32 id
  | .jobReset h failing => hdrOk h && unitsOk failing
  | .takeover h mode => hdrOk h && fits 8 mode
  | .query h kind arg => hdrOk h && fits 8 kind && fits 32 arg
  | .hifAdminCtlWrite path p _ => pathWf path && hostOk p
  | .ringFetchFailed port ringNo kind => hostOk port && ringNoOk ringNo && kindOk kind
  | .getCertificate port slot _ _ => hostOk port && fits 8 slot
  | .challenge port slot nonce => hostOk port && fits 8 slot && lenOk 32 nonce
  | .getMeasurements port index _ nonce => hostOk port && fits 8 index && lenOk 32 nonce
  | .evcClaim tgt _ | .evcComplete tgt | .evcHold tgt _ => targetOk tgt
  | .evcSet tgt i _ | .evcPendClear tgt i _ _ => targetOk tgt && fits 3 i
  | .evcTgtWrite tgt src _ => targetOk tgt && fits 8 src
  | .perstDeassert port gen width _ => hostOk port && genOk gen && widthOk width
  | .doeDiscovery port index => hostOk port && fits 8 index
  | .hbmLaneFailure stack channel pin => fits 4 stack && fits 5 channel && pinOk pin

end Sys2Proof.WellFormed
end

