-- ==== Sys2Proof/Safety.lean ====
section
/-!
DEFINITION. What statements about a run are written in: a command that comes to a next state, a tile that issues, a command that is alone on its
ring, windows and rings that could close, the request lines at their levels, memories in canonical form.
-/

namespace Sys2Proof.Machine

/-- The command comes to a next state: the queue stands as it was, and the device is `d`, followed by what follows every command: windows and rings
that may now close, and the request lines (R469). -/
def Comes (i : Instr) (s : State) (d : Dev) : Prop := exec i s = .next { s with dev := d.settle }

/-- The command comes to a next state with the queue as it was and a device of which `P` holds. -/
def Does (i : Instr) (s : State) (P : Dev → Prop) : Prop := ∃ d, exec i s = .next { s with dev := d } ∧ P d

/-- Tile `t` of the device issues its next instruction now: a program runs, and nothing holds the sequencer. -/
def Issues (s : State) (t : Nat) : Prop := tileOk t = true ∧ s.dev.issuing t = true

/-- A vector instruction of tile `t` that reads the registers `srcs` and writes `dst` comes to the device `d` when the vector queue can take it, and waits
where that queue is full, a hazard with the load/store queue holds it or its row is at level 0 (R112, R113, R395). -/
def Enters (i : Instr) (s : State) (t : Nat) (srcs : List (BitVec 5)) (dst : Option (BitVec 5)) (d : Dev) : Prop :=
  (s.dev.vHeld t srcs dst = false → Comes i s d) ∧ (s.dev.vHeld t srcs dst = true → Comes i s s.dev)

/-- A scalar register takes a value and the tile moves on. -/
def Dev.sets (d : Dev) (t rd : Nat) (v : BitVec 64) : Dev := d.modCtx t fun c => (c.setSq rd v).adv

/-- Nothing in the load/store queue of tile `t` can move by itself: what waits there waits for blocks from memory (R131). -/
def Dev.lsStill (d : Dev) (t : Nat) : Bool := (d.lsFirst t (d.lsq t).length 0).isNone

/-! ### Windows, rings, request lines -/

/-- A dispatched RING_CLOSE or WINDOW_CLOSE that may complete now (Table 15.4, R279). -/
def Dev.due (d : Dev) (c : Cmd) : Bool :=
  match c.op with
  | .ringClose r => c.disp && d.closeReady (32 * c.h.port + r) c.id
  | .windowClose i => c.disp && !d.winBusy i
  | _ => false

/-- Nothing waits that could close now. -/
def Dev.calm (d : Dev) : Bool := !d.cmds.any d.due

/-- Every target's request line is high exactly when R469 says so. -/
def Dev.linesOk (d : Dev) : Bool := (List.range 3).all fun k => (d.evcT k).line == d.lineCond k

/-- Every memory of the device is in canonical form: HBM and Shelf, module flash, tile stores, and the stores of saved contexts. -/
def Dev.memOk (d : Dev) : Bool :=
  Mem.wf 0 d.mem && Mem.wf blank d.board.flash
    && d.tiles.all fun p => Mem.wf 0 p.2.ctx.store && p.2.slots.all fun q => Mem.wf 0 q.2.ctx.store

/-! ### A command alone on its ring -/

/-- The device once the packets of a command row stand below the tail of their ring (R418). -/
def Dev.rung (d : Dev) (p : Subm) : Dev :=
  let r := d.ring (ringG p.h)
  d.setRing (ringG p.h) { r with tail := if r.waiting < packets p.len then r.fetched + BitVec.ofNat 32 (packets p.len) else r.tail }

/-- The command that an accepted row becomes, dispatched. -/
def Dev.cmdOf (d : Dev) (h : CmdHdr) (op : CmdOp) : Cmd :=
  { id := d.cmdSeq, h := h, op := op, prio := (d.ring (ringG h)).prio, disp := true, armed := true, tiles := [], start := [], bad := 0, low := 0 }

/-- The device as a dispatched command finds it that no other command stands beside: its packets are fetched, it is the last dispatched. -/
def Dev.begun (d : Dev) (p : Subm) (op : CmdOp) : Dev :=
  { (d.rung p).took (ringG p.h) (packets p.len) with
    cmds := [d.cmdOf p.h op], cmdSeq := d.cmdSeq + 1, rr := ringG p.h, waiters := d.waiters.filter fun w => !waitsCmd d.cmdSeq w.who }

/-- A command row that a device serves at once: its ring is there, no other command is accepted and not completed, it waits for nothing, its agent can
take it, and validation (Table 15.3) accepts it as `op'`. -/
def Lone (d : Dev) (h : CmdHdr) (op op' : CmdOp) : Prop :=
  let p := submOf h op
  ringOk h.port h.ringNo = true ∧ d.mayFetch (ringG h) = true ∧ d.cmds = [] ∧ wantWait h = false
    ∧ d.waiters.all (fun w => !waitsCmd d.cmdSeq w.who) = true ∧ d.agentTakes op' = true
    ∧ Dev.cmdCheck p (d.rung p) = (d.rung p, .ok op')

/-- A command row that names a record and is served at once: the same, where validation reads the record and comes to the device `d1`. -/
def Served (d : Dev) (h : CmdHdr) (op op' : CmdOp) (d1 : Dev) : Prop :=
  let p := submOf h op
  ringOk h.port h.ringNo = true ∧ d.mayFetch (ringG h) = true ∧ d1.cmds = [] ∧ d1.rings = (d.rung p).rings ∧ wantWait h = false
    ∧ d1.waiters.all (fun w => !waitsCmd d1.cmdSeq w.who) = true ∧ d1.agentTakes op' = true ∧ Dev.cmdCheck p (d.rung p) = (d1, .ok op')

/-- The device as such a command finds it when it is dispatched, from the device `d` that validation leaves. -/
def Dev.handed (d : Dev) (h : CmdHdr) (n : Nat) (op : CmdOp) : Dev :=
  { d.took (ringG h) n with
    cmds := [d.cmdOf h op], cmdSeq := d.cmdSeq + 1, rr := ringG h, waiters := d.waiters.filter fun w => !waitsCmd d.cmdSeq w.who }

/-! ### Registers -/

/-- A register stands on a page of the window that answers: not that of an absent tile (R384). -/
def Dev.pageThere (d : Dev) (w : Nat) : Bool :=
  decide (w < 0x1000000) || !(d.rd (rTstAbsent ((w - 0x1000000) / 0x1000 / 32))).toNat.testBit ((w - 0x1000000) / 0x1000 % 32)

/-- A write of `v` to the register does no more than store: it is none of those whose write acts. -/
def Dev.storesOnly (d : Dev) (w : Nat) (v : Word) : Bool :=
  let t := (w - 0x1000000) / 0x1000
  let p := (w - rXchPortCtl 0) / (rXchPortCtl 1 - rXchPortCtl 0)
  d.pageThere w
    && (if 0x1000000 ≤ w then w % 0x1000 != 0x400 && w % 0x1000 != 0x440 && !(w == rTilBsqCtl t && bitsOf v 2 2 == 1)
      else !(w == rXchPortCtl p && decide (p < 32)) && w != rHifAdminCtl 0 && w != rHifAdminCtl 1 && w != rHifHeartbeat && w != rHifAbort
        && w != rEvcComplete && w != rEvcHold && !(decide (rEvcPend 0 ≤ w) && decide (w < rEvcPend 8))
        && !(decide (rEvcSet 0 ≤ w) && decide (w < rEvcSet 8)) && !(decide (rEvcTgt 0 ≤ w) && decide (w < rEvcTgt 256)) && w != rKlnCap
        && w != rKlnCtl && w != rBootCtl)

/-! ### Frames -/

/-- A routed frame is accepted at a port (R260, R263), whose channel has room for it (R270), once its glaze words are right. -/
def Dev.hears (d : Dev) (p : Nat) (f : Frame) : Prop :=
  portOk p = true ∧ d.portUp p = true ∧ f.fec.uncorr = 0 ∧ f.hcrcOk = true ∧ f.fseq.toNat = (d.fab p).rxSeq ∧ d.parkedIn p f.hops < 128

/-- It is accepted, and is for this device's job (R266, R272). -/
def Dev.takes (d : Dev) (p : Nat) (f : Frame) : Prop := d.hears p f ∧ f.dst = d.node ∧ f.epoch.toNat = d.epoch

/-- The device once a frame of `n` flits is accepted on a port: its flits are counted, its acknowledgement and credits taken (R260 to R262, R265). -/
def Dev.heard (d : Dev) (p n : Nat) (f : Frame) : Dev := (d.flitsIn p n f.fec).acceptFrame p f id

/-- The device once a routed control flit for it has come in on a port and its buffer is given back. -/
def Dev.flitIn (d : Dev) (p : Nat) (f : Frame) : Dev := (d.heard p 1 f).credBack p f.hops 1

/-! ### What a store instruction writes -/

/-- The tile store of tile `t` holds the bytes written: each range of `ws` from its offset on. -/
def Dev.tsHolds (d : Dev) (t : Nat) (ws : List (Nat × List Byte)) : Prop :=
  ∀ w ∈ ws, ∀ k b, w.2[k]? = some b → Mem.get 0 (d.tile t).ctx.store (w.1 + k) = b

/-- Every byte of the store of tile `t` outside the ranges of `ws` is as in `e`. -/
def Dev.tsKeeps (d e : Dev) (t : Nat) (ws : List (Nat × List Byte)) : Prop :=
  ∀ a, (∀ w ∈ ws, ¬(w.1 ≤ a ∧ a < w.1 + w.2.length)) → Mem.get 0 (d.tile t).ctx.store a = Mem.get 0 (e.tile t).ctx.store a

/-- Ranges of the tile store that do not meet and do not wrap. -/
def apart (ws : List (Nat × List Byte)) : Prop :=
  ws.Pairwise (fun v w => v.1 + v.2.length ≤ w.1 ∨ w.1 + w.2.length ≤ v.1) ∧ ∀ w ∈ ws, w.1 + w.2.length ≤ 262144

/-- The ranges an STV writes: row `r` at SA + r x SB, in the converter's format (Table 4.7, R127). -/
def Dev.stvWrites (d : Dev) (t : Nat) (f : LsF) : List (Nat × List Byte) :=
  (List.range 8).map fun r =>
    (d.lsA t f + r * d.lsB t f,
      (stvRow (d.upnt t) (d.fld (rTilCvtFmt t f.cvt.toNat) 2 0) (d.cvtRound t f.cvt.toNat).1 (sInt 8 (d.fld (rTilCvtFmt t f.cvt.toNat) 31 24))
        (d.groupRow t f.vr 4 r)).bytes)

/-- The ranges an unpacked STVB writes: for row `r` the exponent byte and the element bytes of its scale block, through the descriptor (R83, R127). -/
def Dev.stvbWrites (d : Dev) (t : Nat) (f : LsF) : List (Nat × List Byte) :=
  let q := (d.tile t).ctx.desc f.dsc.toNat
  let k := d.lsB t f / fmtBlock q.fmt * fmtBlock q.fmt
  (List.range 8).flatMap fun r =>
    let o := convertBlock q.fmt (d.cvtRound t f.cvt.toNat).1 (d.groupRow t f.vr (fmtBlock q.fmt / 8) r) []
    [(q.expAddr q.fmt (d.lsA t f + r) k, toLe 1 o.ecode),
      (q.ebase + (d.lsA t f + r) * q.epitch + k * fmtWidth q.fmt / 8, packCodes (fmtWidth q.fmt) o.codes)]

/-! ### Shapes of tile instructions -/

/-- Tile of an instruction that changes only its tile: scalar registers, position, vector registers, accumulators, descriptors, queues, and the
registers of the tile that count and mark (Tables 3.19, 3.20, 3.22, 3.23, 4.2). -/
def tileOnly : Instr → Option Nat
  | .add t _ _ _ | .sub t _ _ _ | .and t _ _ _ | .or t _ _ _ | .xor t _ _ _ | .shl t _ _ _ | .shr t _ _ _ | .sar t _ _ _ | .mul t _ _ _
  | .cmp t _ _ _ | .li t _ _ | .cdesc t _ _ _ | .cacc t _ _ _ | .br t _ | .beq t _ _ _ | .bne t _ _ _ | .blt t _ _ _ | .call t _ _
  | .ret t _ | .repeatBody t _ _ | .tileNop t | .reservedInstruction t | .halt t | .rdstat t _ _ | .fenceLs t | .fenceCube t | .fenceAll t
  | .vadd t _ | .vsub t _ | .vmul t _ | .vfma t _ | .vfms t _ | .vmin t _ | .vmax t _ | .vabs t _ | .vneg t _ | .vadds t _ | .vmuls t _
  | .vaddH t _ | .vmulH t _ | .vfmaH t _ | .vdot2 t _ | .vexp t _ | .vexp2 t _ | .vlog t _ | .vlog2 t _ | .vrcp t _ | .vsqrt t _
  | .vrsqrt t _ | .vtanh t _ | .vcmpeq t _ | .vcmpne t _ | .vcmplt t _ | .vcmple t _ | .vcmpun t _ | .vsel t _ | .vclass t _ | .viadd t _
  | .visub t _ | .vimul t _ | .vand t _ | .vor t _ | .vxor t _ | .vshl t _ | .vshr t _ | .vsar t _ | .vcvtFi t _ | .vcvtIf t _
  | .vpackH t _ | .vunpkH t _ | .vredsum t _ | .vredmax t _ | .vredmin t _ | .vtrans t _ | .vbcast t _ | .vext t _ | .vmov t _ => some t
  | _ => none

/-- Tile and fields of an instruction of the vector class (Table 4.2). -/
def vectorOp : Instr → Option (Nat × VecF)
  | .vadd t f | .vsub t f | .vmul t f | .vfma t f | .vfms t f | .vmin t f | .vmax t f | .vabs t f | .vneg t f | .vadds t f | .vmuls t f
  | .vaddH t f | .vmulH t f | .vfmaH t f | .vdot2 t f | .vexp t f | .vexp2 t f | .vlog t f | .vlog2 t f | .vrcp t f | .vsqrt t f
  | .vrsqrt t f | .vtanh t f | .vcmpeq t f | .vcmpne t f | .vcmplt t f | .vcmple t f | .vcmpun t f | .vsel t f | .vclass t f | .viadd t f
  | .visub t f | .vimul t f | .vand t f | .vor t f | .vxor t f | .vshl t f | .vshr t f | .vsar t f | .vcvtFi t f | .vcvtIf t f
  | .vpackH t f | .vunpkH t f | .vredsum t f | .vredmax t f | .vredmin t f | .vtrans t f | .vbcast t f | .vext t f | .vmov t f | .vdrain t f _ _ => some (t, f)
  | _ => none

/-- An instruction of the vector class that takes SUB 0 and 1; the others take 0 alone (Table 4.2). -/
def takesTwo : Instr → Bool
  | .vcmpeq _ _ | .vcmpne _ _ | .vcmplt _ _ | .vcmple _ _ | .vcmpun _ _ | .vunpkH _ _ | .vredsum _ _ | .vredmax _ _ | .vredmin _ _ => true
  | _ => false

/-- Scalar register that an instruction writes, if it writes one (Tables 3.19, 3.22, 3.23, 4.2). -/
def scalarDst : Instr → Option Nat
  | .add _ rd _ _ | .sub _ rd _ _ | .and _ rd _ _ | .or _ rd _ _ | .xor _ rd _ _ | .shl _ rd _ _ | .shr _ rd _ _ | .sar _ rd _ _
  | .mul _ rd _ _ | .cmp _ rd _ _ | .li _ rd _ | .call _ rd _ | .rdstat _ rd _ => some rd
  | .vext _ f => some f.sd.toNat
  | _ => none

/-- Vector register that an instruction writes, if it writes one (Table 4.2). -/
def vectorDst : Instr → Option Nat
  | .vadd _ f | .vsub _ f | .vmul _ f | .vfma _ f | .vfms _ f | .vmin _ f | .vmax _ f | .vabs _ f | .vneg _ f | .vadds _ f | .vmuls _ f
  | .vaddH _ f | .vmulH _ f | .vfmaH _ f | .vdot2 _ f | .vexp _ f | .vexp2 _ f | .vlog _ f | .vlog2 _ f | .vrcp _ f | .vsqrt _ f
  | .vrsqrt _ f | .vtanh _ f | .vcmpeq _ f | .vcmpne _ f | .vcmplt _ f | .vcmple _ f | .vcmpun _ f | .vsel _ f | .vclass _ f | .viadd _ f
  | .visub _ f | .vimul _ f | .vand _ f | .vor _ f | .vxor _ f | .vshl _ f | .vshr _ f | .vsar _ f | .vcvtFi _ f | .vcvtIf _ f
  | .vpackH _ f | .vunpkH _ f | .vredsum _ f | .vredmax _ f | .vredmin _ f | .vtrans _ f | .vbcast _ f | .vmov _ f => some f.vd.toNat
  | _ => none

/-- A command that writes neither device memory nor a tile store: register and event accesses, queueing tile instructions, link flits and lanes, HEADs,
supply and temperature but for a shutdown, doorbells and host ports, attestation, mailbox and flash. -/
def storesNothing : Instr → Bool
  | .rcRegisterRead _ _ _ | .narrowAccess _ _ _ _ | .loHalfRead _ _ | .cmm _ _ _ | .cubePassWrite _ _ | .cubeRampStep _ _
  | .cubeRampHoldExpiry _ _ | .tileHalted _ | .tileSignal _ _ | .tileWait _ _ _ | .tileAdd _ _ _ | .fenceRelease _
  | .vdrain _ _ _ _ | .ldv _ _ _ | .ldvb _ _ _ | .ldt _ _ | .stt _ _ | .correctedWriteBack _
  | .patrolScrub _ _ _ _ | .translationFault (.tile _) _ _ _ | .translationFault (.xrecv _) _ _ _
  | .translationFault (.xsend _) _ _ _ | .faultPost (.tile _) | .faultPost (.xrecv _) | .faultPost (.xsend _) | .holdRefresh _ | .holdExpiry _ | .tallyComplete _ _ _
  | .returnLaunch _ _ _ | .portEnWrite _ _ _ | .portTrained _ _ _ | .frameTransmit _ | .idle _ _ | .head _ _ | .link _ _
  | .replayTimeout _ | .hold _ _ | .resume _ _ | .barrier _ _ | .xcredit _ _ _ | .reread _ _ _ _ | .badFlit _ _ _
  | .abortFlit _ _ _ _ _ _ | .laneSpareRequest _ _ _ _ _ | .spareRequestReceive _ _ _ _ | .spareLocked _ _ _ | .laneSwitch _ _
  | .testSweepBoundary | .testFiringStart _ | .crazeEntryWrite _ | .powerSample _ _ | .kilnBin _ | .excursionLimit
  | .dutyWindow _ _ | .budgetShiftApply | .waveRowRelease _ _ | .droopDetect _ _ | .droopEnd _ _ | .vinWarning _ | .vinRecover _
  | .vinDeep _ | .vinHoldExpiry | .dbCmdTail _ _ _ | .dbStsHead _ _ _ | .msixUnmask _ | .busMasterEnableChange _ _ _
  | .perstAssert _ | .ringFetchFailed _ _ _ | .hifAdminCtlWrite _ _ _ | .heartbeatWrite _ _ | .hifAbort _ | .getVersion _
  | .getCapabilities _ | .negotiateAlgorithms _ _ _ | .getDigests _ | .getCertificate _ _ _ _ | .challenge _ _ _
  | .getMeasurements _ _ _ _ | .unsupportedSpdmRequest _ _ | .doeAbort _ | .evcClaim _ _ | .evcComplete _ | .evcHold _ _
  | .evcSet _ _ _ | .evcPendClear _ _ _ _ | .evcTgtWrite _ _ _ | .status _ | .flashRead _ _ _ | .flashWrite _ _ _
  | .flashErase _ _ _ | .alertClear _ _ | .mailboxAbort _ | .mailboxBadOp _ _ | .mailboxRequestDiscard _ | .flashOpComplete _
  | .coolantSample _ _ | .configurationRequest _ | .doeDiscovery _ _ | .dynamicAddressAssignment _ | .mailboxResponseRead
  | .hbmLaneFailure _ _ _ => true
  | _ => false

end Sys2Proof.Machine
end

