-- ==== Sys2Proof/Certificates/Slice0/Obligations.lean ====
section
/-!
DEFINITION. The statements for the provers. A statement about a command says which next state it comes to (`Comes`, `Does`) for every state and every operand that
meets conditions on the state and the operands alone; `s.dev` is the device before, `settle` what follows every command (R469, R279, Table 15.4).
-/

section Statements

open Sys2Proof Sys2Proof.Machine

/-! ### The machine -/

/-- A step takes the command at the front of the queue and runs it with the queue's rest. -/
def Obligations.StepRunsFront : Prop :=
  ∀ (s : State) (c : Instr) (rest : List Instr), s.pending = c :: rest → step s = exec c { s with pending := rest }

/-- A step with no command waiting is one core cycle (the model's choice, log 18): the cycle count rises by one, and memory, sync objects, rings and
commands stay as they are when no dispatched close is due and no queued cube instruction will meet an uncorrectable word. -/
def Obligations.StepIdle : Prop :=
  ∀ s : State, s.pending = [] →
    ∃ d, step s = .next { s with dev := d } ∧ d.cc = s.dev.cc + 1 ∧ d.board = s.dev.board
      ∧ (s.dev.calm = true → (∀ p ∈ s.dev.tiles, ∀ q ∈ p.2.cq, q.ecc ≠ .uncorrectable) →
          d.mem = s.dev.mem ∧ d.sync = s.dev.sync ∧ d.rings = s.dev.rings ∧ d.cmds = s.dev.cmds)

/-- After reset every register reads its reset value (R13), every sync count is 0 (Table 15.8), every memory byte reads 0 (R162), every vector register
is 0 (R106), every accumulator tile is empty (R89), no job runs (R425), every ring is closed (R416) and no command waits. That an unlisted register's
reset value is 0 where the table says "see text" is the model's choice (log 2). -/
def Obligations.ResetValues : Prop :=
  let d := State.reset.dev
  State.reset.pending = [] ∧ (∀ off, d.rd off = resetVal off) ∧ (∀ obj, d.count obj = 0) ∧ (∀ pa, Mem.get 0 d.mem pa = 0)
    ∧ (∀ t r, d.getV t r = List.replicate 64 0) ∧ (∀ t c a, (d.tile t).ctx.getAcc c a = {}) ∧ (∀ t, (d.tile t).ctx.run = .idle)
    ∧ d.job = 0 ∧ (∀ g, (d.ring g).opn = false) ∧ d.cmds = [] ∧ d.faults = [] ∧ d.parks = []

/-- At reset the request lines are at the level of R469 and every memory is in canonical form. -/
def Obligations.InvariantsAtReset : Prop :=
  State.reset.dev.linesOk = true ∧ State.reset.dev.memOk = true

/-- Every step, of any command or of none, leaves every target's request line high exactly when its hold bit is clear, no source is in service for it,
and a pending source names it (R469). -/
def Obligations.StepKeepsLines : Prop :=
  ∀ s t : State, step s = .next t → t.dev.linesOk = true

/-- Every memory stays in canonical form: after any step from a state where HBM, the Shelf, module flash, the tile stores and the stores of saved contexts
are, they are again. -/
def Obligations.StepKeepsMemory : Prop :=
  ∀ s t : State, s.dev.memOk = true → step s = .next t → t.dev.memOk = true

/-- A queue of well-formed commands runs to its end: as many steps as commands empty it, no step faults or is refused, and the request lines stand at
the level of R469. -/
def Obligations.QueueRunsThrough : Prop :=
  ∀ (cs : List Instr) (d : Dev), cs ≠ [] → cs.all WellFormed.wf = true →
    ∃ e, Host.Core.run core cs.length ({ pending := cs, dev := d } : State) = .next ({ pending := [], dev := e } : State) ∧ e.linesOk = true

/-- Every well-formed command comes to a next state in every state, with the queue as it was; a command is refused only when it is not well-formed, and
then because it names no unit of the device (the model's range check, log 4). -/
def Obligations.WellFormedCompletes : Prop :=
  ∀ (c : Instr) (s : State),
    (WellFormed.wf c = true → ∃ d, exec c s = .next { s with dev := d })
      ∧ ∀ r, exec c s = .refused r → WellFormed.wf c = false ∧ r = .noSuchUnit

/-! ### Tiles -/

/-- What an instruction of the scalar, branch, system, fence or vector class, a CDESC or a CACC leaves unchanged: everything outside its tile's running
context but the tile's own registers; the tile store; every scalar register but its destination, every vector register but VD; the accumulators, but for CACC,
and the descriptors, but for CDESC. On a tile that does not issue it changes nothing. -/
def Obligations.TileFrame : Prop :=
  ∀ (i : Instr) (s z : State) (t : Nat), tileOnly i = some t → s.dev.calm = true → exec i s = .next z →
    let d := s.dev
    let e := z.dev
    let c := (d.tile t).ctx
    let x := (e.tile t).ctx
    z.pending = s.pending ∧ (∀ a, Mem.get 0 e.mem a = Mem.get 0 d.mem a) ∧ e.bad = d.bad ∧ (∀ o, e.count o = d.count o) ∧ e.waiters = d.waiters
      ∧ e.rings = d.rings ∧ e.cmds = d.cmds ∧ e.faults = d.faults ∧ e.parks = d.parks ∧ e.dma = d.dma ∧ e.xops = d.xops ∧ e.retries = d.retries
      ∧ e.board = d.board ∧ e.kiln = d.kiln ∧ (∀ off, off < 0x1000000 → e.rd off = d.rd off) ∧ (∀ u, u ≠ t → e.tile u = d.tile u)
      ∧ (∀ a, Mem.get 0 x.store a = Mem.get 0 c.store a) ∧ (e.tile t).slots = (d.tile t).slots ∧ (e.tile t).cq = (d.tile t).cq
      ∧ (∀ r, (∀ rd, scalarDst i = some rd → r % 32 ≠ rd % 32) → x.getSq r = c.getSq r)
      ∧ (∀ r, (∀ vd, vectorDst i = some vd → r % 32 ≠ vd % 32) → e.getV t r = d.getV t r)
      ∧ ((∀ a rm cm, i ≠ .cacc t a rm cm) → x.acc = c.acc) ∧ ((∀ a ra rb, i ≠ .cdesc t a ra rb) → x.dsc = c.dsc)
      ∧ (d.issuing t = false → e = d.settle)

/-- Scalar instructions (Table 3.19): RD takes the function of RA and B, everything else stands but the position. SQ0 takes no write.
COMPLETES: ADD, SUB, AND, OR, XOR, SHL, SHR, SAR, MUL, CMP, LI.

What the write of a scalar instruction leaves: SQ0 reads 0 before and after and ignores the write; another RD reads the value; every other register
is as before. -/
def Obligations.ScalarResults : Prop :=
  (
  ∀ (s : State) (t rd ra : Nat) (b : Opnd), Issues s t →
    let x := (s.dev.tile t).ctx.getSq ra
    let y := (s.dev.tile t).ctx.opnd b
    Comes (.add t rd ra b) s (s.dev.sets t rd (x + y))
      ∧ Comes (.sub t rd ra b) s (s.dev.sets t rd (x - y))
      ∧ Comes (.and t rd ra b) s (s.dev.sets t rd (x &&& y))
      ∧ Comes (.or t rd ra b) s (s.dev.sets t rd (x ||| y))
      ∧ Comes (.xor t rd ra b) s (s.dev.sets t rd (x ^^^ y))
      ∧ Comes (.shl t rd ra b) s (s.dev.sets t rd (x <<< (y.toNat % 64)))
      ∧ Comes (.shr t rd ra b) s (s.dev.sets t rd (x >>> (y.toNat % 64)))
      ∧ Comes (.sar t rd ra b) s (s.dev.sets t rd (x.sshiftRight (y.toNat % 64)))
      ∧ Comes (.mul t rd ra b) s (s.dev.sets t rd (x * y))
      ∧ Comes (.cmp t rd ra b) s (s.dev.sets t rd (if x.toInt < y.toInt then -1 else if x = y then 0 else 1))
      ∧ ∀ imm : BitVec 39, Comes (.li t rd imm) s (s.dev.sets t rd (imm.signExtend 64)))
  ∧ (
  ∀ (d : Dev) (t rd r : Nat) (v : BitVec 64),
    ((d.sets t rd v).tile t).ctx.getSq r = if r % 32 = 0 then 0 else if r % 32 = rd % 32 then v else (d.tile t).ctx.getSq r)

/-- Branches (Table 3.22): a taken branch goes to its own address plus 8 x OFFSET modulo the store, a branch not taken goes on; CALL leaves the address of
the next instruction in RD; RET goes to bits [17:0] of RA, 8-byte aligned.
COMPLETES: BR, BEQ, BNE, BLT, CALL, RET.

REPEAT (R102): with a LEN of 1 to 256 and fewer than two loops around it, a count of zero passes the body over and another count enters it that many
times; any other LEN, or a third level, is a NOP that sets BADOP. COMPLETES: REPEAT.

The body of a REPEAT that holds `left` passes still to run goes back to its first instruction until its last pass, and then the position is past
the body (R102).

NOP, an unlisted operation, RDSTAT and HALT (Tables 3.11 and 3.23): NOP only moves on; an unlisted one sets BADOP too; RDSTAT reads the selected status
or count, or 0; HALT stops issue. COMPLETES: TILE_NOP, RESERVED_INSTRUCTION, RDSTAT, HALT. -/
def Obligations.BranchResults : Prop :=
  (
  ∀ (s : State) (t ra rb rd : Nat) (off : BitVec 26), Issues s t →
    let c := (s.dev.tile t).ctx
    let jump := s.dev.modCtx t fun c => { c with pc := (((c.pc : Int) + 8 * off.toInt) % 262144).toNat }
    Comes (.br t off) s jump
      ∧ Comes (.beq t ra rb off) s (if c.getSq ra = c.getSq rb then jump else s.dev.adv t)
      ∧ Comes (.bne t ra rb off) s (if c.getSq ra = c.getSq rb then s.dev.adv t else jump)
      ∧ Comes (.blt t ra rb off) s (if (c.getSq ra).toInt < (c.getSq rb).toInt then jump else s.dev.adv t)
      ∧ Comes (.call t rd off) s (s.dev.modCtx t fun c =>
          { c.setSq rd (BitVec.ofNat 64 ((c.pc + 8) % 262144)) with pc := (((c.pc : Int) + 8 * off.toInt) % 262144).toNat })
      ∧ Comes (.ret t ra) s (s.dev.modCtx t fun c => { c with pc := (c.getSq ra).toNat % 262144 / 8 * 8 }))
  ∧ (
  ∀ (s : State) (t ra : Nat) (len : BitVec 9), Issues s t →
    let c := (s.dev.tile t).ctx
    let n := (c.getSq ra).toNat % 2 ^ 32
    let bad := len.toNat = 0 ∨ 256 < len.toNat ∨ 2 ≤ c.loops.length
    (bad → Comes (.repeatBody t ra len) s (s.dev.badop t))
      ∧ (¬bad → n = 0 → Does (.repeatBody t ra len) s fun d =>
          (d.tile t).ctx.pc = (loopNext c.loops ((c.pc + 8 + 8 * len.toNat) % 262144)).1 ∧ (d.tile t).ctx.sq = c.sq)
      ∧ (¬bad → n ≠ 0 → Does (.repeatBody t ra len) s fun d =>
          (d.tile t).ctx.pc = (c.pc + 8) % 262144 ∧ (d.tile t).ctx.sq = c.sq
            ∧ (d.tile t).ctx.loops = ⟨(c.pc + 8) % 262144, (c.pc + 8 + 8 * len.toNat) % 262144, n⟩ :: c.loops))
  ∧ (
  ∀ (first stop n : Nat) (ls : List Loop), 0 < n → (∀ l ∈ ls, l.stop ≠ stop) →
    loopNext (⟨first, stop, n⟩ :: ls) stop = (if n = 1 then stop else first, if n = 1 then ls else ⟨first, stop, n - 1⟩ :: ls))
  ∧ (
  ∀ (s : State) (t rd : Nat), Issues s t →
    Comes (.tileNop t) s (s.dev.adv t)
      ∧ Comes (.reservedInstruction t) s ((s.dev.wr (rTilStatus t) (s.dev.rd (rTilStatus t) ||| 1)).adv t)
      ∧ Comes (.rdstat t rd 0) s (s.dev.sets t rd ((s.dev.rd (rTilStatus t)).setWidth 64))
      ∧ Comes (.rdstat t rd 1) s (s.dev.sets t rd ((s.dev.rd (rTilLsStatus t)).setWidth 64))
      ∧ Comes (.rdstat t rd 2) s (s.dev.sets t rd (BitVec.ofNat 64 t))
      ∧ Comes (.rdstat t rd 3) s (s.dev.sets t rd (BitVec.ofNat 64 (s.dev.rd64 (rCubIssuedLo t))))
      ∧ Comes (.rdstat t rd 4) s (s.dev.sets t rd (BitVec.ofNat 64 (s.dev.rd64 (rVecIssuedLo t))))
      ∧ (∀ sel : BitVec 4, 5 ≤ sel.toNat → Comes (.rdstat t rd sel) s (s.dev.sets t rd 0))
      ∧ Comes (.halt t) s (s.dev.modCtx t fun c => { c with run := .halting }))

/-- INT32, bitwise and shift operations, selection and moves (Table 4.2, R117): the elements of VD are the function of the sources' elements; none of
them raises a counter of R115. COMPLETES: VIADD, VISUB, VIMUL, VAND, VOR, VXOR, VSHL, VSHR, VSAR, VSEL, VMOV, VTRANS, VBCAST, VEXT, each when the vector
queue takes it; else it waits.

What `vDo` leaves in the registers: VD holds the results, 64 of them when the source registers hold 64 elements, every other vector register of the
tile is as before, and so are the scalar registers and the accumulators.

An instruction whose SUB no table lists is a NOP that sets BADOP (R109): every vector instruction of SUB 0 alone, and every one that takes 0 and 1. -/
def Obligations.VectorIntegerResults : Prop :=
  (
  ∀ (s : State) (t : Nat) (f : VecF), Issues s t → f.sub = 0 →
    let two (i : Instr) (g : Word → Word → Word) := Enters i s t [f.va, f.vb] (some f.vd)
      (s.dev.v2 t f 2 fun a b => plain (g (BitVec.ofNat 32 a) (BitVec.ofNat 32 b)).toNat)
    let sa := (s.dev.tile t).ctx.getSq f.sa.toNat
    two (.viadd t f) (fun x y => x + y) ∧ two (.visub t f) (fun x y => x - y) ∧ two (.vimul t f) (fun x y => x * y)
      ∧ two (.vand t f) (fun x y => x &&& y) ∧ two (.vor t f) (fun x y => x ||| y) ∧ two (.vxor t f) (fun x y => x ^^^ y)
      ∧ two (.vshl t f) (fun x y => x <<< (y.toNat % 32)) ∧ two (.vshr t f) (fun x y => x >>> (y.toNat % 32))
      ∧ two (.vsar t f) (fun x y => x.sshiftRight (y.toNat % 32))
      ∧ Enters (.vsel t f) s t [f.va, f.vb, f.vc] (some f.vd) (s.dev.v3 t f 2 fun a b c => plain (if c = 0 then b else a))
      ∧ Enters (.vmov t f) s t [f.va] (some f.vd) (s.dev.v1 t f false 2 plain)
      ∧ Enters (.vtrans t f) s t [f.va] (some f.vd) (s.dev.vDo t f [f.va] false 4
          ((List.range 64).map fun e => plain (nth 0 (s.dev.vals t f.va) (8 * (e % 8) + e / 8))))
      ∧ Enters (.vbcast t f) s t [] (some f.vd) (s.dev.vDo t f [] false 2 (List.replicate 64 (plain (sa.toNat % 2 ^ 32))))
      ∧ Enters (.vext t f) s t [f.va] none ((s.dev.vGo t [f.va.toNat] false none 3).sets t f.sd.toNat
          (BitVec.ofNat 64 (nth 0 (s.dev.vals t f.va) (f.imm.toNat % 64)))))
  ∧ (
  ∀ (d : Dev) (t : Nat) (f : VecF) (srcs : List (BitVec 5)) (q : Bool) (lat r : Nat) (rs : List FRes),
    let e := d.vDo t f srcs q lat rs
    e.getV t r = (if r % 32 = f.vd.toNat then rs.map (fun x => BitVec.ofNat 32 x.bits) else d.getV t r)
      ∧ (∀ k, (e.tile t).ctx.getSq k = (d.tile t).ctx.getSq k) ∧ (e.tile t).ctx.acc = (d.tile t).ctx.acc
      ∧ (e.tile t).ctx.store = (d.tile t).ctx.store ∧ ∀ u, u ≠ t → e.tile u = d.tile u)
  ∧ (
  ∀ (s : State) (t : Nat) (f : VecF) (i : Instr), Issues s t → vectorOp i = some (t, f) →
    (if takesTwo i then 2 else 1) ≤ f.sub.toNat → Comes i s ((s.dev.wr (rTilStatus t) (s.dev.rd (rTilStatus t) ||| 1)).adv t))

/-- FP32 and packed BF16 arithmetic (Table 4.2, R113 to R116): the functions of `Fp` in the tile's mode, native or Underpainting; VABS and VNEG are outside
the scope of that mode (R74; log 61). COMPLETES: VADD, VSUB, VMUL, VFMA, VFMS, VMIN, VMAX, VABS, VNEG, VADDS, VMULS, VADD_H, VMUL_H, VFMA_H, VDOT2.

The quarter-rate functions (R111, R116): natively the correctly rounded functions of `Elem`; in Underpainting mode VEXP, VLOG, VRCP and VRSQRT give
the open values of the table method (log 13), and the other four set OUTSCOPE and run natively. COMPLETES: VEXP, VEXP2, VLOG, VLOG2, VRCP, VSQRT, VRSQRT,
VTANH. -/
def Obligations.VectorFloatResults : Prop :=
  (
  ∀ (s : State) (t : Nat) (f : VecF), Issues s t → f.sub = 0 →
    let d := s.dev
    let u := d.upnt t
    let o := if u then d.wr (rTilUpntStatus t) (d.rd (rTilUpntStatus t) ||| 2) else d
    let sa := ((d.tile t).ctx.getSq f.sa.toNat).toNat % 2 ^ 32
    let one (i : Instr) (e : Dev) (g : Nat → FRes) := Enters i s t [f.va] (some f.vd) (e.v1 t f false 4 g)
    let two (i : Instr) (g : Nat → Nat → FRes) := Enters i s t [f.va, f.vb] (some f.vd) (d.v2 t f 4 g)
    let three (i : Instr) (g : Nat → Nat → Nat → FRes) := Enters i s t [f.va, f.vb, f.vc] (some f.vd) (d.v3 t f 4 g)
    two (.vadd t f) (fadd fmt32 u) ∧ two (.vsub t f) (fsub fmt32 u) ∧ two (.vmul t f) (fmul fmt32 u)
      ∧ three (.vfma t f) (fma fmt32 u false) ∧ three (.vfms t f) (fma fmt32 u true)
      ∧ two (.vmin t f) (fminmax fmt32 u false) ∧ two (.vmax t f) (fminmax fmt32 u true)
      ∧ one (.vabs t f) o (fun x => plain (if 0x7F800000 < x % 2 ^ 31 then 0x7FC00000 else x % 2 ^ 31))
      ∧ one (.vneg t f) o (fun x => plain (if 0x7F800000 < x % 2 ^ 31 then 0x7FC00000 else Nat.xor x (2 ^ 31)))
      ∧ one (.vadds t f) d (fun x => fadd fmt32 u x sa) ∧ one (.vmuls t f) d (fun x => fmul fmt32 u x sa)
      ∧ two (.vaddH t f) (fun a b => lanes (fun x y _ => fadd fmt16 u x y) a b 0)
      ∧ two (.vmulH t f) (fun a b => lanes (fun x y _ => fmul fmt16 u x y) a b 0)
      ∧ three (.vfmaH t f) (lanes (fma fmt16 u false))
      ∧ three (.vdot2 t f) (fun a b c => fdot2 u (a % 65536) (b % 65536) (a / 65536) (b / 65536) c))
  ∧ (
  ∀ (s : State) (t : Nat) (f : VecF), Issues s t → f.sub = 0 →
    let u := s.dev.upnt t
    let d := s.dev
    let o := if u then d.wr (rTilUpntStatus t) (d.rd (rTilUpntStatus t) ||| 2) else d
    let one (i : Instr) (e : Dev) (g : Nat → FRes) := Enters i s t [f.va] (some f.vd) (e.v1 t f true 12 g)
    one (.vexp t f) d (fun x => if u then p3Value Config.p3Exp x false true else fexp x)
      ∧ one (.vlog t f) d (fun x => if u then p3Value Config.p3Log x (p3Zero x) (decide (x ≠ 0x3F800000)) else flog x)
      ∧ one (.vrcp t f) d (fun x => if u then p3Value Config.p3Rcp x (p3Zero x) true else frcp x)
      ∧ one (.vrsqrt t f) d (fun x => if u then p3Value Config.p3Rsqrt x (p3Zero x) true else frsqrt x)
      ∧ one (.vexp2 t f) o fexp2 ∧ one (.vlog2 t f) o flog2 ∧ one (.vsqrt t f) o fsqrt ∧ one (.vtanh t f) o ftanh)

/-- Comparisons, conversions and reductions (Tables 4.2 to 4.4, R57, R58, R110), for every SUB that each takes. COMPLETES: VCMPEQ, VCMPNE, VCMPLT, VCMPLE,
VCMPUN, VUNPK_H, VREDSUM, VREDMAX, VREDMIN, VCLASS, VCVT_IF, VCVT_FI, VPACK_H. -/
def Obligations.VectorCompareResults : Prop :=
  ∀ (s : State) (t : Nat) (f : VecF), Issues s t →
    let u := s.dev.upnt t
    let d := s.dev
    let o := if u then d.wr (rTilUpntStatus t) (d.rd (rTilUpntStatus t) ||| 2) else d
    let row (i : Nat) := if f.sub = 0 then i / 8 else i % 8
    let at_ (i : Nat) := if f.sub = 0 then decide (i % 8 = 0) else decide (i / 8 = 0)
    let tree (op : Nat → Nat → FRes) (i : Nat) := tree8 op fun j => nth 0 (d.vals t f.va) (if f.sub = 0 then 8 * i + j else 8 * j + i)
    let red (i : Instr) (op : Nat → Nat → FRes) := Enters i s t [f.va] (some f.vd) (d.vDo t f [f.va] false 6
      ((List.range 64).map fun i => if at_ i then tree op (row i) else plain (tree op (row i)).bits))
    let cmp (i : Instr) (p : Option Int → Bool) := Enters i s t [f.va, f.vb] (some f.vd) (d.v2 t f 2 (vcmp u f.sub p))
    let int (x : Nat) := toInt32 0 (sInt 8 f.imm.toNat) x
    (f.sub.toNat ≤ 1 →
      cmp (.vcmpeq t f) (fun o => o == some 0) ∧ cmp (.vcmpne t f) (fun o => o != some 0) ∧ cmp (.vcmplt t f) (fun o => o == some (-1))
        ∧ cmp (.vcmple t f) (fun o => o == some (-1) || o == some 0) ∧ cmp (.vcmpun t f) (fun o => o.isNone)
        ∧ Enters (.vunpkH t f) s t [f.va] (some f.vd) (d.v1 t f false 2 fun x => plain (ofBf16 u (if f.sub = 1 then x / 65536 else x % 65536)))
        ∧ red (.vredsum t f) (fadd fmt32 u) ∧ red (.vredmax t f) (fminmax fmt32 u true) ∧ red (.vredmin t f) (fminmax fmt32 u false))
      ∧ (f.sub = 0 →
        Enters (.vclass t f) s t [f.va] (some f.vd) (d.v1 t f false 2 fun x => plain (fclass x))
          ∧ Enters (.vcvtIf t f) s t [f.va] (some f.vd) (o.v1 t f false 4 fun x => plain (ofInt32 (BitVec.ofNat 32 x)))
          ∧ Enters (.vpackH t f) s t [f.va, f.vb] (some f.vd) (d.v2 t f 4 fun a b =>
              { bits := (toBf16 u 0 a).bits + (toBf16 u 0 b).bits * 65536, ovf := (toBf16 u 0 a).ovf + (toBf16 u 0 b).ovf,
                ufl := (toBf16 u 0 a).ufl + (toBf16 u 0 b).ufl })
          ∧ Enters (.vcvtFi t f) s t [f.va] (some f.vd) ((o.v1 t f false 4 fun x =>
              { bits := uBits 32 (int x).v, ovf := if (int x).ovf then 1 else 0, ufl := if (int x).flush then 1 else 0 }).bump (rVecCvtNonfin t)
                (((d.vals t f.va).map int).filter (·.nonfin)).length))

/-- CMM (R79 to R83, R91 to R93, R97, R104): the instruction, with the values of AROW, KREG + KIMM and BROW, joins the issue queue, the tile moves on, and
the head of the queue is tried. With a queue that was empty, no earlier writer of its accumulator tile too near (R92) and every selected cube accepting
(R97), its passes start in this cycle: one in modes 0 to 3, four in mode 4, each counted in CUB_ISSUED. A full queue, or a forced drain (R104), holds
the sequencer. COMPLETES: CMM.

CUBE_PASS_WRITE (R86, R363, R364): the oldest pass in flight is written where the carried residues hold; a residue that differs starts one retry of
the pass instead, which holds the queue; with no pass in flight, or while a retry holds the queue, nothing happens. COMPLETES: CUBE_PASS_WRITE. -/
def Obligations.CubeIssueResults : Prop :=
  (
  ∀ (s : State) (t : Nat) (f : CubeInsn) (ecc : Ecc), Issues s t →
    let x := s.dev.tile t
    let k := ((x.ctx.getSq f.kreg.toNat).toNat + f.kimm.toNat) % 2 ^ 64
    let q : CubeQ := ⟨f, (x.ctx.getSq f.arow.toNat).toNat, k, (x.ctx.getSq f.brow.toNat).toNat, ecc⟩
    let put := (s.dev.modTile t fun x => { x with cq := x.cq ++ [q], group := if s.dev.quiet t && x.endSet then 0 else x.group }).adv t
    let n := if f.mode.toNat = 4 then 4 else 1
    (16 ≤ x.cq.length ∨ s.dev.forcing t = true → Comes (.cmm t f ecc) s s.dev)
      ∧ (x.cq.length < 16 → s.dev.forcing t = false →
          Comes (.cmm t f ecc) s (put.cubeTry t)
            ∧ (x.cq ≠ [] → x.qFree > s.dev.cc → Does (.cmm t f ecc) s fun d =>
                (d.tile t).cq = x.cq ++ [q] ∧ (d.tile t).passes = x.passes ∧ (d.tile t).ctx = x.ctx.adv)
            ∧ (s.dev.calm = true → x.cq = [] → f.mode.toNat ≤ 4 → selected f ≠ [] → x.qFree ≤ s.dev.cc → s.dev.cubeHeld t = false →
                (accsOf f).all (fun a => decide (SMap.get 0 x.accLast a ≤ s.dev.cc)) = true →
                (selected f).all (fun c => rampOk (SMap.get {} x.ramps c) (s.dev.capOf t) s.dev.cc) = true → ecc ≠ .uncorrectable →
                Does (.cmm t f ecc) s fun d =>
                  (d.tile t).cq = [] ∧ (d.tile t).passes = x.passes ++ (x.ctx.adv.passesOf q).1 ∧ (d.tile t).ctx = x.ctx.adv
                    ∧ (d.tile t).endSet = f.last ∧ d.rd64 (rCubIssuedLo t) = min (s.dev.rd64 (rCubIssuedLo t) + n) (2 ^ 64 - 1))))
  ∧ (
  ∀ (s : State) (t : Nat) (flips : List (Nat × Nat × Nat)), tileOk t = true →
    let x := s.dev.tile t
    (s.dev.cubeHeld t = true ∨ x.passes = [] → Comes (.cubePassWrite t flips) s s.dev)
      ∧ ∀ p ps, x.passes = p :: ps → s.dev.cubeHeld t = false →
          let r := x.ctx.passed p flips
          (r.1.passBad p = none → Comes (.cubePassWrite t flips) s (s.dev.passDone t r)
            ∧ Does (.cubePassWrite t flips) s fun d => (d.tile t).passes = ps ∧ (d.tile t).ctx = r.1)
          ∧ (∀ b, r.1.passBad p = some b → Does (.cubePassWrite t flips) s fun d =>
              (d.tile t).passes = p :: ps ∧ (d.tile t).ctx = x.ctx ∧ d.cubeHeld t = true)
          ∧ (x.ctx.passed p []).1.acc = (p.cells.foldl (applyCell p) (x.ctx, ⟨0, 0, 0⟩)).1.acc)

/-- CDESC and CACC (R82, R89, R94): a descriptor takes RB above RA and nothing else changes but the position; an accumulator tile that no queued or flying
instruction writes is emptied in the selected cubes and kept in the others; one that is still written holds the sequencer. COMPLETES: CDESC, CACC.

CUBE_RAMP_STEP and CUBE_RAMP_HOLD_EXPIRY (R96, R98, R99): 8 cc after its last step a working cube's ramp level is one lower when it steps down, one
higher when an instruction named it in the step and it is not 4, and else as it was; its cap level comes one nearer to the cap of its row; its duty is the
lower of the two. When the hold has passed with no instruction the cube begins to step down. COMPLETES: CUBE_RAMP_STEP, CUBE_RAMP_HOLD_EXPIRY. -/
def Obligations.CubeControlResults : Prop :=
  (
  ∀ (s : State) (t dsc ra rb acc : Nat) (rm cm : BitVec 8), Issues s t → acc < 8 →
    let x := s.dev.tile t
    Comes (.cdesc t dsc ra rb) s (s.dev.modCtx t fun c => { c with dsc := SMap.set c.dsc (dsc % 8) (c.getSq rb ++ c.getSq ra) }.adv)
      ∧ (x.accBusy acc = true → Comes (.cacc t acc rm cm) s s.dev)
      ∧ (x.accBusy acc = false → Does (.cacc t acc rm cm) s fun d =>
          (∀ c a, c < 64 → a < 8 → (d.tile t).ctx.getAcc c a =
            if a = acc ∧ rm.getLsbD (c / 8) = true ∧ cm.getLsbD (c % 8) = true then {} else x.ctx.getAcc c a)
          ∧ (d.tile t).ctx.pc = x.ctx.adv.pc))
  ∧ (
  ∀ (s : State) (t c : Nat), tileOk t = true → c < 64 →
    let cc := s.dev.cc
    let r := SMap.get {} (s.dev.tile t).ramps c
    let cap := s.dev.capOf t
    let after (d : Dev) := SMap.get {} (d.tile t).ramps c
    (s.dev.inTest t = false → Does (.cubeRampStep t c) s fun d =>
        (after d).level = (if r.level = 0 ∨ cc < r.base + 8 then r.level else if r.down then r.level - 1
          else if r.base < r.seen then min 4 (r.level + 1) else r.level)
        ∧ (after d).cap = (if r.cap = cap ∨ cc < r.cbase + 8 then r.cap else if cap < r.cap then r.cap - 1 else r.cap + 1)
        ∧ (after d).duty = min (after d).level (after d).cap ∧ ∀ b, b ≠ c → SMap.get {} (d.tile t).ramps b = SMap.get {} (s.dev.tile t).ramps b)
      ∧ (s.dev.inTest t = true → Comes (.cubeRampStep t c) s
          (s.dev.modTile t fun x => x.onRamps [c] fun r => ((s.dev.testUse t r).rise cc).capStep cap cc))
      ∧ Does (.cubeRampHoldExpiry t c) s fun d =>
          after d = if r.level = 0 ∨ r.down = true ∨ cc < r.seen + max 32 (s.dev.fld (rCubRampHold t) 15 0) then r
            else { r with level := r.level - 1, down := decide (r.level ≠ 1), base := cc })

/-- R86 on finite values: an anchored accumulator tile whose window holds the pass's largest exponent keeps its anchor, and an element whose contribution
lies at or above the anchor takes the exact sum, clamped to 48 bits. The residue carried with each element stays the residue of its value, through
alignment, addition and clamp, when it was so before and each pass sum brought its own (R363). -/
def Obligations.AccumulatorExact : Prop :=
  (
  ∀ (a : Acc) (cs : List Contrib) (pm : Int) (e : Nat) (v q p : Int) (r : Nat), a.anchored = true → a.v.length = 16 → a.tag.length = 16 → cs.length = 16 →
    topExp cs = some pm → pm ≤ a.x + 20 → a.v[e]? = some v → a.tag[e]? = some 0 → cs[e]? = some (.sum q p r) → a.x ≤ p →
      (addPass a cs).1.x = a.x ∧ (addPass a cs).1.v[e]? = some (clampSym 47 (v + q * (2 ^ (p - a.x).toNat : Nat))).1)
  ∧ (
  ∀ (a : Acc) (cs : List Contrib), a.v.length = 16 → a.tag.length = 16 → cs.length = 16 → a.res = a.v.map residue15 →
    (∀ c ∈ cs, ∀ q p r, c = .sum q p r → r = residue15 q) → (addPass a cs).1.res = (addPass a cs).1.v.map residue15)

/-- VDRAIN (R118, R119): each element of VD is the conversion of the accumulator element that R118 names; with REL the tile is released in the cubes that
the quadrant reads (the four of R118's map, log 23) and kept in the others. It waits while a writer of the tile is queued or in flight (R94); a mismatch
of a residue or of the duplicated logic holds the tile for one retry (R120). COMPLETES: VDRAIN. -/
def Obligations.DrainResults : Prop :=
  ∀ (s : State) (t : Nat) (f : VecF) (fl : List (Nat × Nat)), Issues s t → f.sub = 0 →
    let x := s.dev.tile t
    let held := s.dev.vHeld t [] (some f.vd) = true ∨ x.accBusy (drainAcc f) = true
    let tries (m : Bool) (l : List (Nat × Nat)) := Does (.vdrain t f m l) s fun d =>
      (d.tile t).ctx.run = .retrying ∧ d.tileRetry t = true ∧ (d.tile t).ctx.acc = x.ctx.acc ∧ ∀ r, d.getV t r = s.dev.getV t r
    (held → ∀ m, Comes (.vdrain t f m fl) s s.dev)
      ∧ (¬held →
        (x.ctx.drainBad f fl = none → Comes (.vdrain t f false fl) s (s.dev.drain t f fl) ∧ tries true fl)
        ∧ (∀ r m, x.ctx.drainBad f fl = some r → tries m fl)
        ∧ (x.ctx.drainBad f [] = none → Does (.vdrain t f false []) s fun d =>
          (d.getV t f.vd.toNat = (List.range 64).map fun i =>
            BitVec.ofNat 32 (drainElem (x.ctx.getAcc (8 * (2 * (drainQ f / 4) + i / 8 / 4) + (2 * (drainQ f % 4) + i % 8 / 4)) (drainAcc f))
              (4 * (i / 8 % 4) + i % 8 % 4)).bits)
          ∧ ∀ c a, c < 64 → a < 8 → (d.tile t).ctx.getAcc c a =
            if drainRel f = true ∧ a = drainAcc f ∧ inSet (drainCubes (drainQ f)) c = true then {} else x.ctx.getAcc c a))

/-- Count C satisfies threshold v when (C - v) mod 2^32 lies between 0 and 2^31 - 1 (R437). -/
def Obligations.SyncThreshold : Prop :=
  ∀ c v : Word, satisfies c v = true ↔ ∃ n : Nat, n < 2 ^ 31 ∧ c = v + BitVec.ofNat 32 n

/-- A new count of an object releases exactly the waiters on it whose threshold it satisfies; a waiter once released stays so, whatever the count becomes
(R439); no other count changes. -/
def Obligations.SyncReleases : Prop :=
  ∀ (d : Dev) (obj : Nat) (c : Word) (k : Nat) (w : Waiter), d.waiters[k]? = some w →
    (d.setCount obj c).waiters[k]? = some { w with released := w.released || (w.obj == obj && satisfies c w.thr) }
      ∧ (d.setCount obj c).count obj = c ∧ ∀ o, o ≠ obj → (d.setCount obj c).count o = d.count o

/-- Tile sync instructions (R441, Table 15.8) and the release of a waiter (R439): SIGNAL adds 1, ADD adds the low 32 bits of SA; a WAIT whose
threshold is met goes on, any other holds the tile until it is released; a released command is dispatched when it is the ring's choice (R421).
COMPLETES: TILE_SIGNAL, TILE_ADD, TILE_WAIT, SYNC_WAITER_RELEASE.

Fences (R95, Table 3.9): FENCE.LS waits for the load/store queue, FENCE.CUBE for the cube issue queue, FENCE.ALL for both and for the passes in flight; a
fence whose condition holds passes, any other holds the sequencer until its condition holds. COMPLETES: FENCE_LS, FENCE_CUBE, FENCE_ALL, FENCE_RELEASE. -/
def Obligations.TileSyncResults : Prop :=
  (
  ∀ (s : State) (t sa k : Nat) (obj : BitVec 13) (us : List Upset) (w : Waiter) (c : Cmd),
    let v : Word := BitVec.ofNat 32 ((s.dev.tile t).ctx.getSq sa).toNat
    (Issues s t →
      Comes (.tileSignal t obj) s ((s.dev.adv t).setCount obj.toNat (s.dev.count obj.toNat + 1))
        ∧ Comes (.tileAdd t obj sa) s ((s.dev.adv t).setCount obj.toNat (s.dev.count obj.toNat + v))
        ∧ (satisfies (s.dev.count obj.toNat) v = true → Comes (.tileWait t obj sa) s (s.dev.adv t))
        ∧ (s.dev.calm = true → satisfies (s.dev.count obj.toNat) v = false → Does (.tileWait t obj sa) s fun d =>
            (d.tile t).ctx = { (s.dev.tile t).ctx with run := .waiting } ∧ d.waiters = s.dev.waiters ++ [⟨.tile t, obj.toNat, v, false⟩]))
      ∧ (s.dev.calm = true → s.dev.waiters[k]? = some ⟨.tile t, obj.toNat, v, true⟩ → (s.dev.tile t).ctx.run = .waiting → (s.dev.tile t).busy = .none →
          Does (.syncWaiterRelease k us) s fun d =>
            (d.tile t).ctx = { (s.dev.tile t).ctx with run := .running }.adv ∧ d.waiters = delNth s.dev.waiters k)
      ∧ (s.dev.waiters[k]? = some w → w.released = false → Comes (.syncWaiterRelease k us) s (s.dev.withCodes us))
      ∧ (∀ id i, s.dev.waiters[k]? = some w → w.released = true → w.who = .cmd id i → s.dev.cmd? id = some c → s.dev.studio = true →
          s.dev.choice = some (ringG c.h) → Comes (.syncWaiterRelease k us) s ((s.dev.withCodes us).dispatchHead (ringG c.h))))
  ∧ (
  ∀ (s : State) (t : Nat),
    let x := s.dev.tile t
    let ls := x.ctx.lsq.any LsQ.real = false
    let cube := x.cq.isEmpty = true
    let seen := x.passes.isEmpty = true
    let held (k : Nat) := s.dev.modCtx t fun c => { c with run := .fenced k }
    (Issues s t →
      (ls → Comes (.fenceLs t) s (s.dev.adv t)) ∧ (¬ls → Comes (.fenceLs t) s (held 0))
        ∧ (cube → Comes (.fenceCube t) s (s.dev.adv t)) ∧ (¬cube → Comes (.fenceCube t) s (held 1))
        ∧ (ls ∧ cube ∧ seen → Comes (.fenceAll t) s (s.dev.adv t)) ∧ (¬(ls ∧ cube ∧ seen) → Comes (.fenceAll t) s (held 2)))
      ∧ ∀ k, tileOk t = true → x.ctx.run = .fenced k → x.busy = .none →
          (s.dev.fenceMet t k = true → Comes (.fenceRelease t) s (s.dev.modCtx t fun c => { c with run := .running }.adv))
            ∧ (s.dev.fenceMet t k = false → Comes (.fenceRelease t) s s.dev))

/-- TILE_HALTED (R428, Table 3.23): once its work has ended the tile is idle; of a command with other tiles running nothing more happens, and with its last
tile the command completes with ST_OK and the count and lowest number of its tiles whose TIL_STATUS was not 0; a firing that waits takes the tile (R372),
else its highest saved context is restored (R209); until its work has ended a HALT has no effect. COMPLETES: TILE_HALTED.

PREEMPTION_POINT (R104): at a point a firing takes the tile, or the save of its context begins, after its DMA records have stopped (R205) and its sparse
jobs have stopped at their next step (R142); a point reached only by the group limit counts in TIL_GROUP_FORCED; off a point nothing happens.
COMPLETES: PREEMPTION_POINT. -/
def Obligations.HaltAndPreemption : Prop :=
  (
  ∀ (s : State) (t : Nat) (c : Cmd), tileOk t = true →
    let x := s.dev.tile t
    let st := decide (s.dev.rd (rTilStatus t) ≠ 0)
    let n := c.bad + (if st then 1 else 0)
    let low := if st && (c.bad == 0 || decide (t < c.low)) then t else c.low
    let c1 : Cmd := { c with tiles := setDel c.tiles t, bad := n, low := low }
    let idle (d : Dev) := ((d.setUpnt t false).modTile t fun x => { x with ctx := { x.ctx with run := .idle, cmd := none } }).afterEnd t
    (s.dev.haltReady t = false → Comes (.tileHalted t) s s.dev)
      ∧ (s.dev.haltReady t = true → x.ctx.cmd = none → Comes (.tileHalted t) s (idle s.dev))
      ∧ (s.dev.haltReady t = true → x.ctx.cmd = some c.id → s.dev.cmd? c.id = some c →
          (setDel c.tiles t ≠ [] → Comes (.tileHalted t) s (idle (s.dev.setCmd c1)))
            ∧ (setDel c.tiles t = [] → Comes (.tileHalted t) s (idle ((s.dev.setCmd c1).finish c1 0 (n % 65536 + 65536 * low)))))
      ∧ (s.dev.haltReady t = true → x.fireReq = none → Does (.tileHalted t) s fun d => (d.tile t).ctx.run = .idle ∧ (d.tile t).ctx.cmd = none
          ∧ (d.tile t).ctx.store = x.ctx.store ∧ (x.slots = [] → (d.tile t).busy = .none))
      ∧ ∀ u, s.dev.haltReady t = true → x.fireReq = some u → Does (.tileHalted t) s fun d => (d.tile t).busy = .firing u)
  ∧ (
  ∀ (s : State) (t : Nat) (steps : List Nat), tileOk t = true →
    let d0 := if s.dev.natural t then s.dev else s.dev.bump (rTilGroupForced t) 1
    (s.dev.atPoint t = false → Comes (.preemptionPoint t steps) s s.dev)
      ∧ (s.dev.atPoint t = true → Comes (.preemptionPoint t steps) s ((d0.modTile t fun x => { x with group := 0 }).takeTile t steps))
      ∧ ∀ r rs, s.dev.atPoint t = true → (s.dev.tile t).reqs.filter (s.dev.reqStands t) = r :: rs →
        (Does (.preemptionPoint t steps) s fun d => (d.tile t).group = 0 ∧ (d.tile t).reqs = rs
            ∧ (d.tile t).busy = (if r.firing then .firing r.cmd else .saving (s.dev.tile t).ctx.prio) ∧ (d.tile t).ctx.pc = (s.dev.tile t).ctx.pc)
          ∧ (s.dev.calm = true → r.firing = true → Does (.preemptionPoint t steps) s fun d =>
              d.rd (rTilGroupForced t) = if s.dev.natural t then s.dev.rd (rTilGroupForced t) else satAdd (s.dev.rd (rTilGroupForced t)) 1))

/-- CONTEXT_SAVE_DONE and CONTEXT_RESTORE_DONE (R205 to R209): a save leaves the whole context, with the context's registers and the END state, in the slot of its
priority, counted in TIL_CTX_SAVES, and the tile idle; with no command waiting the tile begins to restore its highest slot. A restore brings the context
back. A glaze mismatch starts one retry (R208); an uncorrectable word is a fault of the tile (R369). COMPLETES: CONTEXT_SAVE_DONE, CONTEXT_RESTORE_DONE.

A context saved into a slot and restored from it is the context that was saved, whatever the tile held meanwhile: its registers, and whether its last
cube instruction had END set, come back with it. -/
def Obligations.ContextResults : Prop :=
  (
  ∀ (s : State) (t q : Nat) (us : List Upset), tileOk t = true → s.dev.tileRetry t = false →
    let x := s.dev.tile t
    (x.busy = .saving q → (s.dev.isParked (.tile t) = true ∨ x.ctx.lsq.any (fun l => l.real && l.started) = false) →
      Comes (.contextSaveDone t true .clean us) s ((s.dev.withCodes us).saveDone t q)
        ∧ (∀ ok, Comes (.contextSaveDone t ok .uncorrectable us) s ((s.dev.withCodes us).unitFault 8 ⟨.tile, t⟩ 0 0))
        ∧ (s.dev.cmds = [] → s.dev.alive = true → x.fireReq = none → Does (.contextSaveDone t true .clean us) s fun d =>
          SMap.get none ((d.tile t).slots.map fun p => (p.1, some p.2)) q
              = some { ctx := x.ctx, regs := (ctxRegs t).map fun o => (o, s.dev.rd o), endSet := x.endSet }
            ∧ (d.tile t).ctx.run = .idle ∧ (d.tile t).ctx.loops = [] ∧ (d.tile t).ctx.lsq = [] ∧ (d.tile t).ctx.jobs = []
            ∧ d.rd (rTilCtxSaves t) = satAdd (s.dev.rd (rTilCtxSaves t)) 1 ∧ (x.slots = [] → (d.tile t).busy = .restoring q))
        ∧ Does (.contextSaveDone t false .clean us) s fun d => d.tileRetry t = true ∧ d.tile t = x)
      ∧ (x.busy = .restoring q → s.dev.alive = true →
        Comes (.contextRestoreDone t true) s (s.dev.restored t q)
          ∧ (∀ sv, SMap.get none (x.slots.map fun p => (p.1, some p.2)) q = some sv → s.dev.cmds = [] → Does (.contextRestoreDone t true) s fun d =>
              (d.tile t).busy = .none ∧ (s.dev.dma = [] → sv.ctx.lsq = [] → (d.tile t).ctx = sv.ctx ∧ (d.tile t).endSet = sv.endSet))
          ∧ Does (.contextRestoreDone t false) s fun d => d.tileRetry t = true ∧ d.tile t = x))
  ∧ (
  ∀ (d : Dev) (t q : Nat), d.cmds = [] → d.dma = [] → (d.tile t).ctx.lsq = [] →
    (((d.saved t q).restored t q).tile t).ctx = (d.tile t).ctx ∧ (((d.saved t q).restored t q).tile t).endSet = (d.tile t).endSet
      ∧ d.upnt t = ((d.saved t q).restored t q).upnt t
      ∧ (∀ n, n < 2 → ((d.saved t q).restored t q).rd (rTilCvtRmax t n) = d.rd (rTilCvtRmax t n)
          ∧ ((d.saved t q).restored t q).rd (rTilCvtEmax t n) = d.rd (rTilCvtEmax t n)))

/-- LDV (R126, R131, Table 4.7): it joins the load/store queue of 8, a full queue holds the sequencer, and what stands in the queue runs in its turn. In a queue that
was empty it runs at once: row `r` comes from SA + r x SB of the tile store, FP32 or INT32 as it is and BF16 widened exactly; a reserved LFMT writes
zeros and sets LSFMT; an address past the store's end sets LSWRAP; corrected words are counted, and an uncorrectable one is a fault of the tile
(R125, R369). COMPLETES: LDV.

LDVB (Table 4.7, R83): element (i, j) of VD is the exact FP32 value of element (SA + i, SB + j) of the block operand that the descriptor names; a
descriptor of no block format writes zeros and sets LSFMT. It is outside the scope of Underpainting mode (R116). COMPLETES: LDVB. -/
def Obligations.VectorLoadResults : Prop :=
  (
  ∀ (s : State) (t n : Nat) (f : LsF) (ecc : Ecc), Issues s t →
    let d := s.dev
    let a := d.lsA t f
    let p := d.lsB t f
    let w := if f.lfmt = 1 then 16 else 32
    let listed := f.lfmt = 0 ∨ f.lfmt = 1 ∨ f.lfmt = 2 ∨ f.lfmt = 6
    let v := (List.range 8).flatMap fun r => ldvEls (d.upnt t) f.lfmt.toNat (d.tsRead t (a + r * p) w)
    Comes (.ldv t f ecc) s (d.lsEnter t (d.lsInst t .ldv f ecc []) id)
      ∧ (8 ≤ ((d.lsq t).filter LsQ.real).length → Comes (.ldv t f ecc) s d)
      ∧ (d.lsq t = [] → d.storeHeld t = false → ecc ≠ .uncorrectable → Does (.ldv t f ecc) s fun e =>
          (∀ r, e.getV t r = if r % 32 = f.vr.toNat then (if listed then v.map (BitVec.ofNat 32) else List.replicate 64 0) else d.getV t r)
            ∧ (e.tile t).ctx.pc = (d.tile t).ctx.adv.pc ∧ (e.tile t).ctx.store = (d.tile t).ctx.store ∧ (e.tile t).ctx.sq = (d.tile t).ctx.sq
            ∧ e.lsq t = [])
      ∧ (d.lsq t = [] → d.storeHeld t = false → d.calm = true →
          (Does (.ldv t f .clean) s fun e => e.rd (rTilLsStatus t) =
            if ¬listed then d.rd (rTilLsStatus t) ||| 4 else if 262144 < a + 7 * p + w then d.rd (rTilLsStatus t) ||| 1 else d.rd (rTilLsStatus t))
          ∧ (listed → Does (.ldv t f (.corrected n)) s fun e => e.rd (rTilTsCorr t) = if n = 0 then d.rd (rTilTsCorr t) else satAdd (d.rd (rTilTsCorr t)) n)
          ∧ (listed → Does (.ldv t f .uncorrectable) s fun e => ∀ r, e.getV t r = d.getV t r)))
  ∧ (
  ∀ (s : State) (t : Nat) (f : LsF) (ecc : Ecc), Issues s t →
    let d := s.dev
    let c := (d.tile t).ctx
    let q := c.desc f.dsc.toNat
    let r0 := d.lsA t f
    let k0 := d.lsB t f
    let ex (i j : Nat) := (Mem.get 0 c.store (q.expAddr q.fmt (r0 + i) (k0 + j) % 262144)).toNat
    let v := (List.range 64).map fun x =>
      BitVec.ofNat 32 (elemToF32 q.fmt (ex (x / 8) (x % 8)) (c.readOp q q.fmt (ex (x / 8) (x % 8)) (r0 + x / 8) (k0 + x % 8)))
    Comes (.ldvb t f ecc) s (d.lsEnter t (d.lsInst t .ldvb f ecc []) id)
      ∧ (8 ≤ ((d.lsq t).filter LsQ.real).length → Comes (.ldvb t f ecc) s d)
      ∧ (d.lsq t = [] → d.storeHeld t = false → ecc ≠ .uncorrectable → Does (.ldvb t f ecc) s fun e =>
          (∀ r, e.getV t r = if r % 32 = f.vr.toNat then (if isBlockFmt q.fmt then v else List.replicate 64 0) else d.getV t r)
            ∧ (e.tile t).ctx.pc = c.adv.pc ∧ (e.tile t).ctx.store = c.store ∧ e.lsq t = []
            ∧ (d.calm = true → d.upnt t = true → e.fld (rTilUpntStatus t) 1 1 = 1)
            ∧ (d.calm = true → isBlockFmt q.fmt = false → e.rd (rTilLsStatus t) = d.rd (rTilLsStatus t) ||| 4)))

/-- STV (Table 4.7, R127, R128): in a queue that was empty, the eight rows of the register group, converted to the format of the converter, stand at SA +
r x SB, and no other byte of the store changes; a block format, or packing switched on, writes nothing and sets LSFMT. The copies of the converter are
compared before each row is written (R362): at the first row in which they differ the store stops for one retry, with the rows before it written.
COMPLETES: STV.

STVB (Table 4.7, R127, R134 to R139): in a queue that was empty and without packing, row `r` of the group becomes one scale block, its exponent byte and
its element bytes where the descriptor places them, and no other byte of the store changes; a descriptor of no block format, or packing into a format other
than B8 and B4, writes nothing and sets LSFMT; a first row in which the converter's copies differ stops the store for one retry. COMPLETES: STVB. -/
def Obligations.VectorStoreResults : Prop :=
  (
  ∀ (s : State) (t : Nat) (f : LsF) (ecc : Ecc) (bad : List Nat), Issues s t →
    let d := s.dev
    let fmt := d.fld (rTilCvtFmt t f.cvt.toNat) 2 0
    let off := isBlockFmt fmt = true ∨ d.fld (rTilCvtSpmeta t f.cvt.toNat) 31 31 = 1
    let alone := d.lsq t = [] ∧ d.storeHeld t = false ∧ d.memOk = true
    Comes (.stv t f ecc bad) s (d.lsEnter t (d.lsInst t .stv f ecc bad) id)
      ∧ (8 ≤ ((d.lsq t).filter LsQ.real).length → Comes (.stv t f ecc bad) s d)
      ∧ (alone → off → Does (.stv t f .clean bad) s fun e =>
          (e.tile t).ctx.store = (d.tile t).ctx.store ∧ (d.calm = true → e.rd (rTilLsStatus t) = d.rd (rTilLsStatus t) ||| 4) ∧ e.lsq t = [])
      ∧ (alone → ¬off → apart (d.stvWrites t f) → Does (.stv t f .clean []) s fun e =>
          e.tsHolds t (d.stvWrites t f) ∧ e.tsKeeps d t (d.stvWrites t f) ∧ (e.tile t).ctx.pc = (d.tile t).ctx.adv.pc
            ∧ (e.tile t).ctx.vt = (d.tile t).ctx.vt ∧ (e.tile t).ctx.sq = (d.tile t).ctx.sq ∧ e.lsq t = [])
      ∧ ∀ r, alone → ¬off → apart (d.stvWrites t f) → r < 8 → inSet bad r = true → (∀ q, q < r → inSet bad q = false) →
          Does (.stv t f .clean bad) s fun e =>
            e.tsHolds t ((d.stvWrites t f).take r) ∧ e.tsKeeps d t ((d.stvWrites t f).take r) ∧ e.storeHeld t = true ∧ (e.lsq t).length = 1)
  ∧ (
  ∀ (s : State) (t : Nat) (f : LsF) (ecc : Ecc) (bad : List Nat), Issues s t →
    let d := s.dev
    let c := ((d.tile t).ctx.desc f.dsc.toNat).fmt
    let pack := d.fld (rTilCvtSpmeta t f.cvt.toNat) 31 31 = 1
    let off := isBlockFmt c = false ∨ (pack ∧ 4 ≤ c)
    let alone := d.lsq t = [] ∧ d.storeHeld t = false ∧ d.memOk = true
    Comes (.stvb t f ecc bad) s (d.lsEnter t (d.lsInst t .stvb f ecc bad) id)
      ∧ (8 ≤ ((d.lsq t).filter LsQ.real).length → Comes (.stvb t f ecc bad) s d)
      ∧ (alone → off → Does (.stvb t f .clean bad) s fun e =>
          (e.tile t).ctx.store = (d.tile t).ctx.store ∧ (d.calm = true → e.rd (rTilLsStatus t) = d.rd (rTilLsStatus t) ||| 4) ∧ e.lsq t = [])
      ∧ (alone → ¬off → ¬pack → apart (d.stvbWrites t f) → Does (.stvb t f .clean []) s fun e =>
          e.tsHolds t (d.stvbWrites t f) ∧ e.tsKeeps d t (d.stvbWrites t f) ∧ (e.tile t).ctx.pc = (d.tile t).ctx.adv.pc
            ∧ (e.tile t).ctx.vt = (d.tile t).ctx.vt ∧ (e.tile t).ctx.sq = (d.tile t).ctx.sq ∧ e.lsq t = [])
      ∧ (alone → ¬off → inSet bad 0 = true → Does (.stvb t f .clean bad) s fun e =>
          (e.tile t).ctx.store = (d.tile t).ctx.store ∧ e.storeHeld t = true ∧ (e.lsq t).length = 1))

/-- LDT and STT (R129, R131): a transfer of LEN + 1 blocks joins the load/store queue of 8 with its addresses rounded down, which LSALIGN marks; a full
queue holds the sequencer. COMPLETES: LDT, STT.

LDT_BLOCK_ARRIVAL and STT_BLOCK_WRITE (R127, R129 to R131, R176): a transfer that may move takes its next block. Away from Bisque ranges and zero maps, and
with no other entry in the queue, the block moves between device memory, at the translation of its address, and the tile store; a translation fault parks
the tile; a glaze mismatch at a read starts one retry, and a write gives the block new glaze. A row for a place that holds no such transfer does nothing.
COMPLETES: LDT_BLOCK_ARRIVAL, STT_BLOCK_WRITE. -/
def Obligations.TransferResults : Prop :=
  (
  ∀ (s : State) (t : Nat) (f : LsF), Issues s t →
    let d := s.dev
    let va := d.lsA t f
    let ts := d.lsB t f
    let x (load : Bool) : Xfer := { load := load, va := va / 256 * 256, ts := ts / 256 * 256, len := f.len.toNat + 1, donE := 0 }
    let mark := if va % 256 = 0 ∧ ts % 256 = 0 then d else d.wr (rTilLsStatus t) (d.rd (rTilLsStatus t) ||| 2)
    let room := ((d.lsq t).filter LsQ.real).length < 8
    (room → d.lsStill t = true →
        Comes (.ldt t f) s ((mark.lsAdd t (.xfer (x true))).adv t) ∧ Comes (.stt t f) s ((mark.lsAdd t (.xfer (x false))).adv t))
      ∧ (room → Comes (.ldt t f) s (Dev.lsDrain t ((mark.lsAdd t (.xfer (x true))).adv t))
          ∧ Comes (.stt t f) s (Dev.lsDrain t ((mark.lsAdd t (.xfer (x false))).adv t)))
      ∧ (¬room → Comes (.ldt t f) s d ∧ Comes (.stt t f) s d))
  ∧ (
  ∀ (s : State) (t k : Nat) (x : Xfer) (pa : Nat) (d1 : Dev) (u : Upset) (us : List Upset), tileOk t = true →
    let d := s.dev.withCodes us
    let a := x.va + 256 * x.donE
    let ts := x.ts + 256 * x.donE
    let plain := s.dev.calm = true ∧ s.dev.memOk = true ∧ d.lsq t = [.xfer x] ∧ x.held = [] ∧ d.xferGo t 0 x = true
      ∧ d.fld (rTilBsqCtl t) 1 0 = 0 ∧ d.fld (rTilZctl t) 1 0 = 0 ∧ ts + 256 ≤ 262144
    (d.xfer? t k = none → Comes (.ldtBlockArrival t k u us) s d ∧ ∀ ecc, Comes (.sttBlockWrite t k ecc us) s d)
      ∧ (d.xfer? t k = some x → x.load = true → x.donE + x.held.length < x.len → d.xferGo t k x = true → d.ldtHeld t k = false →
          d.fld (rTilBsqCtl t) 1 1 = 0 → Comes (.ldtBlockArrival t k u us) s (d.ldtBlock t k x u))
      ∧ (d.xfer? t k = some x → x.load = false → d.xferGo t k x = true → d.lsTurn t k = true →
          Comes (.sttBlockWrite t k .clean us) s (d.sttBlock t k x)
            ∧ Comes (.sttBlockWrite t k .uncorrectable us) s (d.unitFault 8 ⟨.tile, t⟩ a 0))
      ∧ (plain → x.load = true → x.donE < x.len → d.ldtHeld t 0 = false →
        (d.translate (dieOf t) (some t) a .read = (.ok pa, d1) → d1.refuse pa = none → d1.glazeBad pa .clean = false →
          Does (.ldtBlockArrival t 0 .clean us) s fun e => Mem.bytes 0 (e.tile t).ctx.store ts 256 = d1.block pa ∧ e.mem = d1.mem)
        ∧ (d.translate (dieOf t) (some t) a .read = (.ok pa, d1) → d1.refuse pa = none → d1.noGlaze pa = false →
          Does (.ldtBlockArrival t 0 .glaze us) s fun e => e.ldtHeld t 0 = true ∧ (e.tile t).ctx = (d1.tile t).ctx)
        ∧ ∀ c l en, d.translate (dieOf t) (some t) a .read = (.fault c l en, d1) → Does (.ldtBlockArrival t 0 u us) s fun e =>
          e.isParked (.tile t) = true ∧ (e.tile t).ctx = (d1.tile t).ctx)
      ∧ (plain → x.load = false →
        (d.translate (dieOf t) (some t) a .write = (.ok pa, d1) → d1.refuse pa = none →
          Does (.sttBlockWrite t 0 .clean us) s fun e =>
            Mem.bytes 0 e.mem (pa / 256 * 256) 256 = s.dev.tsRead t ts 256 ∧ inSet e.bad (pa / 256) = false)
        ∧ ∀ c l en, d.translate (dieOf t) (some t) a .write = (.fault c l en, d1) → Does (.sttBlockWrite t 0 .clean us) s fun e =>
          e.isParked (.tile t) = true ∧ (e.tile t).ctx = (d1.tile t).ctx))

/-- EXPAND24, MERGE and SPARSE_JOB_END (R140 to R147): a launch leaves STATUS 1 and FAULTTAG 0 in the record and the job with the tile's merger; its end
leaves STATUS 3, signals SYNC and takes the job off. A DMALAUNCH of another KIND is another row's. COMPLETES: EXPAND24, MERGE, SPARSE_JOB_END.

BSQ_CLOSE, CVT_CLOSE and CVT_SLOT_CHANGE (R349, R63 to R66): with no STT queued the segment's remaining map bits are marked and NEXT is the range's
length, otherwise the close waits in the queue for the STTs; a converter's slot closes, its running maxima and local record empty, once no store through it
is queued; a SLOT that does not change closes nothing. COMPLETES: BSQ_CLOSE, CVT_CLOSE, CVT_SLOT_CHANGE.

A 2:4 group with at most two nonzero codes loses nothing when it is packed and expanded again (R135, R143). -/
def Obligations.SparseResults : Prop :=
  (
  ∀ (s : State) (t ra k : Nat) (j : SparseJob) (ecc : Ecc),
    let d := s.dev
    let off := d.launchOff t ra
    let rec_ := d.launchRec t ra
    let kind := field rec_ 0 1
    let started (e : Dev) := (e.tile t).ctx.jobs = (d.tile t).ctx.jobs ++ [{ off := off, img := rec_ }] ∧ e.tsRead t (off + 4) 4 = [1, 0, 0, 0]
      ∧ (e.tile t).ctx.pc = (d.tile t).ctx.adv.pc
    (Issues s t →
      (kind = 0x20 → Comes (.expand24 t ra ecc) s (d.withEcc t ecc fun e => e.startJob t off rec_))
        ∧ (kind ≠ 0x20 → Comes (.expand24 t ra ecc) s d)
        ∧ (kind = 0x21 → Comes (.merge t ra ecc) s (d.withEcc t ecc fun e => e.startJob t off rec_))
        ∧ (kind ≠ 0x21 → Comes (.merge t ra ecc) s d)
        ∧ (d.memOk = true → kind = 0x20 → Does (.expand24 t ra .clean) s started)
        ∧ (d.memOk = true → kind = 0x21 → Does (.merge t ra .clean) s started))
      ∧ (tileOk t = true → (d.tile t).ctx.jobs[k]? = none ∨ d.jobsGo t = false → Comes (.sparseJobEnd t k ecc) s d)
      ∧ (tileOk t = true → d.memOk = true → d.calm = true → d.jobsGo t = true → (d.tile t).ctx.jobs[k]? = some j → j.off + 8 ≤ 262144 →
          Does (.sparseJobEnd t k .clean) s fun e => (e.tile t).ctx.jobs = delNth (d.tile t).ctx.jobs k ∧ e.tsRead t (j.off + 4) 4 = [3, 0, 0, 0]
            ∧ e.count (recSync j.img) = d.count (recSync j.img) + 1))
  ∧ (
  ∀ (s : State) (t n : Nat) (slot : BitVec 12), tileOk t = true → n < 2 →
    let d := s.dev
    let stts := (d.lsq t).any LsQ.isStt
    let stores := (d.lsq t).any (LsQ.storesBy n)
    let sound := d.calm = true ∧ d.codes = [] ∧ d.shelfOut (dieOf t) = false
    (stts = true → Comes (.bsqClose t) s (d.lsAdd t .bsqClose))
      ∧ (stts = false → Comes (.bsqClose t) s (Dev.bsqEnd t d))
      ∧ (stts = false → d.calm = true → Does (.bsqClose t) s fun e =>
        e.rd (rTilBsqNext t) = BitVec.ofNat 32 (min (d.rd (rTilBsqLen t)).toNat 65536))
      ∧ (stores = true → Comes (.cvtClose t n) s (d.lsAdd t (.cvtClose n (d.slotOf t n))))
      ∧ (stores = false → Comes (.cvtClose t n) s (d.swCloseAt t n (d.slotOf t n)))
      ∧ (stores = false → sound → Does (.cvtClose t n) s fun e =>
          e.rd (rTilCvtRmax t n) = 0 ∧ e.rd (rTilCvtEmax t n) = 0 ∧ (e.tile t).ctx.swRec n = [] ∧ (e.tile t).ctx.store = (d.tile t).ctx.store)
      ∧ (d.slotOf t n = slot.toNat → Comes (.cvtSlotChange t n slot) s d)
      ∧ (d.slotOf t n ≠ slot.toNat → Comes (.cvtSlotChange t n slot) s ((d.swClose t n).setFld (rTilCvtFmt t n) 19 8 slot.toNat))
      ∧ (d.slotOf t n ≠ slot.toNat → stores = false → sound → Does (.cvtSlotChange t n slot) s fun e =>
          e.slotOf t n = slot.toNat ∧ e.rd (rTilCvtRmax t n) = 0 ∧ e.rd (rTilCvtEmax t n) = 0))
  ∧ (
  ∀ (c : Nat) (g : List Nat), g.length = 4 → nzCount g ≤ 2 → (∀ x ∈ g, x = 0 ∨ x % 2 ^ (fmtFrac c + 1) ≠ 0) →
    let k := keepTwo c g
    expandGroup (nth 0 g k.1) (nth 0 g k.2) (k.1 + 4 * k.2) = (g, false))

/-- DMA launches (R189, R192): a record of KIND 1, 2 or 3 enters its die's queue, behind those of its priority, with STATUS 0; a full queue of 64 holds the
tile; a KIND that no table lists ends at once with STATUS 4 and signals (Table 7.5); a sort record of KIND 0x30 goes to the die's Wheel (R246).
COMPLETES: DMA_COPY, DMA_COPY2D, DMA_FILL, DMA_BAD_KIND, SORT.

DMA engines (R191 to R193): the lowest free engine takes the record at the head of the queue; a record of higher priority that waits while all eight are
busy sends the lowest, latest one back to the head of its priority; a record with nothing left to move ends, signals its object and frees its engine.
COMPLETES: DMA_RECORD_START, DMA_PREEMPT, DMA_RECORD_COMPLETE.

A FILL that completes (R189 to R191): each of its blocks in the launching tile's store holds the pattern, the die's block count rises by their number,
and the record's object is signalled. -/
def Obligations.DmaResults : Prop :=
  (
  ∀ (s : State) (t ra : Nat), Issues s t → s.dev.memOk = true →
    let d := s.dev
    let b := d.launchRec t ra
    let off := d.launchOff t ra
    let c := (d.tile t).ctx
    let r := dmaRecOf b (.tile t off) c.stream c.prio d.dmaSeq
    let queued (i : Instr) :=
      (d.dmaRoom (dieOf t) = true → Does i s fun e => (e.dmaDie (dieOf t)).queue = dmaPut r (d.dmaDie (dieOf t)).queue
          ∧ (e.dmaDie (dieOf t)).engines = (d.dmaDie (dieOf t)).engines ∧ e.tsRead t (off + 4) 4 = [0, 0, 0, 0] ∧ (e.tile t).ctx.pc = c.adv.pc)
        ∧ (d.dmaRoom (dieOf t) = false → Comes i s d)
    (field b 0 1 = 1 → queued (.dmaCopy t ra .clean)) ∧ (field b 0 1 = 2 → queued (.dmaCopy2d t ra .clean))
      ∧ (field b 0 1 = 3 → queued (.dmaFill t ra .clean))
      ∧ (kindListed (field b 0 1) = false → d.calm = true → Does (.dmaBadKind t ra .clean) s fun e => e.tsRead t (off + 4) 4 = [4, 0, 0, 0]
          ∧ e.count (recSync b) = d.count (recSync b) + 1 ∧ (e.tile t).ctx.pc = c.adv.pc ∧ e.dma = d.dma)
      ∧ (field b 0 1 = 0x30 → Does (.sort t ra .clean) s fun e =>
          (∃ j : SortJob, e.sortsOn (dieOf t) = d.sortsOn (dieOf t) ++ [j] ∧ j.tile = t ∧ j.off = off ∧ j.img = b ∧ j.prio = c.prio)
            ∧ (e.tile t).ctx.pc = c.adv.pc)
      ∧ (field b 0 1 = 1 → Comes (.dmaCopy t ra .uncorrectable) s (d.unitFault 8 ⟨.tile, t⟩ c.pc 0)))
  ∧ (
  ∀ (s : State) (n e m : Nat) (r : DmaRec) (rest : List DmaRec) (u : Upset) (ecc : Ecc) (us : List Upset), dieOk n = true →
    let d := s.dev.withCodes us
    let taken := ((d.setDmaDie n { d.dmaDie n with queue := rest }).dmaSet n e r).recStatus r 1 0
    (d.dmaIdle n = some e → (d.dmaDie n).queue = r :: rest → d.alive = true → d.dieOut n = false →
        Comes (.dmaRecordStart n m u ecc us) s ((Dev.dmaRun n e m taken).dmaOne n e u ecc)
          ∧ Does (.dmaRecordStart n 0 .clean .clean us) s fun z => (z.dmaDie n).queue = rest ∧ z.dmaOn n e = some r)
      ∧ ((d.dmaDie n).queue = [] ∨ d.dmaIdle n = none ∨ d.alive = false ∨ d.dieOut n = true → Comes (.dmaRecordStart n m u ecc us) s d)
      ∧ (∀ v, (d.dmaDie n).queue = r :: rest → d.dmaVictim n r.prio = some (e, v) → d.alive = true → d.calm = true →
          Does (.dmaPreempt n) s fun z =>
            (z.dmaDie n).queue = dmaBack v (r :: rest) ∧ z.dmaOn n e = none ∧ z.rd (rDmaPreempts n) = satAdd (d.rd (rDmaPreempts n)) 1)
      ∧ ((d.dmaDie n).queue = [] → Comes (.dmaPreempt n) s s.dev)
      ∧ (d.dmaOn n e = none → Comes (.dmaRecordComplete n e u ecc us) s d)
      ∧ (∀ t off, d.dmaOn n e = some r → r.orig = .tile t off → r.left = 0 → r.parked = false → d.dmaHeld n e = false → d.alive = true →
          d.calm = true → Does (.dmaRecordComplete n e .clean .clean us) s fun z => z.dmaOn n e = none ∧ z.count r.sync = d.count r.sync + 1))
  ∧ (
  ∀ (s : State) (n e t off : Nat) (r : DmaRec) (us : List Upset), dieOk n = true → s.dev.calm = true → s.dev.memOk = true → s.dev.alive = true →
    s.dev.dmaOn n e = some r → r.kind = 3 →
    r.dstTs = true → r.orig = .tile t off → r.donE = 0 → r.drows = 0 → r.dst % 256 = 0 → r.dst + 256 * r.blocks ≤ 262144 → r.parked = false →
    s.dev.dmaHeld n e = false → off + 64 ≤ 262144 → (off + 64 ≤ r.dst ∨ r.dst + 256 * r.blocks ≤ off) →
    Does (.dmaRecordComplete n e .clean .clean us) s fun z =>
      (∀ i, i < 64 * r.blocks → z.tsRead t (r.dst + 4 * i) 4 = toLe 4 r.pat.toNat) ∧ z.dmaOn n e = none ∧ z.count r.sync = s.dev.count r.sync + 1
        ∧ z.rd64 (rDmaBlocksLo n) = min (s.dev.rd64 (rDmaBlocksLo n) + r.blocks) (2 ^ 64 - 1))

/-! ### Memory and faults -/

/-- Bytes written to a memory in canonical form read back, every other byte is as before, and the form is kept: below the codes, at the Shelf and HBM, and
in a tile store, where addresses wrap.

Equal contents are equal data: two memories in canonical form that read alike everywhere are the same list. -/
def Obligations.MemoryWrites : Prop :=
  (
  ∀ (u : Byte) (m : Mem) (a : Nat) (bs : List Byte), Mem.wf u m = true →
    Mem.bytes u (Mem.write u m a bs) a bs.length = bs
      ∧ (∀ x, (x < a ∨ a + bs.length ≤ x) → Mem.get u (Mem.write u m a bs) x = Mem.get u m x)
      ∧ Mem.wf u (Mem.write u m a bs) = true ∧ ∀ w, 0 < w → Mem.wf u (Mem.writeMod u w m a bs) = true)
  ∧ (
  ∀ (u : Byte) (m n : Mem), Mem.wf u m = true → Mem.wf u n = true → (∀ a, Mem.get u m a = Mem.get u n a) → m = n)

/-- The commands of `storesNothing` (register and event accesses, queueing tile instructions, link flits and lanes, HEADs, supply, doorbells, host ports,
attestation, mailbox and flash) leave every byte of device memory and of every running tile store as it was, with no command accepted and not completed, and
for a load/store instruction with nothing in its queue that can move by itself. -/
def Obligations.MemoryFrame : Prop :=
  ∀ (i : Instr) (s z : State), storesNothing i = true → s.dev.cmds = [] →
    (∀ u f e, i = .ldv u f e ∨ i = .ldvb u f e ∨ i = .ldt u f ∨ i = .stt u f → s.dev.lsStill u = true) → exec i s = .next z →
    z.pending = s.pending ∧ (∀ a, Mem.get 0 z.dev.mem a = Mem.get 0 s.dev.mem a)
      ∧ ∀ t a, Mem.get 0 (z.dev.tile t).ctx.store a = Mem.get 0 (s.dev.tile t).ctx.store a

/-- CORRECTED_WRITE_BACK and PATROL_SCRUB (R166 to R168): a codeword written back no longer waits; a scrubbed codeword counts what it met, with its address,
and the last of a pass counts the pass; a rate of 0, and the Dormant state, stop the scrubber. COMPLETES: CORRECTED_WRITE_BACK, PATROL_SCRUB.

PARTIAL_BLOCK_WRITE (R177): the bytes are merged into their block; its glaze word is new, or, where the old one did not hold, stays wrong and is
counted. An address that R164 refuses is counted and job-fatal. COMPLETES: PARTIAL_BLOCK_WRITE.

The Shelf atomics (R173, Table 6.2): inside an atomic window and aligned, the word becomes the sum clamped to plus or minus 2^(n-1) - 1, the saturated
unsigned sum, or the unsigned maximum; elsewhere in a Shelf, and in HBM, the atomic is rejected and counted; an uncorrectable codeword is a fault at once
(R369); a Shelf out of use is as a hole (the model's choice, log 74). COMPLETES: SHELF_ADD64, SHELF_ADD32, SHELF_SADD32, SHELF_UMAX32. -/
def Obligations.MemoryCommandResults : Prop :=
  (
  ∀ (s : State) (cw k : Nat) (u : Upset) (done : Bool), k < 16 →
    let d := s.dev
    let off := 64 * cw
    Comes (.correctedWriteBack cw) s { d with wback := setDel d.wback cw }
      ∧ (d.fld (rHbmCtl k) 15 8 = 0 ∨ d.dormant = true → Comes (.patrolScrub k cw u done) s d)
      ∧ (d.fld (rHbmCtl k) 15 8 ≠ 0 → d.dormant = false → d.calm = true →
          Comes (.patrolScrub k cw .clean done) s (if done then d.wr (rHbmScrubPasses k) (satAdd (d.rd (rHbmScrubPasses k)) 1) else d)
            ∧ (∀ i, Does (.patrolScrub k cw (.corrected i) done) s fun e => e.rd (rHbmCorr k) = satAdd (d.rd (rHbmCorr k)) 1
                ∧ e.rd64 (rHbmCorrAddrLo k) = off % 2 ^ 64 ∧ (inSet e.wback (stackPa k off / 64) = true ∨ d.fld (rHbmCtl k) 0 0 = 0))
            ∧ ∀ i, Does (.patrolScrub k cw (.uncorrectable i) done) s fun e => e.rd (rHbmUncorr k) = satAdd (d.rd (rHbmUncorr k)) 1
                ∧ e.rd64 (rHbmUncorrAddrLo k) = off % 2 ^ 64 ∧ e.fld (rHbmStatus k) 1 1 = 1))
  ∧ (
  ∀ (s : State) (pa : Nat) (bs : List Byte) (u : Upset), 0 < bs.length → bs.length < 256 → pa % 256 + bs.length ≤ 256 → s.dev.calm = true →
    s.dev.memOk = true →
    let d := s.dev
    (d.refuse pa = none → Does (.partialBlockWrite pa bs u) s fun e =>
        Mem.bytes 0 e.mem pa bs.length = bs ∧ (∀ x, (x < pa ∨ pa + bs.length ≤ x) → Mem.get 0 e.mem x = Mem.get 0 d.mem x)
          ∧ (d.noGlaze pa = false → inSet e.bad (pa / 256) = d.glazeBad pa u))
      ∧ ∀ d1, d.refuse pa = some d1 → Comes (.partialBlockWrite pa bs u) s d1)
  ∧ (
  ∀ (s : State) (pa die off i : Nat) (v : BitVec 64) (w : BitVec 32) (u : Upset), s.dev.memOk = true →
    let d := s.dev
    let i32 := leNat (Mem.bytes 0 d.mem pa 4)
    let all (z : Dev) := Comes (.shelfAdd64 pa v u) s z ∧ Comes (.shelfAdd32 pa w u) s z ∧ Comes (.shelfSadd32 pa w u) s z ∧ Comes (.shelfUmax32 pa w u) s z
    (locate pa = .shelf die off → d.shelfOut die = false →
      (d.calm = true → d.inWindow die off = true → off % 8 = 0 → Does (.shelfAdd64 pa v .clean) s fun e =>
          sInt 64 (leNat (Mem.bytes 0 e.mem pa 8)) = (clampSym 63 (sInt 64 (leNat (Mem.bytes 0 d.mem pa 8)) + v.toInt)).1)
        ∧ (d.inWindow die off = true → off % 4 = 0 →
            (d.calm = true → Does (.shelfAdd32 pa w .clean) s fun e =>
                sInt 32 (leNat (Mem.bytes 0 e.mem pa 4)) = (clampSym 31 (sInt 32 i32 + w.toInt)).1
                ∧ e.rd (rShfAtomSat die) = if (clampSym 31 (sInt 32 i32 + w.toInt)).2 then satAdd (d.rd (rShfAtomSat die)) 1 else d.rd (rShfAtomSat die))
              ∧ (d.calm = true → Does (.shelfSadd32 pa w .clean) s fun e => leNat (Mem.bytes 0 e.mem pa 4) = min (i32 + w.toNat) 0xFFFFFFFF)
              ∧ (d.calm = true → Does (.shelfUmax32 pa w .clean) s fun e => leNat (Mem.bytes 0 e.mem pa 4) = max i32 w.toNat)
              ∧ Comes (.shelfUmax32 pa w (.uncorrectable i)) s ((d.bump (rShfUncorr die) 1).unitFault 7 ⟨.shelfBank, 32 * die + off / 256 % 32⟩ pa 0))
        ∧ (d.inWindow die off = false → all (d.bump (rShfAtomReject die) 1)))
      ∧ (locate pa = .shelf die off → d.shelfOut die = true → all (d.bump (rHbmDecodeErr 0) 1).jobFatal)
      ∧ (∀ k o, locate pa = .hbm k o → all (d.bump (rShfAtomReject (pa / hbmSpan)) 1))
      ∧ (locate pa = .window ∨ locate pa = .hole → all (d.bump (rHbmDecodeErr 0) 1).jobFatal))

/-- TRANSLATION_FAULT and FAULT_POST (R194, R197, R199, R200): an access that faults parks its agent, one that does not leaves it; a park is posted under
a new record, merged into a pending one of the same 64 KiB page and cause, or waits for a place of the 256; each post counts and raises source 17.
COMPLETES: TRANSLATION_FAULT, FAULT_POST.

STUDIO_FAULT_TAKE and FAULT_EXPIRY (R196, R201): the oldest record not taken is walked again; when the walk finds a translation the record goes and its
agents replay, otherwise it is sent to the owner's fault ring with source 4, or held while the owner's port may not issue; a record that has waited its limit is
a FAIL, counted and job-fatal, one that has not is left. COMPLETES: STUDIO_FAULT_TAKE, FAULT_EXPIRY. -/
def Obligations.TranslationFaultResults : Prop :=
  (
  ∀ (s : State) (ag : Agent) (va : BitVec 64) (acc : Access) (c l : Nat) (en : BitVec 64) (d1 : Dev) (p : Park) (us : List Upset),
    let d := s.dev.withCodes us
    let same (f : FaultRec) := f.va / 65536 == p.va / 65536 && f.cause == p.cause
    let mine := d.parks.find? fun p => decide (p.agent = ag) && p.fault.isNone
    let fault := d.translate (agentDie ag) (agentTile ag) va.toNat acc = (.fault c l en, d1)
    (d.isParked ag = true ∨ d.alive = false → Comes (.translationFault ag va acc us) s d)
      ∧ ((∀ x y z e, d.translate (agentDie ag) (agentTile ag) va.toNat acc ≠ (.fault x y z, e)) → Comes (.translationFault ag va acc us) s d)
      ∧ (d.isParked ag = false → d.alive = true → fault → Comes (.translationFault ag va acc us) s (d1.parkAgent ag va.toNat acc c l en))
      ∧ (∀ t, ag = .tile t → d.isParked ag = false → d.alive = true → (d1.tile t).ctx.run ≠ .idle → fault →
          Does (.translationFault ag va acc us) s fun e =>
            e.parks = d1.parks ++ [⟨ag, va.toNat, acc, c, l, (d1.tile t).ctx.stream, en, none, false, false⟩])
      ∧ (mine = none ∨ d.alive = false → Comes (.faultPost ag) s s.dev)
      ∧ (mine = some p → d.alive = true → Comes (.faultPost ag) s (s.dev.post p))
      ∧ (mine = some p → d.alive = true → d.faults.find? same = none → d.faults.length < 256 → d.calm = true → Does (.faultPost ag) s fun e =>
          e.faults = d.faults ++ [⟨d.nextId, p.agent, p.cause, p.va, p.access, p.level, p.stream, d.epoch, p.entry, false, false,
              d.ms + max 1 (d.fld rMmuCtl 31 16)⟩]
            ∧ e.nextId = d.nextId + 1 ∧ e.rd rMmuFaults = satAdd (d.rd rMmuFaults) 1 ∧ e.pendBit 17 = true)
      ∧ (∀ f, mine = some p → d.alive = true → d.faults.find? same = some f → d.calm = true → Does (.faultPost ag) s fun e =>
          e.faults = d.faults ∧ e.nextId = d.nextId ∧ e.rd rMmuFaults = satAdd (d.rd rMmuFaults) 1
            ∧ (∃ q ∈ e.parks, q.fault = some f.id ∧ q.agent = ag) ∧ e.pendBit 17 = true)
      ∧ (mine = some p → d.alive = true → d.faults.find? same = none → 256 ≤ d.faults.length → p.waited = false → d.calm = true →
          Does (.faultPost ag) s fun e => e.faults = d.faults ∧ e.rd rMmuFaultqFull = satAdd (d.rd rMmuFaultqFull) 1))
  ∧ (
  ∀ (s : State) (f : FaultRec) (id : Nat) (us : List Upset),
    let d := s.dev.withCodes us
    let d0 : Dev := { d with faults := d.faults.map fun (g : FaultRec) => if g.id = f.id then { g with taken := true } else g }
    (d.faults.find? (fun g => !g.taken) = none → Comes (.studioFaultTake us) s d)
      ∧ (d.faults.find? (fun g => !g.taken) = some f →
        (∀ d1, d0.rewalk f = (true, d1) → Comes (.studioFaultTake us) s (d1.resumeAll f.id))
          ∧ (∀ d1, d0.rewalk f = (false, d1) → Comes (.studioFaultTake us) s (d1.sendFault f))
          ∧ (d.calm = true → d.fld rMmuCtl 0 0 = 0 → d.mayIssue d.owner = true → Does (.studioFaultTake us) s fun e =>
              e.faults.any (fun g => decide (g.id = f.id) && g.sent && g.taken) = true ∧ e.pendBit 4 = true ∧ Out.faultRing d.owner f.bytes ∈ e.out))
      ∧ (d.faults.find? (fun g => g.id == id) = none → Comes (.faultExpiry id) s s.dev)
      ∧ (s.dev.faults.find? (fun g => g.id == f.id) = some f →
          (f.limit ≤ d.ms → Comes (.faultExpiry f.id) s
              ({ s.dev.bump rMmuFaultExpired 1 with faults := s.dev.faults.filter fun g => g.id != f.id } : Dev).jobFatal)
            ∧ (d.ms < f.limit → Comes (.faultExpiry f.id) s s.dev)))

/-- A job-fatal event (R425, R426): a running job has failed, sources 0 and 16 are pending, every tile has stopped, no job command and no waiting command is
left, the device's epoch is on the list of aborted ones, no tile fires or is to fire (R375), and no retry is left but a host's BAR2 read (Table 13.3). -/
def Obligations.JobFatalStops : Prop :=
  ∀ d : Dev,
    let e := d.jobFatal
    (d.job = 1 → e.job = 2) ∧ e.pendBit 0 = true ∧ e.pendBit 16 = true ∧ (∀ t, (e.tile t).ctx.run = .idle ∨ (e.tile t).ctx.run = .stopped)
      ∧ (∀ c ∈ e.cmds, c.disp = true ∧ c.op.isJob = false) ∧ (∀ c ∈ e.cmds, c ∈ d.cmds) ∧ inSet e.aborts e.epoch = true
      ∧ (∀ t, (e.tile t).inFiring = false) ∧ ∀ r ∈ e.retries, r.what.isBar2 = true

/-! ### Commands -/

/-- NOP, SIGNAL, WAIT, ADD and RESET (R427, R436, R444, Table 15.8), served at once: the operation on each object of the range in increasing order, then the
completion of R422 with ST_OK and DETAIL 0; a WAIT of which some object does not satisfy VALUE stays accepted and is not dispatched. COMPLETES: NOP, SIGNAL, WAIT, CMD_ADD, RESET.

What a range operation leaves: every object of the range has the operation's result on its own count, every other count is as before (Table 15.8,
R438). -/
def Obligations.SyncCommandResults : Prop :=
  (
  ∀ (s : State) (h : CmdHdr) (o n : Nat) (v : Word),
    let done (op : CmdOp) (f : Dev → Dev) := (f (s.dev.begun (submOf h op) op)).finish (s.dev.cmdOf h op) 0 0
    (Lone s.dev h .nop .nop → Comes (.nop h) s (done .nop id))
      ∧ (Lone s.dev h (.signal o n) (.signal o n) →
          Comes (.signal h o n) s (done (.signal o n) (iterFrom (fun i x => x.setCount i (x.count i + 1)) n o)))
      ∧ (Lone s.dev h (.add o n v) (.add o n v) →
          Comes (.cmdAdd h o n v) s (done (.add o n v) (iterFrom (fun i x => x.setCount i (x.count i + v)) n o)))
      ∧ (Lone s.dev h (.reset o n v) (.reset o n v) → Comes (.reset h o n v) s (done (.reset o n v) (iterFrom (fun i x => x.setCount i v) n o)))
      ∧ (Lone s.dev h (.wait o n v) (.wait o n v) → (∀ i, i < n → satisfies (s.dev.count (o + i)) v = true) → Comes (.wait h o n v) s (done (.wait o n v) id))
      ∧ (∀ k, Lone s.dev h (.wait o n v) (.wait o n v) → k < n → satisfies (s.dev.count (o + k)) v = false → Does (.wait h o n v) s fun d =>
          d.cmds.map (fun c => (c.id, c.disp)) = [(s.dev.cmdSeq, false)] ∧ d.sync = s.dev.sync))
  ∧ (
  ∀ (d : Dev) (f : Word → Word) (o n j : Nat),
    (iterFrom (fun i (x : Dev) => x.setCount i (f (x.count i))) n o d).count j = if o ≤ j ∧ j < o + n then f (d.count j) else d.count j)

/-- A command completes (R422, R419): its own entry is gone and no other, its reply is the next of its ring, with SEQ, STATUS, OPCODE, ring number, DETAIL and
the PHASE of that reply number; on an open ring in host memory whose port may issue it goes out at once. -/
def Obligations.CompletionReplies : Prop :=
  ∀ (d : Dev) (c : Cmd) (st x : Nat), (d.ring (ringG c.h)).opn = true → d.memOk = true →
    let r := d.ring (ringG c.h)
    let e := d.finish c st x
    let bs := toLe 4 c.h.seq.toNat ++ toLe 2 st ++ toLe 1 c.op.code ++ toLe 1 (1 - r.replies.toNat / 2 ^ r.n % 2 + 2 * c.h.ringNo) ++ toLe 8 x
    e.cmds = d.cmds.filter (fun y => y.id != c.id) ∧ (e.ring (ringG c.h)).replies = r.replies + 1
      ∧ (r.loc = false → (d.port c.h.port).bme = true → (d.port c.h.port).d3hot = false → e.out = d.out ++ [.reply c.h.port c.h.ringNo bs])
      ∧ (r.loc = true → Mem.bytes 0 e.mem (r.sbase + 16 * (r.replies.toNat % 2 ^ r.n)) 16 = bs)
      ∧ (wantSig c.h = true → e.count c.h.ssync = d.count c.h.ssync + 1) ∧ (wantSig c.h = false → e.sync = d.sync)

/-- RING_OPEN and RING_CLOSE (R416, R427): the lowest closed ring of the port opens with the parameters, empty, and its number is the reply's DETAIL; a ring
whose commands have all completed and whose tail equals its fetch count closes. COMPLETES: RING_OPEN, RING_CLOSE.

Doorbells (R418, R419, R443): a tail at most the ring's size beyond the fetch count makes its packets visible, a head within the replies written reports
them consumed, and both raise the Studio's source of the port; a write to a closed ring's page, or beyond those bounds, is ignored and counted (for the
head the bound is the model's choice, log 39). COMPLETES: DB_CMD_TAIL, DB_STS_HEAD. -/
def Obligations.RingResults : Prop :=
  (
  ∀ (s : State) (h : CmdHdr) (o : RingOpenP) (r : Nat),
    let b := s.dev.begun (submOf h (.ringOpen o)) (.ringOpen o)
    let fresh : Ring := { opn := true, stream := o.stream, prio := o.prio, n := o.n, loc := o.loc, cbase := o.cbase.toNat, sbase := o.sbase.toNat }
    (Lone s.dev h (.ringOpen o) (.ringOpen o) → (s.dev.freeRings h.port).head? = some r →
        Comes (.ringOpen h o) s ((b.setRing (32 * h.port + r) fresh).finish (s.dev.cmdOf h (.ringOpen o)) 0 r))
      ∧ (Lone s.dev h (.ringClose r) (.ringClose r) → Comes (.ringClose h r) s
          (let b := s.dev.begun (submOf h (.ringClose r)) (.ringClose r)
           b.setRing (32 * h.port + r) { b.ring (32 * h.port + r) with closing := true }))
      ∧ (Lone s.dev h (.ringClose r) (.ringClose r) → (s.dev.ring (32 * h.port + r)).tail = (s.dev.ring (32 * h.port + r)).fetched →
          Does (.ringClose h r) s fun d => (d.ring (32 * h.port + r)).opn = false ∧ d.cmds = []))
  ∧ (
  ∀ (s : State) (p r : Nat) (v : Word), ringOk p r = true → s.dev.bellsOn p = true →
    let g := 32 * p + r
    let x := s.dev.ring g
    (x.opn = true → (v - x.fetched).toNat ≤ 2 ^ x.n → Comes (.dbCmdTail p r v) s ((s.dev.setRing g { x with tail := v }).raise (18 + p)))
      ∧ (x.opn = false ∨ 2 ^ x.n < (v - x.fetched).toNat → Comes (.dbCmdTail p r v) s (s.dev.bump (rHifDbIgnored p) 1))
      ∧ (x.opn = true → (v - x.consumed).toNat ≤ (x.replies - x.consumed).toNat →
          Comes (.dbStsHead p r v) s ((s.dev.setRing g { x with consumed := v }).raise (18 + p)))
      ∧ (x.opn = false ∨ (x.replies - x.consumed).toNat < (v - x.consumed).toNat → Comes (.dbStsHead p r v) s (s.dev.bump (rHifDbIgnored p) 1)))

/-- COMMAND_FETCH and COMMAND_DISPATCH (R419 to R424): a command whose packets lie below the tail is fetched and judged by the order of Table 15.3: one that a
header check rejects is counted and answered, with its packets consumed; one that passes every check joins the accepted commands; a ring that lies in
device memory is read there. The ring that R421 chooses has its head dispatched, which then has its effect; with nothing to fetch or to dispatch, nothing
happens. COMPLETES: COMMAND_FETCH, COMMAND_DISPATCH. -/
def Obligations.FetchAndDispatch : Prop :=
  ∀ (s : State) (port r : Nat) (bs : List Byte) (us : List Upset), ringOk port r = true →
    let d := s.dev.withCodes us
    let g := 32 * port + r
    let x := d.ring g
    let p := parsePacket port r bs
    let n := packets (field bs 8 1)
    (d.mayFetch g = false ∨ x.waiting = 0 → Comes (.commandFetch port r bs us) s d)
      ∧ (d.mayFetch g = true → 0 < x.waiting → x.loc = false →
        (x.waiting < n → Comes (.commandFetch port r bs us) s d)
          ∧ (n ≤ x.waiting → ∀ st det, headBad x p = some (st, det) →
              Comes (.commandFetch port r bs us) s (((d.took g n).bump (rHifCmdRejects port) 1).reply p.h p.opcode st det))
          ∧ (n ≤ x.waiting → ∀ op d1, d.cmdCheck p = (d1, .ok op) → Comes (.commandFetch port r bs us) s
              (({ d1.took g n with
                 cmds := d1.cmds ++ [(⟨d1.cmdSeq, p.h, op, x.prio, false, false, [], [], 0, 0⟩ : Cmd)], cmdSeq := d1.cmdSeq + 1 } : Dev).armHead g)))
      ∧ (d.mayFetch g = true → 0 < x.waiting → x.loc = true → ∀ b d1 c d2, Dev.ringBytes x 1 0 d = (d1, some b) → packets (field b 8 1) ≤ x.waiting →
          Dev.ringBytes x (packets (field b 8 1)) 0 d1 = (d2, some c) → Comes (.commandFetch port r bs us) s (Dev.fetch (parsePacket port r c) d2))
      ∧ (∀ q, d.studio = true → d.choice = some q → q % 64 = g → Comes (.commandDispatch port r us) s (d.dispatchHead q))
      ∧ (d.studio = false ∨ d.choice = none → Comes (.commandDispatch port r us) s d)
      ∧ (∀ c, d.calm = true → d.studio = true → d.choice = some g → d.headOf g = some c → c.op = .nop →
          Does (.commandDispatch port r us) s fun e => ∀ y ∈ e.cmds, y.id ≠ c.id)

/-- LAUNCH and LAUNCH_TILE_START (R428): every tile of the range that is free starts: at ENTRY, with its place in SQ1, ARG in SQ2 and its mode, where
the program is already in the store (IMGBLK 0); a tile that is not free starts when it becomes so; the command completes with its last tile. COPY joins
the queue of its die (R429). COMPLETES: LAUNCH, LAUNCH_TILE_START, COPY. -/
def Obligations.LaunchResults : Prop :=
  ∀ (s : State) (h : CmdHdr) (l : LaunchP) (t die : Nat) (rec_ : List Byte) (c : Cmd) (us : List Upset),
    let e := s.dev.withCodes us
    let begins (d : Dev) (id : Nat) := (d.tile t).ctx.run = .running ∧ (d.tile t).ctx.pc = l.entry ∧ (d.tile t).ctx.getSq 1 = BitVec.ofNat 64 (t - l.tile0)
      ∧ (d.tile t).ctx.getSq 2 = l.arg ∧ (d.tile t).ctx.cmd = some id ∧ (d.tile t).ctx.loops = [] ∧ (d.tile t).ctx.store = (s.dev.tile t).ctx.store
    (Lone e h (.launch l) (.launch l) → Comes (.launch h l us) s
        (((e.begun (submOf h (.launch l)) (.launch l)).claimAll (e.cmdOf h (.launch l)) l.tile0 l.ntiles).armHead (ringG h)))
      ∧ (Lone e h (.launch l) (.launch l) → l.imgblk = 0 → l.tile0 ≤ t → t < l.tile0 + l.ntiles →
        (∀ u, l.tile0 ≤ u → u < l.tile0 + l.ntiles → s.dev.tileFree u (s.dev.ring (ringG h)).prio = true) →
        Does (.launch h l us) s fun d => begins d s.dev.cmdSeq)
      ∧ (tileOk t = true → s.dev.waitingFor t = none → Comes (.launchTileStart t us) s e)
      ∧ (tileOk t = true → s.dev.waitingFor t = some c → s.dev.tileFree t c.prio = true → s.dev.parkedAs t c.h.stream = false → s.dev.alive = true →
          Comes (.launchTileStart t us) s (e.startOn t c) ∧ (c.op = .launch l → l.imgblk = 0 → Does (.launchTileStart t us) s fun d => begins d c.id))
      ∧ (Lone s.dev h (.copy die rec_) (.copy die rec_) → Comes (.copy h die rec_) s
          ((s.dev.begun (submOf h (.copy die rec_)) (.copy die rec_)).dmaPush die
            (dmaRecOf rec_ (.cmd s.dev.cmdSeq) h.stream (s.dev.ring (ringG h)).prio s.dev.dmaSeq)))

/-- WINDOW_OPEN, WINDOW_CLOSE and TLB_INVAL (R188, R278, R279, Table 9.11): the lowest free Palette entry becomes valid with its SEQ one higher and the
parameters; an entry that no exchange uses is closed at once, one in use keeps the command waiting; no cache holds a translation of the purged range. COMPLETES: WINDOW_OPEN, WINDOW_CLOSE, TLB_INVAL.

FAULT_RESOLVE and ABORT (R198, R276): a FAIL of a pending record is job-fatal; a resolution of an id that no record has changes nothing but the reply; a
RETRY drops the record and its agents replay. ABORT floods the device's epoch with cause 3. COMPLETES: FAULT_RESOLVE, ABORT. -/
def Obligations.WindowResults : Prop :=
  (
  ∀ (s : State) (h : CmdHdr) (w : WindowP) (i : Nat) (va len : BitVec 64),
    (Lone s.dev h (.windowOpen w) (.windowOpen w) → s.dev.freeWindow = some i → Does (.windowOpen h w) s fun d =>
        d.fld (rPalEntryPeer i) 15 15 = 1 ∧ d.fld (rPalEntryPeer i) 13 0 = w.peer % 2 ^ 14 ∧ d.fld (rPalEntryPeer i) 18 16 = w.perm.toNat
          ∧ d.fld (rPalEntryPeer i) 29 24 = w.rwin % 64 ∧ d.fld (rPalEntrySeq i) 15 0 = (s.dev.fld (rPalEntrySeq i) 15 0 + 1) % 65536
          ∧ d.fld (rPalEntrySeq i) 31 16 = w.rseq.toNat ∧ d.rd64 (rPalEntryRbaseLo i) = w.rbase.toNat ∧ d.rd64 (rPalEntryLbaseLo i) = w.lbase.toNat
          ∧ d.rd (rPalEntryRlen i) = BitVec.ofNat 32 w.rlen ∧ d.rd (rPalEntryLlen i) = BitVec.ofNat 32 w.llen ∧ d.cmds = [])
      ∧ (Lone s.dev h (.windowClose i) (.windowClose i) → i < 64 →
          (s.dev.winBusy i = false → Does (.windowClose h i) s fun d => d.fld (rPalEntryPeer i) 15 15 = 0 ∧ d.cmds = [])
            ∧ (s.dev.winBusy i = true → Does (.windowClose h i) s fun d =>
                d.fld (rPalEntryPeer i) 15 15 = s.dev.fld (rPalEntryPeer i) 15 15 ∧ d.cmds.map (·.id) = [s.dev.cmdSeq]))
      ∧ (Lone s.dev h (.tlbInval va len) (.tlbInval va len) → Does (.tlbInval h va len) s fun d => d.cmds = []
          ∧ (∀ p ∈ d.tlbT, ∀ e ∈ p.2, e.hits va.toNat len.toNat = false) ∧ ∀ p ∈ d.tlbD, ∀ e ∈ p.2, e.hits va.toNat len.toNat = false))
  ∧ (
  ∀ (s : State) (h : CmdHdr) (id : Nat) (fail : Bool),
    let op := CmdOp.faultResolve id fail
    let b := s.dev.begun (submOf h op) op
    let c := s.dev.cmdOf h op
    (Lone s.dev h op op → s.dev.faults.any (fun f => f.id == id) = false →
        Comes (.faultResolve h id fail) s (({ b with cmds := [] } : Dev).finish c 0 0))
      ∧ (Lone s.dev h op op → s.dev.faults.any (fun f => f.id == id) = true → fail = true →
          Does (.faultResolve h id fail) s fun d => d.job = 2 ∧ d.faults.any (fun f => f.id == id) = false)
      ∧ (Lone s.dev h op op → s.dev.faults.any (fun f => f.id == id) = true → fail = false →
          Comes (.faultResolve h id fail) s ((({ b with cmds := [] } : Dev).resumeAll id).finish c 0 0))
      ∧ (Lone s.dev h .abort .abort → Comes (.abort h) s
          (((s.dev.begun (submOf h .abort) .abort).abortFlood 3).finish (s.dev.cmdOf h .abort) 0 0)))

/-- JOB_START (R431): from job state NONE, STU_JOB holds the epoch and RUNNING, the device's epoch is it, and the generation is 0. COMPLETES: JOB_START.

JOB_RESET (R431, R435, Table 18.5): the job state is NONE, every sync count is 0 but for the command's own signal, no tile runs or holds a saved context,
no fault, exchange, route or DMA record is left, and the Palette is closed. COMPLETES: JOB_RESET.

TILE_RESET (R432, R106, R89): every tile of the range is idle with no saved context, its vector registers zero and its accumulator tiles empty; the
tiles outside it are as before. COMPLETES: TILE_RESET. -/
def Obligations.JobResults : Prop :=
  (
  ∀ (s : State) (h : CmdHdr) (ep : BitVec 16), Lone s.dev h (.jobStart ep) (.jobStart ep) → Does (.jobStart h ep) s fun d =>
    d.job = 1 ∧ d.epoch = ep.toNat ∧ d.fld rStuJob 31 16 = ep.toNat ∧ d.rd rXchGen = 0 ∧ d.cmds = [])
  ∧ (
  ∀ (s : State) (h : CmdHdr) (l : List HwUnit), Lone s.dev h (.jobReset (some l)) (.jobReset (some l)) →
    let op := CmdOp.jobReset (some l)
    let e := (s.dev.begun (submOf h op) op).jobReset (some l)
    Comes (.jobReset h l) s (e.finish (s.dev.cmdOf h op) 0 (e.quar.length % 65536)) ∧ (wantSig h = false → s.dev.quar = [] →
    Does (.jobReset h l) s fun d => d.job = 0 ∧ (∀ o, d.count o = 0) ∧ (∀ t, (d.tile t).ctx.run = .idle ∧ (d.tile t).slots = [] ∧ (d.tile t).busy = .none)
      ∧ d.inbox = [] ∧ d.sorts = [] ∧ d.faults = [] ∧ d.parks = [] ∧ d.xops = [] ∧ d.routes = [] ∧ d.dma = [] ∧ d.waiters = [] ∧ (∀ i, i < 64 → d.fld (rPalEntryPeer i) 15 15 = 0)
      ∧ d.rd rXchGen = 0 ∧ d.mem = (if (s.dev.ring (ringG h)).loc then d.mem else s.dev.mem)))
  ∧ (
  ∀ (s : State) (h : CmdHdr) (t0 n t : Nat), Lone s.dev h (.tileReset t0 n) (.tileReset t0 n) → (∀ u ∈ s.dev.upds, u.cmd ≠ s.dev.cmdSeq) → Does (.tileReset h t0 n) s fun d =>
    (t0 ≤ t → t < t0 + n → (d.tile t).ctx.run = .idle ∧ (d.tile t).slots = [] ∧ (∀ r, d.getV t r = List.replicate 64 0)
        ∧ (∀ c a, (d.tile t).ctx.getAcc c a = {}) ∧ (d.tile t).cq = [] ∧ (d.tile t).passes = [] ∧ (d.tile t).ctx.store = (s.dev.tile t).ctx.store)
      ∧ (t < t0 ∨ t0 + n ≤ t → d.tile t = s.dev.tile t))

/-- TAKEOVER (R456 to R458): granted after the heartbeat limit (mode 0), or on RELEASE (mode 1), it moves ownership to the command's port, restarts the
heartbeat's age, clears RELEASE, counts and raises sources 6 and 7; refused, it changes no owner. COMPLETES: TAKEOVER.

QUERY, REG_READ and REG_WRITE (Table 15.5, R430): DETAIL is the sync count, the job state with the epoch, or the free Palette entries; a register read
returns what the path sees, a write stores by the access codes; all three complete with ST_OK. COMPLETES: QUERY, REG_READ, REG_WRITE. -/
def Obligations.ControlCommandResults : Prop :=
  (
  ∀ (s : State) (h : CmdHdr) (mode : Nat), Lone s.dev h (.takeover mode) (.takeover mode) →
    let grant := h.port ≠ s.dev.owner ∧ ((mode = 0 ∧ max (s.dev.rd rHifHbLimit).toNat 1000 ≤ (s.dev.rd rHifHbAge).toNat)
      ∨ (mode = 1 ∧ s.dev.fld rHifOwner 8 8 = 1))
    (grant → s.dev.faults = [] → Does (.takeover h mode) s fun d => d.owner = h.port ∧ d.rd rHifHbAge = 0 ∧ d.fld rHifOwner 8 8 = 0
        ∧ d.rd rHifTakeovers = satAdd (s.dev.rd rHifTakeovers) 1 ∧ d.pendBit 6 = true ∧ d.pendBit 7 = true)
      ∧ (¬grant → Does (.takeover h mode) s fun d => d.owner = s.dev.owner ∧ d.rd rHifTakeovers = s.dev.rd rHifTakeovers))
  ∧ (
  ∀ (s : State) (h : CmdHdr) (a : Nat) (va : BitVec 64) (v : Word),
    let b (op : CmdOp) := s.dev.begun (submOf h op) op
    let c (op : CmdOp) := s.dev.cmdOf h op
    let off := va.toNat - 0x30000000000
    let r := (b (.regRead va)).regGet (.ring h.port h.ringNo) off 0
    (Lone s.dev h (.query 0 a) (.query 0 a) → Comes (.query h 0 a) s ((b (.query 0 a)).finish (c (.query 0 a)) 0 (s.dev.count a).toNat))
      ∧ (Lone s.dev h (.query 1 a) (.query 1 a) →
          Comes (.query h 1 a) s ((b (.query 1 a)).finish (c (.query 1 a)) 0 (s.dev.job + s.dev.epoch * 2 ^ 16)))
      ∧ (∀ k, Lone s.dev h (.query k a) (.query k a) → Comes (.query h k a) s ((b (.query k a)).finish (c (.query k a)) 0 ((b (.query k a)).queryOf k a)))
      ∧ (Lone s.dev h (.query 3 a) (.query 3 a) → Comes (.query h 3 a) s ((b (.query 3 a)).finish (c (.query 3 a)) 0 (64 - s.dev.palCount.toNat)))
      ∧ (Lone s.dev h (.regRead va) (.regRead va) → Comes (.regRead h va) s (r.2.finish (c (.regRead va)) 0 r.1.toNat))
      ∧ (Lone s.dev h (.regWrite va v) (.regWrite va v) → canonOff off ≠ rBootCtl →
          Comes (.regWrite h va v) s ((Dev.regPut (.ring h.port h.ringNo) off v (b (.regWrite va v))).finish (c (.regWrite va v)) 0 0))
      ∧ (Lone s.dev h (.regWrite va v) (.regWrite va v) → Comes (.regWrite h va v) s ((b (.regWrite va v)).regWriteCmd (c (.regWrite va v)) va.toNat v)))

/-! ### Registers, events, host ports, the module -/

/-- Register accesses (R9 to R15, R430, R454, R526). A write by a path without the right is discarded and counted; one with it stores RW bits, clears W1C
bits where it is 1, but for those that an event sets in the same cycle, and keeps the rest, in a register whose write does nothing more. A read of an RC
register returns it and leaves what events of the same cycle add, for a path whose reads clear. A read of a _LO half keeps a snapshot of its _HI half for the
path; a write of a _HI half commits the _LO half that waits. A host's misaligned access, and one of another width, is counted, reads 0 and writes nothing.
A path that is not there reaches nothing. COMPLETES: REGISTER_WRITE, RC_REGISTER_READ, NARROW_ACCESS, LO_HALF_READ, HI_HALF_WRITE.

Registers whose write acts (R442, R455, R460, R530): the EN bit of a fabric port, of an admin ring with the parameters of its registers, the heartbeat,
which restarts its age when its value changes, and HIF_ABORT, which floods the device's epoch (R276). An enabled port trains, or stays DOWN where its half is
quarantined (R381). COMPLETES: PORT_EN_WRITE, HIF_ADMIN_CTL_WRITE, HEARTBEAT_WRITE, HIF_ABORT. -/
def Obligations.RegisterResults : Prop :=
  (
  ∀ (s : State) (path : Path) (off w ev port : Nat) (v evs lo : Word) (r rl : RegRow) (bar4 : Bool),
    let d := s.dev
    let may := d.mayWrite path w = true
    (d.pathOk path = false → Comes (.registerWrite path off v evs) s d ∧ Comes (.rcRegisterRead path off ev) s d ∧ Comes (.loHalfRead path off) s d
        ∧ Comes (.hiHalfWrite path off v) s d)
      ∧ (d.pathOk path = true → hostOdd path off = true → Comes (.registerWrite path off v evs) s (d.bump rHifNarrow 1)
          ∧ Comes (.rcRegisterRead path off ev) s ((d.bump rHifNarrow 1).emit (.regData path 0)))
      ∧ (d.pathOk path = true → hostOdd path off = false → canonOff (winOff path off) = w →
        (¬may → Comes (.registerWrite path off v 0) s (d.bump rHifStbyDrops 1))
          ∧ (may → Comes (.registerWrite path off v 0) s (Dev.regPut path off v d))
          ∧ Comes (.rcRegisterRead path off ev) s ((d.regGet path off ev).2.emit (.regData path (d.regGet path off ev).1))
          ∧ (pairAt path off = 1 → Comes (.loHalfRead path off) s ((d.regGet path off 0).2.emit (.regData path (d.regGet path off 0).1)))
          ∧ (pairAt path off ≠ 1 → Comes (.loHalfRead path off) s d) ∧ (pairAt path off ≠ 2 → Comes (.hiHalfWrite path off v) s d)
          ∧ (pairAt path off = 2 → ¬may → Comes (.hiHalfWrite path off v) s (d.bump rHifStbyDrops 1))
          ∧ (pairAt path off = 2 → may → Comes (.hiHalfWrite path off v) s (Dev.regPut path off v d)))
      ∧ (d.pathOk path = true → hostOdd path off = false → canonOff (winOff path off) = w → regRow w = some r → d.calm = true →
        (may → r.pair = 0 → d.storesOnly w v = true → Does (.registerWrite path off v evs) s fun e =>
            (∀ i, i < 32 → (e.rd w).getLsbD i =
                if r.rw.testBit i then v.getLsbD i
                else (d.rd w).getLsbD i && !(r.w1c.testBit i && v.getLsbD i) || (r.w1c.testBit i && v.getLsbD i && evs.getLsbD i))
              ∧ ∀ x, x ≠ w → e.rd x = d.rd x)
          ∧ (r.pair = 0 → w ≠ rEvcClaim → d.pageThere w = true →
              (r.rc = 0 → Comes (.rcRegisterRead path off ev) s (d.emit (.regData path (d.seen path off))))
                ∧ (r.rc ≠ 0 → Does (.rcRegisterRead path off ev) s fun e =>
                    Out.regData path (d.seen path off) ∈ e.out
                      ∧ e.rd w = (if ev = 0 then id else (satAdd · ev)) (if d.pathClears path then d.rd w &&& ~~~(BitVec.ofNat 32 r.rc) else d.rd w)
                      ∧ ∀ x, x ≠ w → e.rd x = d.rd x))
          ∧ (d.pageThere w = false → Comes (.rcRegisterRead path off ev) s (d.emit (.regData path 0)))
          ∧ (r.pair = 1 → d.pageThere w = true → Does (.loHalfRead path off) s fun e =>
              Out.regData path (d.seen path off) ∈ e.out ∧ e.snap path (w + 4) = some (d.view (w + 4)) ∧ e.regs = d.regs)
          ∧ (r.pair = 2 → may → 4 ≤ w → regRow (w - 4) = some rl → d.storesOnly w v = true → d.storesOnly (w - 4) lo = true →
              d.staged path (w - 4) = some lo → Does (.hiHalfWrite path off v) s fun e =>
                e.rd w = r.store (d.rd w) v ∧ e.rd (w - 4) = rl.store (d.rd (w - 4)) lo ∧ e.staged path (w - 4) = none))
      ∧ (hostOk port = true → d.barsOn port = true → off < (if bar4 then 0x20000 else 0x10000) →
          Comes (.narrowAccess port bar4 off true) s (d.bump rHifNarrow 1)
            ∧ Comes (.narrowAccess port bar4 off false) s ((d.bump rHifNarrow 1).emit (.regData (.bar0 port) 0))))
  ∧ (
  ∀ (s : State) (path : Path) (p port : Nat) (v : Word),
    let d := s.dev
    let keep : Word := v &&& 0x803F039F#32
    let set := (d.wr (rHifAdminCtl p) keep)
    (∀ en, Comes (.portEnWrite (.bar0 port) p en) s d)
      ∧ (d.pathOk path = false → (p < 32 → ∀ en, Comes (.portEnWrite path p en) s d) ∧ (p < 2 → Comes (.hifAdminCtlWrite path p v) s d))
      ∧ (d.pathOk path = true → (∀ q, path ≠ .bar0 q) → p < 32 →
          (d.mayWrite path (rXchPortCtl p) = false → ∀ en, Comes (.portEnWrite path p en) s d)
            ∧ (d.mayWrite path (rXchPortCtl p) = true →
              (∀ en, Comes (.portEnWrite path p en) s (d.portEn p en))
                ∧ (∀ en, d.fld (rXchPortCtl p) 0 0 = (if en then 1 else 0) → Comes (.portEnWrite path p en) s d)
                ∧ (d.calm = true → d.fld (rXchPortCtl p) 0 0 = 0 → Does (.portEnWrite path p true) s fun e =>
                    e.fld (rXchPortCtl p) 0 0 = 1 ∧ e.fld (rXchPortStatus p) 2 0 = if d.isQuar ⟨.xchHalf, p / 16⟩ then 4 else 1)
                ∧ (d.calm = true → d.fld (rXchPortCtl p) 0 0 = 1 → Does (.portEnWrite path p false) s fun e =>
                    e.fld (rXchPortCtl p) 0 0 = 0 ∧ e.fld (rXchPortStatus p) 2 0 = 0)))
      ∧ (d.pathOk path = true → p < 2 →
          (d.mayWrite path (rHifAdminCtl p) = false → Comes (.hifAdminCtlWrite path p v) s (d.bump rHifStbyDrops 1))
            ∧ (d.mayWrite path (rHifAdminCtl p) = true →
              (d.fld (rHifAdminCtl p) 31 31 = 1 → bitsOf v 31 31 = 1 → Comes (.hifAdminCtlWrite path p v) s d)
                ∧ (d.fld (rHifAdminCtl p) 31 31 = 1 → bitsOf v 31 31 = 0 → Comes (.hifAdminCtlWrite path p v) s (set.ringShut (32 * p))
                    ∧ Does (.hifAdminCtlWrite path p v) s fun e => (e.ring (32 * p)).opn = false)
                ∧ (d.fld (rHifAdminCtl p) 31 31 = 0 → bitsOf v 31 31 = 0 → Comes (.hifAdminCtlWrite path p v) s set)
                ∧ (d.fld (rHifAdminCtl p) 31 31 = 0 → bitsOf v 31 31 = 1 → Comes (.hifAdminCtlWrite path p v) s
                    ((set.wr (rHifAdminHead p) 0).setRing (32 * p)
                      { opn := true, stream := bitsOf v 21 16, prio := bitsOf v 9 8, n := min (max (bitsOf v 4 0) 4) 16, loc := bitsOf v 7 7 == 1
                        cbase := d.rd64 (rHifAdminCbaseLo p), sbase := d.rd64 (rHifAdminSbaseLo p) }))))
      ∧ (hostOk port = true → d.barsOn port = false → Comes (.heartbeatWrite port v) s d ∧ Comes (.hifAbort port) s d)
      ∧ (hostOk port = true → d.barsOn port = true →
          (port = d.owner → d.rd rHifHeartbeat ≠ v → Comes (.heartbeatWrite port v) s ((d.wr rHifHeartbeat v).wr rHifHbAge 0))
            ∧ (port = d.owner → d.rd rHifHeartbeat = v → Comes (.heartbeatWrite port v) s d)
            ∧ (port ≠ d.owner → Comes (.heartbeatWrite port v) s (d.bump rHifStbyDrops 1))
            ∧ Comes (.hifAbort port) s (d.abortFlood 2)
            ∧ Does (.hifAbort port) s fun e => inSet e.aborts d.epoch = true))

/-- A read of EVC_CLAIM returns, with VALID set, the lowest-numbered pending source that names the reading target; it clears the source's pending bit and
records it in service, in place of one already there; with no such source it returns VALID 0 and changes nothing; the hold bit plays no part (R470). Events of the
same cycle are kept (R475). COMPLETES: EVC_CLAIM. -/
def Obligations.EventClaims : Prop :=
  ∀ (s : State) (tgt : Target) (ev : List Nat), targetOk tgt = true → s.dev.pathOk (targetPath tgt) = true → s.dev.calm = true →
    let d := s.dev
    let k := targetNum tgt
    (∀ n, d.lowest k = some n → Does (.evcClaim tgt ev) s fun e =>
        Out.regData (targetPath tgt) (BitVec.ofNat 32 (256 + n)) ∈ e.out ∧ (e.evcT k).insv = some n ∧ (e.evcT k).hold = (d.evcT k).hold
          ∧ ∀ m, m < 256 → e.pendBit m = (decide (m ∈ ev) || (d.pendBit m && decide (m ≠ n))))
      ∧ (d.lowest k = none → Does (.evcClaim tgt []) s fun e =>
          Out.regData (targetPath tgt) 0 ∈ e.out ∧ e.regs = d.regs ∧ ∀ j, (e.evcT j).insv = (d.evcT j).insv ∧ (e.evcT j).hold = (d.evcT j).hold)
      ∧ ∀ n, d.lowest k = some n ↔ (n < 256 ∧ d.pendBit n = true ∧ d.tgt n = k ∧ ∀ m, m < n → ¬(d.pendBit m = true ∧ d.tgt m = k))

/-- Setting a target's hold bit holds its request line low and nothing else: pending bits go on being set, and a claim finds what it would have found.
Clearing it raises the line when no source is in service and one that names the target is pending (R472). COMPLETES: EVC_HOLD. -/
def Obligations.EventHolds : Prop :=
  ∀ (s : State) (tgt : Target), targetOk tgt = true → s.dev.pathOk (targetPath tgt) = true → s.dev.calm = true →
    let d := s.dev
    let k := targetNum tgt
    (Does (.evcHold tgt true) s fun e =>
        (e.evcT k).hold = true ∧ (e.evcT k).line = false ∧ (e.evcT k).insv = (d.evcT k).insv ∧ e.regs = d.regs
          ∧ (∀ j, j ≠ k → (e.evcT j).hold = (d.evcT j).hold ∧ (e.evcT j).insv = (d.evcT j).insv) ∧ (e.claim k).1 = (d.claim k).1
          ∧ ∀ n, n < 256 → (e.raise n).pendBit n = true)
      ∧ Does (.evcHold tgt false) s fun e =>
          (e.evcT k).hold = false ∧ ((e.evcT k).line = true ↔ (d.evcT k).insv = none ∧ (d.lowest k).isSome = true) ∧ e.regs = d.regs

/-- A write of 1 to a bit of EVC_SETi sets the pending bit of that source, a write of 1 to a bit of EVC_PENDi clears it, and neither changes another
register (R473). COMPLETES: EVC_SET, EVC_PEND_CLEAR. -/
def Obligations.EventSets : Prop :=
  ∀ (s : State) (tgt : Target) (i : Nat) (v : Word), targetOk tgt = true → s.dev.pathOk (targetPath tgt) = true → i < 8 → s.dev.calm = true →
    s.dev.mayWrite (targetPath tgt) (rEvcPend 0) = true →
    let d := s.dev
    (Does (.evcSet tgt i v) s fun e =>
        (∀ b, b < 32 → e.pendBit (32 * i + b) = (v.getLsbD b || d.pendBit (32 * i + b))) ∧ ∀ off, off ≠ rEvcPend i → e.rd off = d.rd off)
      ∧ Does (.evcPendClear tgt i v []) s fun e =>
        (∀ b, b < 32 → e.pendBit (32 * i + b) = (d.pendBit (32 * i + b) && !v.getLsbD b)) ∧ ∀ off, off ≠ rEvcPend i → e.rd off = d.rd off

/-- The rest of the event controller (R467, R471, R474, R475): DONE ends the service, and a host whose line rises again gets a message; a source's target is
as written, but for sources 6 to 9; the standby's writes are discarded and counted; an event of the same cycle as a clear is kept. COMPLETES: EVC_COMPLETE, EVC_TGT_WRITE. -/
def Obligations.EventServices : Prop :=
  ∀ (s : State) (tgt : Target) (i src : Nat) (dst : BitVec 2) (v : Word) (ev : List Nat), targetOk tgt = true →
    s.dev.pathOk (targetPath tgt) = true → s.dev.calm = true → i < 8 → src < 256 →
    let d := s.dev
    let k := targetNum tgt
    let may := d.mayWrite (targetPath tgt) (rEvcPend 0) = true
    (Does (.evcComplete tgt) s fun e =>
        (e.evcT k).insv = none ∧ ((e.evcT k).line = true ↔ (d.evcT k).hold = false ∧ (d.lowest k).isSome = true)
          ∧ ∀ p, tgt = .host p → (d.evcT k).line = false → (d.evcT k).hold = false → (d.lowest k).isSome = true → (d.port p).masked = false →
              d.mayIssue p = true → Out.msix p ∈ e.out)
      ∧ (may → 6 ≤ src → src ≤ 9 → Comes (.evcTgtWrite tgt src dst) s d)
      ∧ (may → (src < 6 ∨ 9 < src) → Does (.evcTgtWrite tgt src dst) s fun e =>
          e.tgt src = dst.toNat ∧ (∀ m, m < 256 → m ≠ src → e.tgt m = d.tgt m) ∧ ∀ m, e.pendBit m = d.pendBit m)
      ∧ (¬may → Comes (.evcTgtWrite tgt src dst) s (d.bump rHifStbyDrops 1) ∧ Comes (.evcSet tgt i v) s (d.bump rHifStbyDrops 1)
          ∧ Comes (.evcPendClear tgt i v []) s (d.bump rHifStbyDrops 1))
      ∧ (may → Does (.evcPendClear tgt i v ev) s fun e => ∀ m, m ∈ ev → m < 256 → e.pendBit m = true)

/-- BAR2 (R447, R448, R454, R481, R496): a read that lies in memory whose glaze holds returns its bytes, from either port, and one whose glaze fails has one
retry; a write by the owner stores its bytes and no others; the standby's write is discarded and counted, a poisoned one counted and reported; an address in
no window reads all ones, drops the write, and is counted; so is what comes in the Dormant state; after a failed start a read is all ones. COMPLETES:
BAR2_READ, BAR2_WRITE.

MSI-X, Bus Master Enable and PERST# (R450 to R452, R481): a message goes when a masked vector is unmasked with its line high; what was held goes when the
port may issue again; an asserted PERST# closes every ring of the port, a released one trains its link; a configuration request is answered with Request Retry
Status until the start has ended; a failed ring fetch closes its ring and is reported. COMPLETES: MSIX_UNMASK, BUS_MASTER_ENABLE_CHANGE, PERST_ASSERT,
PERST_DEASSERT, CONFIGURATION_REQUEST, RING_FETCH_FAILED. -/
def Obligations.HostPortResults : Prop :=
  (
  ∀ (s : State) (port off len : Nat) (bs : List Byte) (u : Upset) (us : List Upset), hostOk port = true → s.dev.memOk = true →
    let d := s.dev
    let e := d.withCodes us
    let held (n : Nat) := ∀ pa ∈ d.bar2Pas port off n, bar2Tail pa = false ∧ bar2Hole pa = false
    let a := d.bar2Pa port off
    let live := d.dormant = false ∧ d.bootStage = 12
    (d.bar2In port off len = false → Comes (.bar2Read port off len u) s d)
      ∧ (d.bar2In port off len = true → d.bootStage = 15 → Comes (.bar2Read port off len u) s (d.bar2Ones port len))
      ∧ (d.bar2In port off len = true → d.bootStage = 12 → d.dormant = true →
          Comes (.bar2Read port off len u) s ((d.bump rBootDormDrops 1).bar2Ones port len))
      ∧ (d.bar2In port off len = true → live → held len → (∀ pa ∈ d.bar2Pas port off len, d.glazeBad pa .clean = false) →
        Comes (.bar2Read port off len .clean) s ((d.readCounts a .clean).emit (.bar2Data port (Mem.bytes 0 d.mem a len))))
      ∧ (d.bar2In port off len = true → live → held len → d.noGlaze a = false →
          Comes (.bar2Read port off len .glaze) s ((d.readCounts a .glaze).retry ⟨.bar2 port off len, 5, ⟨.hostPort, port⟩, a, 0⟩))
      ∧ (d.bar2In port off len = true → live → (∀ pa ∈ d.bar2Pas port off len, bar2Tail pa = false) → (∃ pa ∈ d.bar2Pas port off len, bar2Hole pa = true) →
          Comes (.bar2Read port off len u) s ((d.bump (rHifBar2Hole port) 1).emit (.bar2Data port (List.replicate len 0xFF))))
      ∧ (d.bar2In port off bs.length = false ∨ d.bootStage = 15 → ∀ b, Comes (.bar2Write port off bs b us) s e)
      ∧ (d.bar2In port off bs.length = true → d.bootStage = 12 →
          (d.dormant = false → held bs.length → port = d.owner → Comes (.bar2Write port off bs false us) s
              (Dev.writeCut ((d.bar2Pas port off bs.length).length + 1) e a bs))
            ∧ (d.dormant = false → held bs.length → port = d.owner → d.calm = true → Does (.bar2Write port off bs false us) s fun z =>
              Mem.bytes 0 z.mem a bs.length = bs ∧ ∀ x, (x < a ∨ a + bs.length ≤ x) → Mem.get 0 z.mem x = Mem.get 0 d.mem x)
            ∧ (d.dormant = false → port ≠ d.owner → Comes (.bar2Write port off bs false us) s (e.bump rHifStbyDrops 1))
            ∧ (d.dormant = true → Comes (.bar2Write port off bs false us) s (e.bump rBootDormDrops 1))
            ∧ Comes (.bar2Write port off bs true us) s ((e.bump (rHifBar2Poison port) 1).emit (.aer port 0))))
  ∧ (
  ∀ (s : State) (p r kind : Nat) (b d3 flit : Bool) (gen : BitVec 4) (width : BitVec 5), hostOk p = true →
    let d := s.dev
    let g := 32 * p + r
    let up := d.linkUp p = true ∧ (d.port p).perst = false
    Comes (.msixUnmask p) s (d.unmask p)
      ∧ (d.calm = true → Does (.msixUnmask p) s fun e => (e.port p).masked = false
        ∧ ((d.port p).masked = true → d.mayIssue p = true → (d.evcT (p + 1)).line = true → Out.msix p ∈ e.out ∧ (e.port p).pend = false))
      ∧ ((b && !d3 && d.linkUp p) = false → Comes (.busMasterEnableChange p b d3) s (d.setPort p { d.port p with bme := b, d3hot := d3 }))
      ∧ Comes (.busMasterEnableChange p b d3) s ((d.setPort p { d.port p with bme := b, d3hot := d3 }).release p)
      ∧ (d.calm = true → d.linkUp p = true → Does (.busMasterEnableChange p true false) s fun e =>
          (e.port p).held = [] ∧ ∀ w ∈ (d.port p).held, w.1 < 32 → (d.ring (32 * p + w.1)).opn = true → Out.reply p w.1 w.2 ∈ e.out)
      ∧ Comes (.perstAssert p) s (let x := iter 32 (fun i y => y.ringLost (32 * p + i)) d
          (x.setPort p { ({} : HostPort) with held := (x.port p).held }).wr (rHifLink p) 0)
      ∧ (d.cmds = [] → Does (.perstAssert p) s fun e => (∀ k, k < 32 → (e.ring (32 * p + k)).opn = false) ∧ (e.port p).perst = true
          ∧ (e.port p).bme = false ∧ e.linkUp p = false)
      ∧ (d.bootStage = 0 → Comes (.perstDeassert p gen width flit) s (d.setPort p { d.port p with perst := false }))
      ∧ (d.bootStage ≠ 0 → Comes (.perstDeassert p gen width flit) s
          (((d.setPort p { d.port p with perst := false }).wr (rHifLink p)
            (BitVec.ofNat 32 (gen.toNat + 16 * width.toNat + (if flit then 512 else 0) + 1024))).release p))
      ∧ (d.calm = true → d.bootStage ≠ 0 → Does (.perstDeassert p gen width flit) s fun e => (e.port p).perst = false ∧ e.linkUp p = true
          ∧ e.fld (rHifLink p) 3 0 = gen.toNat ∧ e.fld (rHifLink p) 8 4 = width.toNat ∧ e.fld (rHifLink p) 9 9 = (if flit then 1 else 0))
      ∧ (up → Comes (.configurationRequest p) s (d.emit (.config p (decide (d.bootStage ≠ 12 ∧ d.bootStage ≠ 15)))))
      ∧ (¬up → Comes (.configurationRequest p) s d)
      ∧ (r < 32 → kind < 3 → d.mayFetch g = true → (d.ring g).loc = false → 0 < (d.ring g).waiting →
          Comes (.ringFetchFailed p r kind) s ((d.ringLost g).emit (.aer p (2 + kind)))
            ∧ Does (.ringFetchFailed p r kind) s fun e => (e.ring g).opn = false)
      ∧ (r < 32 → kind < 3 → d.mayFetch g = false → Comes (.ringFetchFailed p r kind) s d))

/-- Attestation through the DOE mailbox (R461, R462, R491, R492, Table 16.6). Each data object raises source 20 or 21; while the Studio runs it is answered,
and the mailbox is empty again; signatures are the identity key's (R490). The layouts are those of SPDM 1.2 (the model's, log 40), nonces open values (log
12), digests and signatures the published functions (log 15). COMPLETES: GET_VERSION, GET_CAPABILITIES, NEGOTIATE_ALGORITHMS, GET_DIGESTS, GET_CERTIFICATE,
CHALLENGE, GET_MEASUREMENTS, UNSUPPORTED_SPDM_REQUEST, DOE_DISCOVERY, DOE_ABORT. -/
def Obligations.AttestationResults : Prop :=
  ∀ (s : State) (p : Nat), hostOk p = true → s.dev.barsOn p = true → (s.dev.port p).doe = none → s.dev.studio = true → s.dev.calm = true →
    let d := s.dev
    let chain := d.certChain
    let ok := d.idFail = false
    let served (i : Instr) (bs : List Byte) := Does i s fun e => Out.spdm p bs ∈ e.out ∧ (e.port p).doe = none ∧ e.pendBit (20 + p) = true
    served (.getVersion p) [0x10, 0x04, 0, 0, 0, 1, 0x00, 0x12]
      ∧ (∃ b : Byte, served (.getCapabilities p) ([0x12, 0x61, 0, 0, 0, b, 0, 0] ++ toLe 4 0x16 ++ toLe 4 4088 ++ toLe 4 4088))
      ∧ (Does (.negotiateAlgorithms p true true) s fun e => (e.port p).algs = true)
      ∧ (∀ a h, (a && h) = false → ∃ b : Byte, served (.negotiateAlgorithms p a h) [0x12, 0x7F, b, 0]
          ∧ Does (.negotiateAlgorithms p a h) s fun e => (e.port p).algs = (d.port p).algs)
      ∧ served (.getDigests p) ([0x12, 0x01, 0, 1] ++ Config.sm3 chain)
      ∧ (∀ off len, ok → off < chain.length → served (.getCertificate p 0 off len)
          ([0x12, 0x02, 0, 0] ++ toLe 2 (min (min len 4080) (chain.length - off)) ++ toLe 2 (chain.length - off - min (min len 4080) (chain.length - off))
            ++ (chain.drop off).take (min len 4080)))
      ∧ (∀ slot off len, ok → (slot ≠ 0 ∨ chain.length ≤ off) → served (.getCertificate p slot off len) [0x12, 0x7F, 1, 0])
      ∧ (∀ nonce, ok → ∃ n k, n.length = 32 ∧
          let body := [0x12, 0x03, 0, 1] ++ Config.sm3 chain ++ n ++ [0, 0]
          served (.challenge p 0 nonce) (body ++ Config.sm2Sign (d.key.getD 0) ([0x12, 0x83, 0, 0] ++ nonce ++ body) k))
      ∧ (∀ i nonce, ok → i ≤ 5 → ∃ n k, n.length = 32 ∧
          let m := if i = 0 then [] else d.measBlock i
          let body := [0x12, 0x60, (if i = 0 then 5 else 0), 0, (if i = 0 then 0 else 1)] ++ toLe 3 m.length ++ m ++ n ++ [0, 0]
          served (.getMeasurements p i true nonce) (body ++ Config.sm2Sign (d.key.getD 0) ([0x12, 0xE0, 1, BitVec.ofNat 8 i] ++ nonce ++ [0] ++ body) k)
            ∧ served (.getMeasurements p i false nonce) body)
      ∧ (∀ i slot sign nonce, ok → slot ≠ 0 → 6 ≤ i → i ≠ 0xFF → served (.challenge p slot nonce) [0x12, 0x7F, 1, 0]
          ∧ served (.getMeasurements p i sign nonce) [0x12, 0x7F, 1, 0])
      ∧ (¬ok → ∀ i sign slot off len nonce, served (.getCertificate p slot off len) [0x12, 0x7F, 5, 0]
          ∧ served (.challenge p slot nonce) [0x12, 0x7F, 5, 0] ∧ served (.getMeasurements p i sign nonce) [0x12, 0x7F, 5, 0])
      ∧ (∀ c : BitVec 8, served (.unsupportedSpdmRequest p c) [0x12, 0x7F, 7, c])
      ∧ served (.doeDiscovery p 0) [0x01, 0x00, 0x00, 0x01] ∧ served (.doeDiscovery p 1) [0x01, 0x00, 0x01, 0x00]
      ∧ ∀ (t : State), t.dev.barsOn p = true → Comes (.doeAbort p) t (t.dev.setPort p { t.dev.port p with doe := none })

/-- Rails and resets (R479, R493, R494, R504 to R506): the standby rail comes up and goes down, MOD_EN starts and stops the other rails, a rail that does not
come into regulation holds them off, and a module reset leaves the device as after power-on but for the islands and what lies in module flash. COMPLETES: STANDBY_RAIL_UP, STANDBY_HOLD_EXPIRY,
MOD_EN_HIGH, MOD_EN_LOW, RAIL_TIMEOUT, RAIL_REGULATION_LOSS, MODULE_RESET.

Starting, and the Dormant state (R483 to R488, R492, R495 to R497): with no valid image a start ends in STAGE 15 with code 1 and the alert; with one, the
slot that runs, FALLBACK and TRIAL stand in BOOT_STATUS, and the start ends in STAGE 15 with code 2 or 3 where the voltage table or the training fails, and
else in STAGE 12 with memory of zeros and the setpoint 40 (here for a flash without a repair map). Whether an image is valid is a function of the published
digest and signature (R487, log 15). BOOT_CONFIRM takes TRIAL off; Dormant is entered when no job runs and no command is left, with every fabric port off,
and an event for a target that does not hold its line wakes the device and its ports. COMPLETES: BOOT_START, BOOT_CONFIRM, DORMANT_ENTER, DORMANT_WAKE. -/
def Obligations.ModuleResults : Prop :=
  (
  ∀ (s : State) (mv rail : Nat) (straps : BitVec 3),
    let d := s.dev
    let b := d.board
    (b.standby = false → Comes (.standbyRailUp straps) s ({ d with board := { b with standby := true } }.wr rModAddr (straps.setWidth 32)))
      ∧ (b.standby = true → Comes (.standbyRailUp straps) s d)
      ∧ (b.standby = false ∨ b.deep = false → Comes .standbyHoldExpiry s d)
      ∧ (b.modEn = true → Comes (.modEnHigh mv) s d) ∧ (b.modEn = false → Comes .modEnLow s d)
      ∧ (b.rails = false ∨ b.pgood = true → Comes .railTimeout s d)
      ∧ (b.modEn = false ∨ b.pgood = false → Comes (.railRegulationLoss rail) s d)
      ∧ (b.standby = false → Comes .moduleReset s d)
      ∧ (b.standby = true → b.deep = true → Does .standbyHoldExpiry s fun e => e.board.standby = false ∧ e.board.rails = false ∧ e.mem = []
          ∧ e.tiles = [] ∧ e.sync = [] ∧ e.cmds = [] ∧ (b.fq = [] → e.board.flash = b.flash))
      ∧ (b.modEn = false → Does (.modEnHigh mv) s fun e =>
          e.board.modEn = true ∧ e.board.rails = (b.rails || (decide (42500 < mv) && b.standby && !b.barred)))
      ∧ (b.modEn = true → Does .modEnLow s fun e => e.board.modEn = false ∧ e.board.rails = false ∧ e.board.pgood = false ∧ e.board.barred = false
          ∧ e.rd rModAlert = d.rd rModAlert &&& 0xE ∧ e.board.flash = b.flash ∧ e.mem = [])
      ∧ (b.rails = true → b.pgood = false → Does .railTimeout s fun e =>
          e.board.rails = false ∧ e.board.barred = true ∧ e.rd rModAlert = d.rd rModAlert ||| 2)
      ∧ (d.calm = true → b.modEn = true → b.pgood = true → Does (.railRegulationLoss rail) s fun e =>
          e.board.pgood = false ∧ e.rd rModAlert = d.rd rModAlert ||| 2 ∧ e.mem = d.mem)
      ∧ (b.standby = true → Does .moduleReset s fun e => e.board = { b with cause := 1, fwait := false } ∧ e.job = 0 ∧ e.bootStage = 0 ∧ e.sync = [] ∧ e.mem = []
          ∧ e.tiles = [] ∧ e.cmds = [] ∧ e.xops = [] ∧ e.faults = [] ∧ e.rd rModAlert = d.rd rModAlert ∧ e.rd rModCoolant = d.rd rModCoolant
          ∧ e.rd rKlnVinMin = d.rd rKlnVinMin ∧ (∀ g, (e.ring g).opn = false) ∧ e.crz = d.crz))
  ∧ (
  ∀ (s : State) (env : BootEnv) (path : Path) (i : Nat) (b : BootCopy),
    let d := s.dev
    let ready := d.board.rails = true ∧ d.board.dip = false ∧ d.bootStage ≤ 1
    let no := ∃ q, path = .bar0 q
    (¬ready → Comes (.bootStart env) s d)
      ∧ (ready → d.flashBusy = true → Comes (.bootStart env) s (d.setFld rBootStatus 15 12 1))
      ∧ (ready → d.flashBusy = false → Comes (.bootStart env) s (d.bootRun env).flashOn)
      ∧ (ready → d.flashBusy = false → d.cmds = [] → d.memOk = true → d.bootNow = some (i, b) → d.mapNow = none → d.repair = [] → d.absent = [] → env.bistFail = [] →
        Does (.bootStart env) s fun e =>
          match d.chooseImage b with
          | none => e.bootStage = 15 ∧ e.fld rBootStatus 31 24 = 1 ∧ e.fld rModAlert 2 2 = 1
          | some (slot, fb, tr) =>
            e.fld rBootStatus 1 1 = slot ∧ e.fld rBootStatus 3 3 = (if fb then 1 else 0) ∧ e.fld rBootStatus 2 2 = (if tr then 1 else 0)
              ∧ (if Config.voltageOk d.voltageTable = false then e.bootStage = 15 ∧ e.fld rBootStatus 31 24 = 2
                else if env.trainFail ≠ [] then e.bootStage = 15 ∧ e.fld rBootStatus 31 24 = 3
                else e.bootStage = 12 ∧ e.mem = [] ∧ e.board.pgood = true ∧ e.fld rKlnSetpoint 7 0 = 40
                  ∧ e.rd rBootTime = BitVec.ofNat 32 env.us ∧ e.rd rBootCause = BitVec.ofNat 32 d.board.cause))
      ∧ (d.studio = false ∨ d.bootNow = none → Comes .bootConfirm s d)
      ∧ (d.cmds = [] → d.studio = true → d.bootNow = some (i, b) → Does .bootConfirm s fun e =>
          e.fld rBootStatus 2 2 = 0 ∧ e.board.fq.length = d.board.fq.length + 2)
      ∧ (no → Comes (.dormantEnter path) s d)
      ∧ (¬no → Comes (.dormantEnter path) s (d.dormantEnter none))
      ∧ (¬no → d.cmds = [] → d.studio = true → d.job = 0 → Does (.dormantEnter path) s fun e =>
          e.dormant = true ∧ e.tiles = [] ∧ ∀ p, p < 32 → e.fld (rXchPortStatus p) 2 0 = 0)
      ∧ (¬no → d.cmds = [] → d.studio = true → d.job ≠ 0 → Does (.dormantEnter path) s fun e => e.dormant = false ∧ e.fld rBootStatus 5 5 = 1)
      ∧ (d.dormant = false ∨ (d.lineCond 0 || d.lineCond 1 || d.lineCond 2) = false → Comes .dormantWake s d)
      ∧ (d.cmds = [] → d.dormant = true → (d.lineCond 0 || d.lineCond 1 || d.lineCond 2) = true → Does .dormantWake s fun e =>
          e.dormant = false ∧ ∀ p, p < 32 → d.fld (rXchPortCtl p) 0 0 = 1 → e.fld (rXchPortStatus p) 2 0 = 1))

/-- The management mailbox and the flash engine (R498, R499, R509 to R513, Tables 19.5, 19.6): each request is answered, or queued with the write engine, which
erases to 0xFF and programs the AND of old and new bytes; a second request meets BUSY; a request whose bytes do not check is counted; coolant samples
(R515). A STATUS response clears no counter (the model's choice, log 76). Without the standby rail nothing answers. COMPLETES: STATUS, FLASH_READ, FLASH_WRITE,
FLASH_ERASE, ALERT_CLEAR, MAILBOX_ABORT, MAILBOX_BAD_OP, MAILBOX_REQUEST_DISCARD, MAILBOX_RESPONSE_READ, DYNAMIC_ADDRESS_ASSIGNMENT, FLASH_OP_COMPLETE,
COOLANT_SAMPLE. -/
def Obligations.MailboxResults : Prop :=
  ∀ (s : State) (tag op : BitVec 8) (off len : Nat) (bs : List Byte) (arg : Word) (addr : BitVec 7) (ti tOut : BitVec 8) (ok : Bool),
    let d := s.dev
    let b := d.board
    let answers (i : Instr) (st : Nat) (pay : List Byte) := Comes i s (d.mbxAnswer tag.toNat st pay)
    let requests : List Instr := [.status tag, .flashRead tag off len, .flashWrite tag off bs, .flashErase tag off arg, .alertClear tag arg, .mailboxAbort tag]
    (b.standby = false → (∀ i ∈ requests, Comes i s d) ∧ Comes (.mailboxBadOp tag op) s d ∧ Comes (.mailboxRequestDiscard bs) s d
        ∧ Comes (.dynamicAddressAssignment addr) s d ∧ Comes (.flashOpComplete ok) s d ∧ Comes (.coolantSample ti tOut) s d)
      ∧ (b.standby = true → d.mbxTaken = false →
        answers (.status tag) 0 (((List.range 12).flatMap fun i => toLe 4 (d.viewPort 0 (4 * i)).toNat) ++ toLe 4 (d.rd rBootStatus).toNat
            ++ toLe 4 (d.rd rBootCause).toNat ++ toLe 4 (d.rd rModAlert).toNat ++ toLe 4 (d.rd rModCoolant).toNat)
          ∧ (0 < len → len ≤ 4096 → off + len ≤ 0x4000000 → answers (.flashRead tag off len) 0 (d.flashBytes off len))
          ∧ (len = 0 ∨ 4096 < len ∨ 0x4000000 < off + len → answers (.flashRead tag off len) 3 [])
          ∧ (bs.length ≤ 4096 → bs.length % 256 = 0 → off % 256 = 0 → d.mbxDeny off bs.length = true → answers (.flashWrite tag off bs) 4 [])
          ∧ (bs.length ≤ 4096 → (bs.length % 256 ≠ 0 ∨ off % 256 ≠ 0) → answers (.flashWrite tag off bs) 3 [])
          ∧ (bs ≠ [] → bs.length ≤ 4096 → bs.length % 256 = 0 → off % 256 = 0 → d.mbxDeny off bs.length = false → Does (.flashWrite tag off bs) s fun e =>
              e.board.fq = b.fq ++ flashPages off (bs.length / 256) bs ∧ e.board.req = some tag.toNat ∧ e.board.flash = b.flash)
          ∧ (off % 65536 = 0 → d.mbxDeny off 65536 = true → answers (.flashErase tag off 0) 4 [])
          ∧ (off % 65536 ≠ 0 ∨ arg ≠ 0 → answers (.flashErase tag off arg) 3 [])
          ∧ (off % 65536 = 0 → d.mbxDeny off 65536 = false → Does (.flashErase tag off 0) s fun e =>
              e.board.fq = b.fq ++ [⟨true, true, true, off, []⟩] ∧ e.board.req = some tag.toNat)
          ∧ Comes (.alertClear tag arg) s ((d.wr rModAlert (d.rd rModAlert &&& ~~~(arg &&& 0xE))).mbxAnswer tag.toNat 0 [])
          ∧ Comes (.mailboxAbort tag) s ((d.abortFlood 2).mbxAnswer tag.toNat 0 []) ∧ (Does (.mailboxAbort tag) s fun e => inSet e.aborts d.epoch = true)
          ∧ ((op.toNat = 0 ∨ 6 < op.toNat) → answers (.mailboxBadOp tag op) 2 [])
          ∧ (mbxShape bs = true → Comes (.mailboxRequestDiscard bs) s d))
      ∧ (b.standby = true → d.mbxTaken = true → (∀ i ∈ requests, Comes i s (d.emit (.mailbox (mbxBytes tag.toNat 5 []))))
          ∧ (mbxShape bs = true → Comes (.mailboxRequestDiscard bs) s (d.emit (.mailbox (mbxBytes (field bs 1 1) 5 [])))))
      ∧ (b.standby = true → mbxShape bs = false → Comes (.mailboxRequestDiscard bs) s (d.bump rModMbxErrs 1))
      ∧ Comes .mailboxResponseRead s { d with board := { b with unread := false } }
      ∧ (b.standby = true → Comes (.dynamicAddressAssignment addr) s { d with board := { b with dyn := some addr.toNat } })
      ∧ (b.fq = [] ∨ b.fwait = true → Comes (.flashOpComplete ok) s d)
      ∧ (∀ o rest, b.standby = true → b.fwait = false → b.fq = o :: rest → d.memOk = true →
          (o.erase = true → Does (.flashOpComplete true) s fun e => e.board.fq = rest
              ∧ ∀ a, Mem.get blank e.board.flash a = if a / 65536 = o.off / 65536 then 0xFF else Mem.get blank b.flash a)
            ∧ (o.erase = false → Does (.flashOpComplete true) s fun e => e.board.fq = rest
              ∧ e.flashBytes o.off o.bytes.length = (List.range o.bytes.length).map fun i => nth 0 (d.flashBytes o.off o.bytes.length) i &&& nth 0 o.bytes i)
            ∧ (d.calm = true → o.mbox = true → o.last = true → Does (.flashOpComplete false) s fun e =>
              Out.mailbox (mbxBytes (b.req.getD 0) 6 []) ∈ e.out ∧ e.board.fq = rest))
      ∧ (b.standby = true → d.calm = true → Does (.coolantSample ti tOut) s fun e => e.fld rModCoolant 7 0 = ti.toNat ∧ e.fld rModCoolant 15 8 = tOut.toNat
          ∧ (65 ≤ tOut.toNat → e.fld rModAlert 3 3 = 1))

/-! ### The fabric and its engines -/

/-- Links and lanes (R255, R257 to R269, R274 to R277, Tables 9.6 and 9.9): training, transmission in order under credits, acknowledgement and replay, NAK, the
limit of 16 replays, flits that the code lost, unknown flits, ABORT flits, spares and the lane switch.

COMPLETES: PORT_TRAINED, FRAME_TRANSMIT, IDLE, LINK, REPLAY_TIMEOUT, BAD_FLIT, ABORT_FLIT, LANE_SPARE_REQUEST, SPARE_REQUEST_RECEIVE, SPARE_LOCKED,
LANE_SWITCH. -/
def Obligations.LinkResults : Prop :=
  ∀ (s : State) (p node pport lane spare corr : Nat) (l : LinkF) (kind cause : BitVec 8) (ep origin : BitVec 16) (al ok : Bool) (c : FecIn),
    portOk p = true →
    let d := s.dev
    let x := d.fab p
    let st (e : Dev) := e.fld (rXchPortStatus p) 2 0
    let got := (d.flitsIn p 1 l.fec).ackIn p l.ack l.credit
    let came := d.flitsIn p 1 c
    (st d = 1 → d.isQuar ⟨.xchHalf, p / 16⟩ = false → s.dev.calm = true → Does (.portTrained p node pport) s fun e =>
        e.fld (rXchPortPeer p) 13 0 = node % 16384 ∧ e.fld (rXchPortPeer p) 20 16 = pport % 32 ∧ e.fld (rXchPortPeer p) 31 31 = 1
          ∧ (e.fab p).txSeq = 0 ∧ (e.fab p).rxSeq = 0
          ∧ (if node % 16384 = d.node then st e = 5 ∧ e.fld (rXchPortStatus p) 8 8 = 1 else st e = 2))
      ∧ (st d = 1 → d.isQuar ⟨.xchHalf, p / 16⟩ = true → Comes (.portTrained p node pport) s (d.setFld (rXchPortStatus p) 2 0 4))
      ∧ (st d ≠ 1 → Comes (.portTrained p node pport) s d)
      ∧ (∀ q rest, d.portUp p = true → pickTx x.cred (512 - x.rtx.foldl (fun a y => a + frameFlits y.2) 0) x.txq [] = some (q, rest) → d.calm = true →
          let fr : Frame := { q.frame with fseq := BitVec.ofNat 32 x.txSeq, ack := x.ackNow, credit := x.back }
          Does (.frameTransmit p) s fun e => Out.frame p fr ∈ e.out ∧ (e.fab p).txq = rest ∧ (e.fab p).rtx = x.rtx ++ [(0, fr)]
            ∧ (e.fab p).txSeq = (x.txSeq + 1) % 2 ^ 32 ∧ nth 0 (e.fab p).cred fr.hops = nth 0 x.cred fr.hops - frameFlits fr)
      ∧ (d.portUp p = false → Comes (.frameTransmit p) s d ∧ Comes (.idle p c) s d ∧ Comes (.link p l) s d ∧ Comes (.badFlit p kind c) s d
          ∧ Comes (.abortFlit p ep origin cause ok c) s d)
      ∧ (d.portUp p = true → c.uncorr ≠ 0 → Comes (.idle p c) s (d.flitsIn p 0 c) ∧ Comes (.badFlit p kind c) s (d.flitsIn p 0 c)
          ∧ Comes (.abortFlit p ep origin cause ok c) s (d.flitsIn p 0 c) ∧ (l.fec = c → Comes (.link p l) s (d.flitsIn p 0 c)))
      ∧ (d.portUp p = true → l.fec.uncorr = 0 →
          (l.crcOk = true → l.nak = false → Comes (.link p l) s got)
            ∧ (l.crcOk = true → l.nak = true → Comes (.link p l) s (got.replayFrom p l.nseq.toNat))
            ∧ (l.crcOk = false → Comes (.link p l) s ((d.flitsIn p 1 l.fec).bump (rXchPortHcrcBad p) 1)))
      ∧ (x.rtx = [] → Comes (.replayTimeout p) s d)
      ∧ (∀ y ys, d.calm = true → d.portUp p = true → x.rtx = y :: ys → (∀ z ∈ x.rtx, seqLe y.2.fseq.toNat z.2.fseq.toNat = true) →
          ((∀ z ∈ x.rtx, z.1 < 16) → Does (.replayTimeout p) s fun e =>
              (e.fab p).rtx = x.rtx.map (fun z => (z.1 + 1, z.2)) ∧ ∀ z ∈ x.rtx, Out.replay p z.2.fseq.toNat ∈ e.out)
            ∧ ((∃ z ∈ x.rtx, 16 ≤ z.1) → Does (.replayTimeout p) s fun e => st e = 4 ∧ e.pendBit 5 = true))
      ∧ (d.portUp p = true → c.uncorr = 0 → Comes (.idle p c) s came
          ∧ (8 < kind.toNat → Comes (.badFlit p kind c) s (came.bump (rXchPortBadflit p) 1)) ∧ (kind.toNat ≤ 8 → Comes (.badFlit p kind c) s came)
          ∧ Comes (.abortFlit p ep origin cause false c) s (came.bump (rXchPortHcrcBad p) 1)
          ∧ (inSet d.aborts ep.toNat = true → Comes (.abortFlit p ep origin cause true c) s came)
          ∧ (inSet d.aborts ep.toNat = false → ep.toNat ≠ d.epoch → d.calm = true → Does (.abortFlit p ep origin cause true c) s fun e =>
                inSet e.aborts ep.toNat = true ∧ e.rd rXchAbortLast = BitVec.ofNat 32 (65536 + ep.toNat) ∧ e.job = d.job
                  ∧ ∀ q, q < 32 → q ≠ p → d.portUp q = true → Out.abortFlit q ep.toNat origin.toNat cause.toNat ∈ e.out)
          ∧ (inSet d.aborts ep.toNat = false → ep.toNat = d.epoch → d.cmds = [] → d.job = 1 → Does (.abortFlit p ep origin cause true c) s fun e =>
                e.job = 2 ∧ e.pendBit 0 = true ∧ e.pendBit 16 = true))
      ∧ (lane < 4 → d.laneBad al corr = false → Comes (.laneSpareRequest p lane al corr ok) s d)
      ∧ (lane < 4 → d.portUp p = true → d.sparing p lane = none → d.laneBad al corr = true → inSet x.noreq lane = false →
          (∀ n, d.freeSpare p = some n → Comes (.laneSpareRequest p lane al corr true) s ((d.trainSpare p lane n).emit (.spareReq p lane n))
              ∧ Comes (.laneSpareRequest p lane al corr false) s ((d.emit (.spareReq p lane n)).spareRefused p lane al))
            ∧ (d.freeSpare p = none → Comes (.laneSpareRequest p lane al corr ok) s (d.spareRefused p lane al)))
      ∧ (lane < 4 → spare < 16 → d.portUp p = true → d.sparing p lane = none →
          (∀ n, d.freeSpare p = some n → Comes (.spareRequestReceive p lane spare al) s ((d.trainSpare p lane n).emit (.spareAnswer p lane (some n))))
            ∧ (d.freeSpare p = none → Comes (.spareRequestReceive p lane spare al) s ((d.emit (.spareAnswer p lane none)).noSpare p al)))
      ∧ (∀ q, lane < 4 → spare < 16 → d.sparing p lane = some q →
          (d.portUp p = true → Comes (.spareRequestReceive p lane spare al) s (d.emit (.spareAnswer p lane (some q.spare))))
            ∧ Comes (.spareLocked p lane true) s
                (d.setFab p { x with spares := x.spares.map fun z => if z.lane = lane then { z with locked := true } else z })
            ∧ (d.calm = true → Does (.spareLocked p lane false) s fun e => st e = 4 ∧ e.pendBit 5 = true)
            ∧ (q.locked = false → Comes (.laneSwitch p lane) s d)
            ∧ (q.locked = true → q.spare < 16 → d.calm = true → Does (.laneSwitch p lane) s fun e =>
                (e.fab p).spares = x.spares.filter (fun z => z.lane != lane) ∧ ((e.fab p).spares = [] → st e = 2)
                  ∧ e.fld (rXchPortLanemap p) (8 * lane + 7) (8 * lane) = spareLane q.spare
                  ∧ e.rd (rXchPortSpares p) = satAdd (d.rd (rXchPortSpares p)) 1 ∧ e.fld (rXchSpare q.spare) 6 6 = 1))
      ∧ ∀ (e : Dev) (n : Nat), st (e.trainSpare p lane n) = 3 ∧ Sparing.mk lane n false ∈ ((e.trainSpare p lane n).fab p).spares
          ∧ (let z := e.spareRefused p lane al
             z.fld (rXchPortStatus p) 9 9 = 1 ∧ z.pendBit 5 = true ∧ (al = false → st z = 4) ∧ (al = true → inSet (z.fab p).noreq lane = true))

/-- Frames that reach their destination (R202, R260, R263, R266, R270, R272, R273, R280, R288 to R290, R306, R364, Table 10.4): a HEAD of a window that
admits it gives its blocks to the exchange engine, another is counted and job-fatal, one for another device goes on; the receiver operations with their
residue check; HOLD, RESUME, XCREDIT, BARRIER, REREAD; refresh and expiry of a hold.

COMPLETES: HEAD, RECV_PLAIN_WRITE, RECV_ADD32, RECV_ADD64, RECV_UMAX32, HOLD, RESUME, BARRIER, XCREDIT, REREAD, HOLD_REFRESH, HOLD_EXPIRY. -/
def Obligations.FrameResults : Prop :=
  ∀ (s : State) (p k : Nat) (f : Frame) (u : Upset) (xid : BitVec 32) (us : List Upset) (fl : List (Nat × Nat)),
    let d := s.dev
    let w := d.withCodes us
    let y := d.flitIn p f
    let yu := w.flitIn p f
    let hd : Frame := { f with kind := 1 }
    let on := d.heard p (frameFlits f) f
    let gen := f.xid.toNat / 2 ^ 24
    let bar := (gen, f.value.toNat % 2 ^ 28, f.value.toNat / 2 ^ 28, f.src)
    (d.takes p f → frameBad f = [] → Comes (.head p f) s (on.deliver p f []))
      ∧ (d.hears p f → frameBad f = [] → f.dst ≠ d.node →
          (f.hops = 3 → Comes (.head p f) s ((on.bump rXchHoplimitDrops 1).credBack p 3 (frameFlits f)))
            ∧ (f.hops ≠ 3 → ∀ q, on.routePort f.dst = some q → Comes (.head p f) s (on.routeOn ⟨some (p, f.hops), { hd with hops := f.hops + 1 }⟩)))
      ∧ (d.takes p f → frameBad f = [] → f.xop.toNat ≤ 3 → d.genOk gen = true → 1 < f.blocks.length →
        d.closedX.any (fun c => c == (f.xid.toNat, subKey f.sub.toNat)) = false →
          (d.palOk f = true → d.calm = true → Does (.head p f) s fun e => e.inbox = d.inbox ++ d.inBlocks p f [])
            ∧ (d.palOk f = false → d.cmds = [] → d.job = 1 → Does (.head p f) s fun e => e.inbox = d.inbox ∧ e.job = 2))
      ∧ (d.takes p f →
          (∀ x, y.xWire f.xid.toNat = some x → Comes (.hold p f) s (y.setX { x with holds := setIns x.holds f.src })
              ∧ Comes (.resume p f) s (y.setX { x with holds := setDel x.holds f.src }))
            ∧ (y.xWire f.xid.toNat = none → Comes (.hold p f) s (y.bump rXchHoldUnknown 1) ∧ Comes (.resume p f) s (y.bump rXchHoldUnknown 1))
            ∧ (yu.xOut f.xid.toNat f.src = none →
                Comes (.xcredit p f us) s (yu.bump rXchHoldUnknown 1) ∧ Comes (.reread p f u us) s (yu.bump rXchHoldUnknown 1))
            ∧ (∀ x q, yu.xops = [x] → yu.xOut f.xid.toNat f.src = some x → x.sends = [q] → q.node = f.src → q.segs = [] →
                (f.value.toNat < q.flight → Comes (.xcredit p f us) s (yu.setX { x with sends := [{ q with flight := q.flight - f.value.toNat }] }))
                  ∧ (f.value.toNat = q.flight → x.op = 5 → x.stage = .plain →
                      Comes (.xcredit p f us) s ((yu.setX { x with sends := [] }).xEnd { x with sends := [] } true 0)))
            ∧ Comes (.barrier p f) s (y.barrierIn (asCtl f 6))
            ∧ (y.genOk gen = false → Comes (.barrier p f) s (y.bump rXchBarrierReject 1))
            ∧ (∀ x, y.genOk gen = true → y.barOf gen (f.value.toNat % 2 ^ 28) = some x →
                ((x.round ≤ bar.2.2.1 ∧ bar.2.2.1 < x.rounds ∧ x.barFrom bar.2.2.1 = f.src ∧ bar ∉ y.bars) →
                    Comes (.barrier p f) s { y with bars := y.bars ++ [bar] })
                  ∧ (¬(x.round ≤ bar.2.2.1 ∧ bar.2.2.1 < x.rounds ∧ x.barFrom bar.2.2.1 = f.src ∧ bar ∉ y.bars) →
                    Comes (.barrier p f) s (y.bump rXchBarrierReject 1)))
            ∧ (∀ x q g, yu.xOut f.xid.toNat f.src = some x → x.sentFrom f.src f.sub.toNat f.offset = some (q, g) →
                (∀ b, g.lit = some b → Comes (.reread p f u us) s (yu.originate (yu.headFrame x q f.offset true [b])))
                  ∧ ∀ d1 pa, g.lit = none →
                      Dev.vaPas (.xsend (yu.sendHalf q.node)) x.stream .read [g.va + (f.offset - g.off)] yu = (d1, some [pa]) → d1.glazeBad pa u = false →
                      let d2 := d1.readCounts pa u
                      Comes (.reread p f u us) s (d2.originate (d2.headFrame x q f.offset true [d1.block pa]))))
      ∧ (d.hears p f → f.dst = d.node → f.epoch.toNat ≠ d.epoch →
          Comes (.hold p f) s (y.bump rXchEpochDrops 1) ∧ Comes (.resume p f) s (y.bump rXchEpochDrops 1)
            ∧ Comes (.barrier p f) s ((y.bump rXchEpochDrops 1).bump rXchBarrierReject 1)
            ∧ Comes (.xcredit p f us) s (yu.bump rXchEpochDrops 1) ∧ Comes (.reread p f u us) s (yu.bump rXchEpochDrops 1))
      ∧ (d.inbox[k]? = none → Comes (.recvPlainWrite k us) s w ∧ Comes (.recvAdd32 k fl us) s w ∧ Comes (.recvAdd64 k fl us) s w
          ∧ Comes (.recvUmax32 k fl us) s w)
      ∧ (∀ b x pa d1, d.inbox[k]? = some b → d.recvHeld b.id = false → w.taker b = some x → x.wheel = none →
          x.stage = .plain ∨ x.stage = .scatter ∨ x.stage = .gather →
          Dev.vaPas (.xrecv (halfOf b.port)) x.stream .write [w.blkVa b] w = (d1, some [pa]) →
          let cu := d1.takeCode
          let d2 := cu.2.readCounts pa cu.1
          let sum := recvBlock b.xop (d2.block pa) b.data fl
          let adds (i : Instr) := x.got.any (fun g => g == (b.src, b.off)) = false → d2.glazeBad pa cu.1 = false →
            (sum.2.2 = none → Comes i s (((d2.bump rXchRedSat sum.2.1).writeBlock pa sum.1).takenIn x b))
              ∧ ∀ m, sum.2.2 = some m → Comes i s (d2.retry ⟨.recv b.id, 4, ⟨.xchHalf, halfOf b.port⟩, 0, residueDetail m⟩)
          (b.xop = 0 → Comes (.recvPlainWrite k us) s ((d1.writeBlock pa b.data).takenIn x b))
            ∧ (b.xop = 1 → adds (.recvAdd32 k fl us)) ∧ (b.xop = 2 → adds (.recvAdd64 k fl us)) ∧ (b.xop = 3 → adds (.recvUmax32 k fl us)))
      ∧ (∀ b x part, d.inbox[k]? = some b → d.recvHeld b.id = false → w.taker b = some x → x.stage = .value part →
          let n := (x.valueOp part).2
          let sum := recvBlock b.xop (toLe n x.val) (b.data.take n) fl
          let adds (i : Instr) := sum.2.2 = none → Comes i s ((w.bump rXchRedSat sum.2.1).takenIn { x with val := leNat sum.1 } b)
          (b.xop = 1 → adds (.recvAdd32 k fl us)) ∧ (b.xop = 2 → adds (.recvAdd64 k fl us)) ∧ (b.xop = 3 → adds (.recvUmax32 k fl us)))
      ∧ (∀ (cur new : List Byte) (i : Nat), cur.length = 256 →
          (i < 64 → field (recvBlock 1 cur new []).1 (4 * i) 4 = uBits 32 (clampSym 31 (sInt 32 (field cur (4 * i) 4) + sInt 32 (field new (4 * i) 4))).1)
            ∧ (i < 32 → field (recvBlock 2 cur new []).1 (8 * i) 8 = uBits 64 (clampSym 63 (sInt 64 (field cur (8 * i) 8) + sInt 64 (field new (8 * i) 8))).1)
            ∧ (i < 64 → field (recvBlock 3 cur new []).1 (4 * i) 4 = max (field cur (4 * i) 4) (field new (4 * i) 4))
            ∧ ∀ xop, 1 ≤ xop → xop ≤ 3 → (recvBlock xop cur new []).2.2 = none
                ∧ ∀ b, b < 8 * recvWidth xop → i < 256 / recvWidth xop → (recvBlock xop cur new [(i, 2 ^ b)]).2.2 ≠ none)
      ∧ (∀ x, d.xWire xid.toNat = some x →
          Comes (.holdExpiry xid) s (d.setX { x with holds := [] })
            ∧ (x.own = [] → Comes (.holdRefresh xid) s d)
            ∧ ∀ o n, x.own = [o] → (d.parks.findSome? fun q => if (agentCode q.agent, q.va) = o then q.fault else none) = some n →
                Comes (.holdRefresh xid) s (d.sendHolds x n))
      ∧ (d.xWire xid.toNat = none → Comes (.holdExpiry xid) s d
          ∧ (d.early.find? (fun e => wireOf e.gen e.key == xid.toNat) = none → Comes (.holdRefresh xid) s d))

/-- Exchange commands and operations (R284 to R293, R305, R308 to R311, R424, R533, Table 10.3). An accepted EXCHANGE, REDUCE_INT or PERMUTE joins the running
operations under its XID, and PERMUTE starts at once. Each operation, in its turn and when its record reads again, starts as its OP says; hops follow by level, and
the last ends the operation; a Wheel's all-to-all starts its first hop once its pieces are read; a timeout is job-fatal, but for a GRAD.

COMPLETES: EXCHANGE, REDUCE_INT, PERMUTE, ALLTOALL, REDUCE_SCATTER, ALL_GATHER, ALL_REDUCE, SEND, RECV, RING, RING_STEP_ARRIVED, BARRIER_OP,
BARRIER_ROUND_COMPLETE, REDUCTION_HOP_DONE, ONE_VALUE_EXCHANGE_DONE, PERMUTE_ROUND_END, EXCHANGE_TIMEOUT. -/
def Obligations.ExchangeResults : Prop :=
  ∀ (s : State) (h : CmdHdr) (va : BitVec 64) (us : List Upset) (b : List Byte) (g : Grp) (t : List Byte) (d1 : Dev) (k : Nat) (x : Xop),
    let d := s.dev
    let w := d.withCodes us
    let raw (o : Nat) := CmdOp.exch o va unread grpNone unread
    let op (o : Nat) := CmdOp.exch o va b g t
    let runs (o : Nat) := (d1.handed h (packets (submOf h (raw o)).len) (op o)).xLaunch (d1.cmdOf h (op o)) b g t
    let joins (i : Instr) := Does i s fun e => ∃ z, e.xops = d1.xops ++ [z] ∧ z.key = (xrec b).xid ∧ z.op = (xrec b).op ∧ z.grp = g
      ∧ z.cmd = some d1.cmdSeq ∧ z.stage = .idle ∧ z.rec_ = b ∧ z.table = t
    let began (n : Nat) (z : Xop) (y : Dev) : Prop := d.alive = true ∧ d.xop? k = some x ∧ idleOp n x = true ∧ d.xTurn x = true
      ∧ ∃ c r, Dev.vread (w.srcAg x) x.stream (w.recVa x) 64 w = (c, some r) ∧ c.xBegin x = (y, z)
    let here : Prop := d.alive = true ∧ d.xop? k = some x
    let on : Prop := here ∧ x.free = true
    let r := x.r
    let there := x.need ≤ x.got.length
    (Served w h (raw 0x11) (op 0x11) d1 → d1.xRuns (xrec b).xid = false → Comes (.exchange h va us) s (runs 0x11) ∧ joins (.exchange h va us))
      ∧ (Served w h (raw 0x12) (op 0x12) d1 → d1.xRuns (xrec b).xid = false → Comes (.reduceInt h va us) s (runs 0x12) ∧ joins (.reduceInt h va us))
      ∧ (Served w h (raw 0x13) (op 0x13) d1 → d1.xRuns (xrec b).xid = false → Comes (.permute h va us) s ((runs 0x13).startPermute (xrec b).xid))
      ∧ ((d.alive = false ∨ d.xop? k = none) →
          (∀ i ∈ [Instr.alltoall k us, .reduceScatter k us, .allGather k us, .allReduce k us, .send k us, .recv k us, .ring k us, .ringStepArrived k us,
              .barrierOp k us, .barrierRoundComplete k us, .reductionHopDone k us, .oneValueExchangeDone k us, .permuteRoundEnd k us], Comes i s w)
            ∧ Comes (.exchangeTimeout k) s d)
      ∧ (∀ z y, began 5 z y →
          let x1 : Xop := { z with stage := .plain, sends := [z.stream1 r.peer 0 (down256 r.src) r.blocks] }
          (r.blocks = 0 → Comes (.send k us) s (y.xEnd z true 0)) ∧ (r.blocks ≠ 0 → Comes (.send k us) s ((y.setX x1).pump x1)))
      ∧ (∀ z y, began 6 z y →
          Comes (.recv k us) s ((y.setX { z with stage := .plain, need := r.blocks }).recvEnd { z with stage := .plain, need := r.blocks }))
      ∧ (∀ z y, began 7 z y → Comes (.ring k us) s
          (y.ringSend { z with stage := .plain, need := r.blocks, round := 0, base := (y.count (r.sync + 1)).toNat } 0))
      ∧ (∀ z y, began 9 z y →
          let bad (c : Nat × Nat × Nat × Nat) : Bool := (c.1 == z.gen && c.2.1 == z.key % 2 ^ 28) && !(decide (c.2.2.1 < z.rounds) && z.barFrom c.2.2.1 == c.2.2.2)
          Comes (.barrierOp k us) s
            ((({ y with bars := y.bars.filter fun c => !bad c } : Dev).bump rXchBarrierReject (y.bars.filter bad).length).barRound { z with t0 := y.cc } 0))
      ∧ (∀ z y y1 y2 bs, began 3 z y → Dev.vread (y.srcAg z) x.stream (down256 r.src) (256 * r.blocks) y = (y1, some bs) →
          Dev.vwrite (y1.dstAg z) x.stream (down256 r.dst + 256 * (x.grp.self * r.blocks)) bs y1 = (y2, some ()) →
          Comes (.allGather k us) s (y2.startGather z (x.grp.levels - 1)))
      ∧ (∀ z y n i, (n = 2 ∧ i = .reduceScatter k us) ∨ (n = 4 ∧ i = .allReduce k us) → began n z y →
          Comes i s (Dev.startReduce z y)
            ∧ (∀ y1 y2 bs, r.sfmt = 0 → Dev.vread (y.srcAg z) x.stream (down256 r.src) (256 * r.blocks) y = (y1, some bs) →
                Dev.vwrite (y1.dstAg z) x.stream (down256 r.dst) bs y1 = (y2, some ()) → Comes i s (y2.startScatter z 0))
            ∧ (∀ y1 q, r.sfmt ≠ 0 → Dev.loadSrc (y.srcAg z) x.stream r.sfmt r.src r.srcx (64 * r.blocks) y = (y1, some q) →
                Comes i s (y1.startValue { z with val := maxExp q.2 * 2 ^ 24 } 1 0)))
      ∧ (∀ n hf v o, 2 ^ 26 ≤ k → here → x.wheel = some (n, hf, v) → x.stage = .idle → d.xTurn x = true → d.route? n = some o →
          (v = .statistic → Comes (.allReduce k us) s ((w.xBegin x).1.startValue { (w.xBegin x).2 with val := uBits 64 o.a.stat } 0 0)
              ∧ Comes (.alltoall k us) s w)
            ∧ (v ≠ .statistic → Comes (.allReduce k us) s w
              ∧ ∀ y ps, Dev.rowsOf (Dev.pieceTo o hf v x) (List.range x.grp.n) w = (y, some ps) →
                let own := nth [] ps x.grp.self
                let z := (y.xBegin x).1.startHop { (y.xBegin x).2 with pieces := ps, blks := (own.zip (List.range own.length)).map fun p => (0, x.grp.self, p.2, p.1) } 0
                (v ≠ .dispatch → Comes (.alltoall k us) s z)
                  ∧ (v = .dispatch → Comes (.alltoall k us) s (z.rowsDone (o.setHalf hf { o.half hf with stage := .sent }) hf))))
      ∧ (∀ y g1, k = 2 ^ 25 → on → x.stage = .idle → Dev.readGroup (.xsend 0) x.stream (w.fld rKlnPool 27 16) w = (y, some (some g1)) →
          Comes (.allReduce k us) s ((y.xBegin x).1.startValue { (y.xBegin x).2 with grp := g1, wins := g1.hops.map g1.win } 0 0))
      ∧ (on → x.op = 7 → x.stage = .plain → there →
          (x.round + 1 < r.count → Comes (.ringStepArrived k us) s
              (((w.signal r.sync).addWaiter (.ring x.uid (x.round + 1)) (r.sync + 1) (BitVec.ofNat 32 (x.base + x.round))).ringSend
                { x with round := x.round + 1, got := [] } (x.round + 1)))
            ∧ (r.count ≤ x.round + 1 → Comes (.ringStepArrived k us) s (w.xEnd x true 0)))
      ∧ (here → x.stage = .rounds →
          let want := (x.gen, x.key % 2 ^ 28, x.round, x.barFrom x.round)
          (want ∈ d.bars → Comes (.barrierRoundComplete k us) s (({ w with bars := d.bars.erase want } : Dev).barRound x (x.round + 1)))
            ∧ (want ∉ d.bars → Comes (.barrierRoundComplete k us) s w))
      ∧ (on → x.vdone = false → there →
          (x.stage = .scatter → x.level + 1 < x.grp.levels → Comes (.reductionHopDone k us) s (w.startScatter x (x.level + 1)))
            ∧ (x.stage = .scatter → x.grp.levels ≤ x.level + 1 → x.gathers = true →
                Comes (.reductionHopDone k us) s (w.startGather x (x.grp.levels - 1)))
            ∧ (x.stage = .gather → 0 < x.level → Comes (.reductionHopDone k us) s (w.startGather x (x.level - 1)))
            ∧ (x.stage = .gather → x.level = 0 → x.op ≠ 0x0A → (x.op = 3 ∨ r.sfmt = 0) → Comes (.reductionHopDone k us) s (w.xEnd x true 0))
            ∧ (x.stage = .gather → x.level = 0 → x.op ≠ 0x0A → x.op ≠ 3 → r.sfmt ≠ 0 → x.credited = true → Comes (.reductionHopDone k us) s (w.scaleOut x))
            ∧ (x.stage = .plain → x.wheel.isSome = true → x.level + 1 < x.grp.levels →
                (x.grp.hop x.level).all (fun p => inSet x.lasts (x.grp.node p)) = true → Comes (.reductionHopDone k us) s (w.startHop x (x.level + 1))))
      ∧ (∀ part, on → x.vdone = false → there → x.stage = .value part →
          (x.level + 1 < x.grp.levels → Comes (.oneValueExchangeDone k us) s (w.startValue x part (x.level + 1)))
            ∧ (x.grp.levels ≤ x.level + 1 → part = 0 → Comes (.oneValueExchangeDone k us) s (w.setX { x with vdone := true }))
            ∧ (x.grp.levels ≤ x.level + 1 → part = 1 → x.op ≠ 0x0A → Comes (.oneValueExchangeDone k us) s (w.scaleKnown x))
            ∧ (x.grp.levels ≤ x.level + 1 → Comes (.oneValueExchangeDone k us) s (w.valueKnown x part)))
      ∧ (here → x.op = 8 → x.stage = .turn → Comes (.permuteRoundEnd k us) s (w.permStart x))
      ∧ (∀ y, on → x.op = 8 → x.stage = .plain → there → x.credited = true → w.permPlace x = (y, some ()) →
          Comes (.permuteRoundEnd k us) s (y.permRound x (x.round + 1)))
      ∧ (here → x.counts = true →
          (x.op ≠ 0x0A ∨ 2 ^ 24 ≤ k → Comes (.exchangeTimeout k) s (d.bump rXchTimeouts 1).jobFatal)
            ∧ (x.op = 0x0A → k < 2 ^ 24 → x.stage ≠ .value 2 → x.stage ≠ .value 3 → x.round ≠ 1 → x.stage ≠ .barrierWait →
                Comes (.exchangeTimeout k) s ((d.bump rXchTimeouts 1).gradEnd x 3 (some x.bucket))))
      ∧ (here → x.counts = false → Comes (.exchangeTimeout k) s d)

/-- The gradient phase and the verdict (R292, R296 to R302, R304, R323, R336 to R340): a GRAD waits for the step barrier, and between buckets for its turn; a bucket
whose exponent is 255 ends the phase with code 2 and its entry's number, one of 0 needs no sum; after the sums the next bucket or the norm follows; a VERDICT
exchanges the local code, and learning the verdict raises the generation, records it and starts the Cone on a COMMIT.

COMPLETES: GRAD, GRAD_BUCKET_EMAX_DONE, GRAD_BUCKET_SUM_DONE, GRAD_NORM_DONE, VERDICT, VERDICT_COMPLETE. -/
def Obligations.GradientResults : Prop :=
  ∀ (s : State) (k : Nat) (x : Xop) (us : List Upset),
    let d := s.dev
    let w := d.withCodes us
    let on (n : Nat) : Prop := d.alive = true ∧ d.xop? k = some x ∧ x.free = true ∧ x.op = n ∧ k < 2 ^ 24
    let eg := x.val / 2 ^ 24
    let n := bucketBlocks x.table x.grp.n x.bucket
    let span := if x.r.isOwner then (64 * (n / x.grp.n) * x.grp.self, 64 * (n / x.grp.n) * (x.grp.self + 1)) else (0, 64 * n)
    (∀ y z c r, on 0x0A → x.stage = .idle ∨ x.stage = .barrierWait → d.xTurn x = true →
        Dev.vread (w.srcAg x) x.stream (w.recVa x) 64 w = (c, some r) → c.xBegin x = (y, z) →
          (y.stepRel = false → Comes (.grad k us) s (y.setX { z with stage := .barrierWait }))
            ∧ (y.stepRel = true → y.vcode = 2 ∨ y.vcode = 3 → Comes (.grad k us) s (y.xEnd z true 0))
            ∧ (y.stepRel = true → y.vcode ≠ 2 → y.vcode ≠ 3 → Comes (.grad k us) s (y.gradNext z none)))
      ∧ (on 0x0A → x.stage = .turn → Comes (.grad k us) s (w.gradStart x))
      ∧ (on 0x0A → x.stage = .value 1 → x.vdone = true →
          (eg = 255 → Comes (.gradBucketEmaxDone k us) s
              ((w.wr rXchNonfinEntry (BitVec.ofNat 32 (0xFFFFFF - x.val % 2 ^ 24))).gradEnd x 2 (some x.bucket)))
            ∧ (eg = 0 → Comes (.gradBucketEmaxDone k us) s (w.setX { x with eg := 0, stage := .scatter, vdone := true }))
            ∧ (eg ≠ 0 → eg ≠ 255 → Comes (.gradBucketEmaxDone k us) s (w.sumBucket { x with eg := eg })))
      ∧ (∀ y z bs, on 0x0A → x.stage = .scatter ∨ x.stage = .gather → x.vdone = true →
          (x.eg = 0 → y = w ∧ bs = List.replicate (4 * (span.2 - span.1)) 0) →
          (x.eg ≠ 0 → Dev.vread (w.srcAg x) x.stream (x.workVa + 4 * span.1) (4 * (span.2 - span.1)) w = (y, some bs)) →
          Dev.results x span.1 span.2 (intsOf bs) (bucketEnts x.table x.bucket) y = (z, some ()) →
          Comes (.gradBucketSumDone k us) s (({ z with owned := z.owned ++ x.ownedOf } : Dev).gradNext x (some x.bucket)))
      ∧ (on 0x0A → x.stage = .value 2 → x.vdone = true → x.eg = 255 → Comes (.gradNormDone k) s
          (((d.wr rUpdNorm 0x7F800000#32).wr rXchNonfinEntry 0xFFFFFF#32).gradEnd x 2 none))
      ∧ (on 0x0A → x.stage = .value 3 → x.vdone = true → x.eg ≠ 0 → Comes (.gradNormDone k) s
          ((({ d.wr rUpdNorm (BitVec.ofNat 32 (rootOf (sInt 64 x.val).toNat (sumK x.eg d.normHead))) with normed := true } : Dev).spike
            (rootOf (sInt 64 x.val).toNat (sumK x.eg d.normHead))).xEnd x true 0))
      ∧ (∀ y z c r, on 0x0B → x.stage = .idle → d.xTurn x = true → Dev.vread (w.srcAg x) x.stream (w.recVa x) 64 w = (c, some r) → c.xBegin x = (y, z) →
          Comes (.verdict k us) s (y.startValue { z with val := y.vcode } 0 0))
      ∧ (∀ z, on 0x0B → x.stage = .value 0 → x.vdone = true →
          Dev.vwrite (w.dstAg x) x.stream (w.rd64 rXchDigestBaseLo + 64 * w.fld rXchDigestHead 5 0) (w.digEntry x.val) w = (z, some ()) →
          Comes (.verdictComplete k us) s ((z.learnVerdict x.val).xEnd x true (z.verdictWord x.val)))
      ∧ ∀ (c : Dev) (code : Nat),
          let e := c.learnVerdict code
          e.fld rXchGen 7 0 = (c.fld rXchGen 7 0 + 1) % 256 ∧ e.rd rXchVerdict = BitVec.ofNat 32 (c.verdictWord code)
            ∧ e.fld rXchDigestHead 5 0 = (c.fld rXchDigestHead 5 0 + 1) % 64 ∧ e.vcode = 0 ∧ e.stepRel = false ∧ e.owned = [] ∧ e.dig = {}
            ∧ (code = 0 → e.fld rConeStatus 0 0 = 1 ∧ e.etas = (List.range 64).map c.etaOf) ∧ (code ≠ 0 → e.etas = c.etas)
            ∧ (e.verdictWord code) % 4 = code % 4

/-- Update records and the Cone (R39, R315, R317, R330 to R332, R334, R340, Table 11.2): an accepted UPDATE's record waits for its tiles; the engine starts it with the
first row of Table 11.2 that applies; its end writes STEPDONE where its outcome does, signals and completes; the Cone's evaluation writes the 64 rates and raises
the committed step. A finite master keeps a Trim of at most 127, and a non-finite one is left as it is and counted; a plane's end is padded with zero bytes.

COMPLETES: UPDATE, UPDATE_RECORD_RUN, UPDATE_RECORD_END, CONE_EVALUATION_DONE. -/
def Obligations.UpdateResults : Prop :=
  ∀ (s : State) (h : CmdHdr) (va : BitVec 64) (b : List Byte) (g : Option Grp) (t0 n k t : Nat) (d1 : Dev) (u : UpdRun) (us : List Upset),
    let d := s.dev
    let w := d.withCodes us
    let c := (d.tile t).ctx
    let works := d.alive = true ∧ d.upds[k]? = some u ∧ d.updTile u = some t
    let v := (d.rd rXchVerdict).toNat
    let raw := CmdOp.update va unread none t0 n
    let op := CmdOp.update va b g t0 n
    (Served w h raw op d1 →
        Comes (.update h va t0 n us) s
            (((d1.handed h (packets (submOf h raw).len) op).updDispatch (d1.cmdOf h op) b g).claimAll (d1.cmdOf h op) t0 n)
          ∧ Does (.update h va t0 n us) s fun e => ∃ z ∈ e.upds, z.cmd = d1.cmdSeq ∧ z.rec_ = b ∧ z.grp = g ∧ z.stage = .waiting)
      ∧ (d.upds[k]? = none → Comes (.updateRecordRun k us) s w ∧ Comes (.updateRecordEnd k us) s w)
      ∧ (works → u.stage = .waiting → d.fld rConeStatus 0 0 = 1 → Comes (.updateRecordRun k us) s w)
      ∧ (works → u.stage = .sumsq → Comes (.updateRecordRun k us) s (w.updGo u (.tile t) c.stream c.prio))
      ∧ (works → u.stage = .waiting → d.fld rConeStatus 0 0 ≠ 1 → Comes (.updateRecordRun k us) s (w.updStart u (.tile t) c.stream c.prio))
      ∧ (∀ y bs, works → u.stage = .waiting → d.fld rConeStatus 0 0 ≠ 1 → Dev.vread (.tile t) c.stream (w.updVa u) 128 w = (y, some bs) →
          let run : UpdRun := { u with rec_ := bs }
          let r := urec bs
          let ctl := y.rd (rUpdGrpCtl r.group)
          (v / 4 % 2 = 0 → Comes (.updateRecordRun k us) s ((y.bump rUpdNotcommitSkips 1).updDone run false 0x24 255))
            ∧ (v / 4 % 2 ≠ 0 → v % 4 ≠ 0 → Comes (.updateRecordRun k us) s ((y.bump rUpdNotcommitSkips 1).updDone run false 0x24 (v % 4)))
            ∧ (v / 4 % 2 ≠ 0 → v % 4 = 0 →
                (r.done = y.rd64 rUpdStepLo → Comes (.updateRecordRun k us) s ((y.bump rUpdDupSkips 1).updDone run false 0 0))
                  ∧ (r.done ≠ y.rd64 rUpdStepLo → bitsOf ctl 31 31 = 1 → Comes (.updateRecordRun k us) s ((y.bump rUpdFrozenSkips 1).updDone run true 0 0))
                  ∧ ∀ z low, r.done ≠ y.rd64 rUpdStepLo → bitsOf ctl 31 31 ≠ 1 → Dev.starved (.tile t) c.stream r (bitsOf ctl 15 0) y = (z, some low) →
                      let st := z.updSettings r
                      let next : UpdRun := { run with stage := .sumsq, set := st.1 }
                      (low = true → Comes (.updateRecordRun k us) s ((z.bump rUpdStarvedSkips 1).updDone run true 0 0))
                        ∧ (low = false → Comes (.updateRecordRun k us) s (((z.updFlag st.2 1).setUpd next).updGo next (.tile t) c.stream c.prio))))
      ∧ (∀ cm y, works → u.stage = .written → d.cmd? u.cmd = some cm →
          (if u.mark then Dev.vwrite (.tile t) c.stream (w.updVa u + 104) (toLe 8 (d.rd64 rUpdStepLo)) w = (y, some ()) else y = w) →
          Comes (.updateRecordEnd k us) s (((y.signal (urec u.rec_).sync).updGone u cm.tiles).finishId u.cmd u.status u.detail))
      ∧ (d.fld rConeStatus 0 0 = 0 → Comes (.coneEvaluationDone us) s w)
      ∧ (d.fld rConeStatus 0 0 = 1 → Comes (.coneEvaluationDone us) s
          ({ w.coneDone with slacks := (w.coneDone.rd64 rXchSlackLo :: w.slacks).take 65535 } : Dev).budgetStart)
      ∧ (d.coneDone.rd64 rUpdStepLo = (d.rd64 rUpdStepLo + 1) % 2 ^ 64 ∧ d.coneDone.fld rConeStatus 0 0 = 0 ∧ d.coneDone.etas = []
          ∧ ∀ i, i < 64 → d.coneDone.rd (rConeGrpEta i) = (nth (0, false) d.etas i).1)
      ∧ (∀ (a : Nat) (bs : List Byte), planeEnd false a bs = bs
          ∧ ∃ m, m < 256 ∧ planeEnd true a bs = bs ++ List.replicate m 0 ∧ (a + bs.length + m) % 256 = 0)
      ∧ ∀ (m uu a bb : Nat) (tr : Int),
          (nonfin32 (m * 65536) = false → (updateElem m tr uu a bb).t.natAbs ≤ 127)
            ∧ (nonfin32 (m * 65536) = true → (updateElem m tr uu a bb).w = m ∧ (updateElem m tr uu a bb).t = tr ∧ (updateElem m tr uu a bb).nonfin = 1)

/-- Routing (R212, R222 to R225, R228, R230, R231, R235, R236, R244 to R249): a ROUTE starts the Wheels, which wait for its objects; each half ranks, tallies,
grants and dispatches, from the vectors that its exchanges brought; rows received, combined and drained; a skipped layer ends at once. Grants of a slot lie one after
the other within its room, a grant entry's bytes give it back, and the sort unit orders its rows by bucket.

COMPLETES: ROUTE, WHEEL_HALF_START, LAYER_SKIP_DECISION, TALLY_COMPLETE, GRANT_COMPLETE, DISPATCH_ROW_RECEIVE, RETURN_LAUNCH, COMBINE_CONTRIBUTION,
COMBINE_DRAIN, SORT_COMPLETE. -/
def Obligations.WheelResults : Prop :=
  ∀ (s : State) (h : CmdHdr) (va : BitVec 64) (b : List Byte) (g : Grp) (hd : List Byte) (d1 : Dev) (r n hf : Nat) (o : RouteOp) (us : List Upset),
    let d := s.dev
    let w := d.withCodes us
    let q := o.q
    let x := o.half hf
    let on : Prop := d.route? r = some o ∧ hf < 2
    let raw := CmdOp.route va unread grpNone unread
    let op := CmdOp.route va b g hd
    let due := d.halfDue o hf n = true ∧ d.wheelTakes n o.prio = true
    let again := x.stage = .ranking ∧ inSet x.starts n = true ∧ inSet x.dies n = false ∧ d.isParked (.wheel n) = false
    let o1 := o.setHalf hf { x with starts := setIns x.starts n }
    (Served w h raw op d1 →
        Comes (.route h va us) s ((d1.handed h (packets (submOf h raw).len) op).routeLaunch (d1.cmdOf h op) b g hd)
          ∧ Does (.route h va us) s fun e =>
            e.routes = d1.routes
                ++ [{ no := d1.wseq, cmd := d1.cmdSeq, stream := h.stream, prio := (d1.ring (ringG h)).prio, desc := b, grp := g, head := hd }]
              ∧ ∀ i, i < 4 → ∃ z ∈ e.waiters, z.who = .wheel d1.cmdSeq (4 + i) ∧ z.obj = (routeD b).sync + 4 + i ∧ z.thr = 1)
      ∧ (∀ src num first, d.route? r = none → hf < 2 → dieOk n = true → ∀ i ∈ [Instr.wheelHalfStart r n hf us, .layerSkipDecision r us, .tallyComplete r hf us,
          .grantComplete r hf us, .dispatchRowReceive r hf src num first us, .returnLaunch r hf us, .combineContribution r hf src num us, .combineDrain r n hf us], Comes i s w)
      ∧ (on → dieOk n = true → ¬again → ¬due → Comes (.wheelHalfStart r n hf us) s w)
      ∧ (on → dieOk n = true → again ∨ due →
          (q.back = true → Comes (.wheelHalfStart r n hf us) s ((w.setRoute o1).backHalf o1 hf n))
            ∧ (q.back = false → Comes (.wheelHalfStart r n hf us) s ((w.setRoute o1).rankHalf o1 hf n))
            ∧ ∀ y z tbl ro, q.back = false → Dev.halfReads n o1 ((w.setRoute o1).progress n (q.toks hf n).1) = (y, some tbl) →
                Dev.rankToks n o1 tbl ((List.range (q.toks hf n).2).map ((q.toks hf n).1 + ·)) {} y = (z, some ro) → ro.bad = 0 →
                Comes (.wheelHalfStart r n hf us) s
                  ((((((z.bump (rWhlTokenSkips n) ro.skips).bump (rWhlTies n) ro.ties).bump (rWhlChoiceNonfin n) ro.nonfin).bump (rWhlBadTable n) 0).wLayer o1
                    n).ranked ({ o1 with slots := slotCounts o.grp tbl }.setHalf hf
                      { x with starts := setIns x.starts n, dies := x.dies ++ [n], pairs := x.pairs ++ ro.pairs, taken := x.taken ++ ro.taken
                               stat := x.stat + ro.stat }) hf))
      ∧ (∀ y, d.route? r = some o → o.a.stage = .statistic → d.wXop o 0 .statistic = some y → y.vdone = true → y.free = true →
          sInt 64 y.val < q.lthresh →
          let o2 := o.setHalf 0 { o.a with stage := .tally, room := o.slots.map fun m => List.replicate m q.cap }
          Comes (.layerSkipDecision r us) s (((w.wDrop o 0 .statistic).setRoute o2).wLaunch o2 0 .tally))
      ∧ (∀ y, d.route? r = some o → o.a.stage = .statistic → d.wXop o 0 .statistic = some y → y.vdone = true → q.lthresh ≤ sInt 64 y.val →
          Comes (.layerSkipDecision r us) s
            (w.allWheels o 0 2 (fun m => Dev.wWrites m o.stream (zeroRows q 0 m ++ zeroRows q 1 m
                ++ (if m = 0 then o.summaries 0 [] ++ o.summaries 1 [] ++ [(0, q.lists, w.headBytes o true)] else [])))
              fun p z => (iter 8 (fun m c => c.bump (rWhlLayerSkips m) 1) (z.wDrop p 0 .statistic)).skipEnd p))
      ∧ (∀ y, on → x.stage = .tally → d.wDone o hf .tally = some y →
          let ask (p i : Nat) : Nat := field (y.vector p (4 * o.l)) (4 * i) 4
          let gr := ownGrants q o.grp.n x.round (d.grantOrder o) (nth [] x.room o.grp.self) x.used ask
          let o2 := o.setHalf hf { x with stage := .grant, mine := gr.1, used := gr.2 }
          Comes (.tallyComplete r hf us) s (((w.wDrop o hf .tally).setRoute o2).wLaunch o2 hf .grant))
      ∧ (∀ y, on → x.stage = .grant → d.wXop o hf .grant = some y → y.stage = .plain → y.hopsIn = true → d.isParked (.wheel 0) = false →
          let gs := (List.range o.grp.n).map fun p => (chunks 16 (nth 0 o.slots p) (y.vector p (16 * nth 0 o.slots p))).map grantOf
          let dv := divideAll x o.slots gs
          (q.policy ≠ 1 ∨ q.rounds ≤ x.round → Comes (.grantComplete r hf us) s (w.writeLists o hf (x.ents ++ dv.1) dv.2))
            ∧ ∀ z c, q.policy = 1 → x.round < q.rounds → y.free = true →
                Dev.candidates o (gs.map fun l => l.map (·.room)) dv.2 x.taken w = (z, some c) →
                let o2 := o.setHalf hf { x with stage := .tally, round := x.round + 1, room := gs.map (fun l => l.map (·.room)), ents := x.ents ++ dv.1
                                                pairs := c.1, taken := c.2.1 }
                Comes (.grantComplete r hf us) s ((((z.wDrop o hf .grant).countPairs rWhlDrops c.2.2).setRoute o2).wLaunch o2 hf .tally))
      ∧ (∀ src num first y e z d2, on → x.stage = .sent → d.wXop o hf .dispatch = some y → y.rowIn src (q.pin / 256) num = some e →
          let ent := sendEntOf q src e.1
          let idx := (if src = o.grp.self then o.firstEntOf hf + x.entsBefore src else first) + num
          let xr := Agent.xrecv (d.sendHalf (o.grp.node src))
          d.isParked (.wheel 0) = false → d.isParked xr = false → y.free = true → x.got.any (fun c => c.src == src && c.num == num) = false →
          (if q.back then d2 = w else
            Dev.vwrite (.wheel 0) o.stream (o.recvAt hf ent).1 (toLe 4 (o.grp.node src) ++ toLe 4 idx) (w.progress 0 ent.row) = (d2, some ())) →
          Dev.vwrite xr o.stream (o.recvAt hf ent).2 e.2 d2 = (z, some ()) →
          Comes (.dispatchRowReceive r hf src num first us) s
            (z.rowsDone (o.setHalf hf { x with got := x.got ++ [⟨src, num, idx, ent.pair.slot, ent.row, ent.bulged⟩] }) hf))
      ∧ (on → x.ret = false → x.rows = true → d.released (.wheel o.cmd (4 + hf)) = true → (hf = 1 → 8 ≤ o.a.back.length) →
          let o2 := o.setHalf hf { x with ret := true }
          Comes (.returnLaunch r hf us) s ((w.setRoute o2).wLaunch o2 hf .ret))
      ∧ (∀ src num y tag row e an z, on → d.wXop o hf .ret = some y → y.rowIn src q.retBlocks num = some (tag, row) →
          let idx := field tag 0 4
          q.back = false → o.firstEntOf hf ≤ idx → x.ents[idx - o.firstEntOf hf]? = some e → inSet x.done idx = false →
          d.combineTakes o hf e.pair.die = true →
          let o2 := o.setHalf hf { x with begun := setIns x.begun e.pair.die }
          Dev.shelfRead e.pair.die (q.anchorOff hf (q.tokIx e.pair.tok)) 2 ((w.setRoute o2).progress e.pair.die idx) = (z, some an) →
          Comes (.combineContribution r hf src num us) s
            (((z.wLayer o e.pair.die).combineRow q hf e (sInt 16 (leNat an)) row).setRoute
              (o2.setHalf hf { o2.half hf with done := setIns x.done idx })))
      ∧ (∀ y o3, on → dieOk n = true → d.allCombined o hf = true → inSet x.back n = false → d.combineTakes o hf n = true →
          let tk := q.toks hf n
          let o2 := o.setHalf hf { x with begun := setIns x.begun n }
          Dev.drainToks o hf n (((List.range tk.2).map (tk.1 + ·)).filter fun t => !inSet x.outs t) (w.setRoute o2) = (y, some ()) → y.route? r = some o3 →
          Comes (.combineDrain r n hf us) s (y.drained (o3.setHalf hf { o3.half hf with back := setIns x.back n }) hf))
      ∧ (dieOk n = true → (d.alive = false ∨ sortPick (d.sortsOn n) = none) → Comes (.sortComplete n us) s w)
      ∧ (∀ j j1 y, dieOk n = true → d.alive = true → sortPick (d.sortsOn n) = some j → d.isParked (.wheel n) = false →
          j.run = true ∨ d.wheelTakes n j.prio = true → Dev.sortRun n (2 * field j.img 24 4 + 3) { j with run := true } w = (y, j1, some ()) →
          Comes (.sortComplete n us) s
            (((((y.putSort n j none).sortPoke j1 4 (toLe 4 3)).sortShow j1).bump (rWhlSorts n) 1).signal (recSync j1.img)))
      ∧ (∀ gr : Grant, gr.grant < 2 ^ 16 → gr.base < 2 ^ 16 → gr.bgrant < 2 ^ 32 → gr.bbase < 2 ^ 32 → gr.room < 2 ^ 16 → grantOf (grantBytes gr) = gr)
      ∧ (∀ (cap room : Nat) (order : List Nat) (req : Nat → Nat), room ≤ cap →
          let gs := (grantSlot cap room order req).1
          gs.Pairwise (fun a c => a.2.1 + a.2.2 ≤ c.2.1) ∧ gs.map (·.1) = order ∧ ∀ c ∈ gs, c.2.1 + c.2.2 ≤ cap ∧ cap - room ≤ c.2.1 ∧ c.2.2 ≤ req c.1)
      ∧ ∀ cs : List Nat, (groupOrder cs).Perm (List.range cs.length)
          ∧ (groupOrder cs).Pairwise (fun a c => sortBucket (nth 0 cs c) < sortBucket (nth 0 cs a) ∨ (sortBucket (nth 0 cs c) = sortBucket (nth 0 cs a) ∧ a < c))

/-! ### Silent errors, power -/

/-- The single retry, test firing and the Craze log (R169, R365 to R368, R371 to R378, R383, R386, R387, Tables 13.3 and 13.4): a retry that passes is a TRANSIENT and
its operation goes on, one that fails charges its unit, and others that fail in the same cycle; a clean sweep moves the clean point; a firing takes both tiles of a
pair, and a difference starts the retests against a referee, which decide by majority; an entry reaches flash under the next SEQ; a lost HBM pin degrades its stack,
raises the event and counts as a failed retest.

COMPLETES: RETRY_COMPLETE, TEST_SWEEP_BOUNDARY, TEST_FIRING_START, TEST_FIRING_END, FIRING_RETEST, CRAZE_ENTRY_WRITE, HBM_LANE_FAILURE. -/
def Obligations.SilentResults : Prop :=
  ∀ (s : State) (k grp t u : Nat) (pass : Bool) (up : Upset) (also : List (Nat × Upset)) (us : List Upset) (sa sb : List (BitVec 64)) (r : Retry)
    (c : CrzEntry) (rest : List CrzEntry) (m : Referee),
    let d := s.dev
    let w := d.withCodes us
    let try_ := ({ w with retries := delNth d.retries k } : Dev).retryTry r pass up
    let off (v : Bool) : Dev := { d with fire := { d.fire with dirty := v } }
    let same := decide (sigs sa = sigs sb)
    let d1 := (d.setPassed t same).setPassed u same
    let d2 := ((d1.spoil t).bump rTstMismatches 1).pushCrz (d1.entry 3 9 ⟨.tile, t⟩ 0 (d1.fireDetail u))
    (d.retries[k]? = none → Comes (.retryComplete k pass up also us) s w)
      ∧ (d.retries[k]? = some r →
        (try_.1 = true → Comes (.retryComplete k pass up also us) s ((try_.2.transient r.check r.unit r.addr r.detail).retried r))
          ∧ (try_.1 = false → (try_.2.retryUnit r up).cls = .hostPort →
              Comes (.retryComplete k pass up also us) s ((try_.2.retryCharge r up).retryLost r))
          ∧ (try_.1 = false → (try_.2.retryUnit r up).cls ≠ .hostPort →
              Comes (.retryComplete k pass up also us) s ((((try_.2.retryCharge r up).alsoFail also).jobFatal).retryLost r)))
      ∧ (d.active = false → Comes .testSweepBoundary s d)
      ∧ (d.active = true → d.calm = true → Does .testSweepBoundary s fun e =>
          e.sweep = (d.sweep + 1) % 2 ^ 64 ∧ e.fire.step = d.rd64 rUpdStepLo ∧ e.fire.dirty = !d.firesOn ∧ e.fire.groups = []
            ∧ e.rd64 rTstCleanStepLo = (if d.sweepSound = true ∧ d.firingNow = [] then d.fire.step % 2 ^ 64 else d.rd64 rTstCleanStepLo))
      ∧ (grp < 75 → (d.active = false ∨ inSet d.fire.groups grp = true) → Comes (.testFiringStart grp) s d)
      ∧ (grp < 75 → d.active = true → inSet d.fire.groups grp = false → d.firesOn = false → Comes (.testFiringStart grp) s (off true))
      ∧ (grp < 75 → d.active = true → inSet d.fire.groups grp = false → d.firesOn = true → d.calm = true → Does (.testFiringStart grp) s fun e =>
          e.fld rTstStatus 7 0 = grp ∧ inSet e.fire.groups grp = true ∧ ∀ die i, die < 8 → i < 8 →
              let a := 600 * die + 8 * grp + i
              let b := 600 * die + 8 * grp + Nat.xor i d.fireMask
              d.fires a = true → d.fires b = true → (d.tile a).inFiring = false → (d.tile b).inFiring = false →
                ((d.tile a).ctx.run = .idle → (d.tile a).busy = .none → (e.tile a).busy = .firing b)
                  ∧ ((d.tile a).ctx.run ≠ .idle → (e.tile a).reqs = (d.tile a).reqs ++ [⟨true, b⟩]))
      ∧ (tileOk t = true → d.pairReady t = none → Comes (.testFiringEnd t sa sb) s d)
      ∧ (tileOk t = true → d.pairReady t = some u → d.fire.refs.any (fun z => z.keeps t || z.keeps u) = false →
          (same = true → Comes (.testFiringEnd t sa sb) s ((Dev.fireFree u (Dev.fireFree t d1)).lateEnd t u))
            ∧ (same = false → d2.referee (dieOf t) [t, u] = none → Comes (.testFiringEnd t sa sb) s (Dev.fireFree u (Dev.fireFree t d2)))
            ∧ ∀ f, same = false → d2.referee (dieOf t) [t, u] = some f →
                let d3 := Dev.fireAsk f t d2
                Comes (.testFiringEnd t sa sb) s { d3 with fire := { d3.fire with
                  refs := d3.fire.refs ++ [{ a := t, b := u, ref := f, ua := ⟨.tile, t⟩, ub := ⟨.tile, u⟩ }] } })
      ∧ (tileOk t = true → d.alive = true → d.fire.refs = [m] → d.taken m.ref = true →
          let diff := sigDiff sa sb
          let ma : Referee := { m with ra := some diff.isEmpty, ua := retestUnit t diff }
          let mb : Referee := { m with rb := some diff.isEmpty, ub := retestUnit t diff }
          (m.a = t → m.ref ≠ t → m.ra = none → Comes (.firingRetest t sa sb) s (({ d with fire := { d.fire with refs := [ma] } } : Dev).refDecide ma))
            ∧ (m.b = t → m.a ≠ t → m.ref ≠ t → m.rb = none →
                Comes (.firingRetest t sa sb) s (({ d with fire := { d.fire with refs := [mb] } } : Dev).refDecide mb)))
      ∧ (∀ v, tileOk t = true → d.alive = true → d.fire.refs = [m] → m.ref = t → m.ref2 = some v → d.taken v = true →
          Comes (.firingRetest t sa sb) s (d.refSettle m v (sigDiff sa sb)))
      ∧ (tileOk t = true → (d.alive = false ∨ d.fire.refs = []) → Comes (.firingRetest t sa sb) s d)
      ∧ (∀ (e : Dev) (z : Referee),
          (z.ra = none ∨ z.rb = none → e.refDecide z = e)
            ∧ (z.ra = some true → z.rb = some true → e.refDecide z = (e.refOver z).transient 9 ⟨.tile, z.a⟩ 0 (e.fireDetail z.b))
            ∧ (z.ra = some false → z.rb = some true → e.refDecide z = (e.refOver z).retestFault z.ua z.ref)
            ∧ (z.ra = some true → z.rb = some false → e.refDecide z = (e.refOver z).retestFault z.ub z.ref))
      ∧ (d.crz = [] → Comes (.crazeEntryWrite pass) s d)
      ∧ (d.crz = c :: rest → d.studio = true → d.board.fq = [] →
          (d.memOk = true → d.calm = true → Does (.crazeEntryWrite true) s fun e => e.crz = rest ∧ e.rd rCrzSeq = d.rd rCrzSeq + 1
              ∧ e.fld rCrzHead 15 0 = (d.fld rCrzHead 15 0 + 1) % 65536
              ∧ e.flashBytes (crzBase + 64 * d.fld rCrzHead 15 0) 64 = c.bytes (d.rd rCrzSeq).toNat (d.rd rBootPoweron).toNat)
            ∧ Comes (.crazeEntryWrite true) s (d.crzWrite c rest) ∧ Comes (.crazeEntryWrite false) s d.flashFail)
      ∧ ∀ stack ch pin, stack < 16 → ch < 32 → pin < 70 → d.calm = true → Does (.hbmLaneFailure stack ch pin) s fun e =>
          e.fld (rHbmStatus stack) 3 3 = 1 ∧ e.pendBit 3 = true ∧ (stack, ch) ∈ e.chans ∧ e.retests = d.retests ++ [⟨.hbmLane, 2240 * stack + 70 * ch + pin⟩]

/-- Power, supply and temperature (R391, R392, R394, R397, R402, R404, R407 to R411): a bin takes the window's budget from its measured power; the fast limit
lowers D by one; an excursion holds the budget at the cap; issue windows bring a row its duty over 16 windows, exactly; shifts, droops, dips, throttle and
shutdown. The knobs of a budget model no more than it allows above the floors, but for one step of each knob.

COMPLETES: POWER_SAMPLE, KILN_BIN, EXCURSION_LIMIT, DUTY_WINDOW, BUDGET_SHIFT_APPLY, WAVE_ROW_RELEASE, DROOP_DETECT, DROOP_END, VIN_WARNING,
VIN_RECOVER, VIN_DEEP, VIN_DEEP_EXPIRY, VIN_HOLD_EXPIRY, THERMAL_SAMPLE. -/
def Obligations.PowerResults : Prop :=
  ∀ (s : State) (w avg mv dd row : Nat) (tj hbm : List Nat), s.dev.calm = true →
    let d := s.dev
    let b := d.board
    let g := 16 * dd + row
    let st (e : Dev) (i : Nat) := e.fld rKlnStatus i i
    let j := (hottest tj).2
    let hh := (hottest hbm).2
    (b.pgood = false → Comes (.kilnBin w) s d ∧ Comes (.powerSample w avg) s d ∧ Comes .excursionLimit s d ∧ Comes (.thermalSample tj hbm) s d)
      ∧ (b.pgood = true → w < 65536 → Does (.kilnBin w) s fun e =>
        e.fld rKlnPin 15 0 = w ∧ e.kiln.bins = (w :: d.kiln.bins).take 8000
          ∧ (d.kiln.lim = none → d.kiln.hot = false → d.kiln.exc = false →
              e.kiln.t = clampBudget (((d.capEff * d.window : Nat) : Int) - (sumL ((w :: d.kiln.bins).take (d.window - 1)) : Nat) - ((w : Int) - (d.kiln.model : Int)))))
      ∧ (b.pgood = true →
          (avg < 4700 → d.capEff < w → Comes (.powerSample w avg) s (d.setFld rKlnStatus 2 2 0))
            ∧ (avg < 4700 → w ≤ d.capEff → Does (.powerSample w avg) s fun e => e.kiln.exc = false ∧ st e 3 = 0 ∧ st e 2 = 0)
            ∧ (4700 ≤ avg → Does (.powerSample w avg) s fun e => e.knobs.duty = max 1 (d.knobs.duty - 1) ∧ st e 2 = 1)
            ∧ (d.kiln.exc = true → Comes .excursionLimit s d)
            ∧ (d.kiln.exc = false → Does .excursionLimit s fun e => e.kiln.exc = true ∧ st e 3 = 1 ∧ e.kiln.t = min d.kiln.t d.capEff
                ∧ e.rd rKlnExcursions = satAdd (d.rd rKlnExcursions) 1 ∧ e.fld rKlnSetpoint 7 0 = d.fld rKlnSetpoint 7 0))
      ∧ (dd < 8 → row < 16 →
          (Does (.dutyWindow dd row) s fun e => SMap.get 4 e.caps g = windowLevel (d.rowDuty g) (SMap.get 0 d.kiln.wins g)
              ∧ SMap.get 0 e.kiln.wins g = SMap.get 0 d.kiln.wins g + 1 ∧ ∀ x, x ≠ g → SMap.get 4 e.caps x = SMap.get 4 d.caps x)
            ∧ Comes (.waveRowRelease dd row) s (({ d with kiln := { d.kiln with lift := setDel d.kiln.lift g } } : Dev).releaseRow g))
      ∧ ((d.alive = false ∨ d.xop? (2 ^ 25) = none) → Comes .budgetShiftApply s d)
      ∧ (∀ x, d.alive = true → d.xop? (2 ^ 25) = some x → x.vdone = true → x.free = true →
          let h := x.val % 2 ^ 32
          let z := x.val / 2 ^ 32 % 2 ^ 32
          let cap := d.fld rKlnCapEff 11 0
          let v := d.fld rKlnShiftW 11 0
          let c1 := if x.base % 2 = 1 then cap - v else cap
          let c2 := if x.base / 2 = 1 then c1 + min (h * v / z) (4000 - c1) else c1
          ((h = 0 ∨ z = 0) → Comes .budgetShiftApply s (d.xEnd x false 0))
            ∧ (h ≠ 0 → z ≠ 0 → Comes .budgetShiftApply s (((d.xEnd x false 0).setFld rKlnCapEff 11 0 c2).bump rKlnShifts 1)))
      ∧ (dd < 8 →
          (d.droops dd mv = false → Comes (.droopDetect dd mv) s d)
            ∧ (inSet d.kiln.slow dd = false → d.droops dd mv = true → Does (.droopDetect dd mv) s fun e => inSet e.kiln.slow dd = true
              ∧ e.rd (rKlnDroopEvents dd) = satAdd (d.rd (rKlnDroopEvents dd)) 1)
            ∧ (inSet d.kiln.slow dd = false → Comes (.droopEnd dd w) s d)
            ∧ (inSet d.kiln.slow dd = true → Comes (.droopDetect dd mv) s d ∧ Does (.droopEnd dd w) s fun e => inSet e.kiln.slow dd = false
              ∧ e.rd (rKlnDroopCycles dd) = satAdd (d.rd (rKlnDroopCycles dd)) w))
      ∧ (42000 ≤ mv → Comes (.vinWarning mv) s d)
      ∧ (mv < 42000 → b.dip = false → b.pgood = true → Does (.vinWarning mv) s fun e => st e 5 = 1 ∧ e.knobs.duty = min d.knobs.duty 16
          ∧ e.pendBit 2 = true ∧ e.rd rKlnVinWarn = satAdd (d.rd rKlnVinWarn) 1 ∧ ∀ x, x < 128 → SMap.get 4 e.caps x ≤ 1)
      ∧ (38000 ≤ mv → Comes (.vinDeep mv) s d)
      ∧ (mv < 38000 → Does (.vinDeep mv) s fun e => e.board.deep = true ∧ e.board.dip = true)
      ∧ (b.deep = false ∨ b.standby = false → Comes .vinDeepExpiry s d)
      ∧ (b.deep = true → b.standby = true → Does .vinDeepExpiry s fun e => e.board.cause = 3 ∧ e.bootStage = 0 ∧ e.mem = [] ∧ e.tiles = [] ∧ e.cmds = []
          ∧ e.board.flash = b.flash)
      ∧ (mv ≤ 42500 → Comes (.vinRecover mv) s d)
      ∧ (42500 < mv →
          (b.deep = true → d.bootStage ≠ 0 → Does (.vinRecover mv) s fun e => e.board.deep = false ∧ e.board.dip = false ∧ e.board.hold = true
              ∧ e.rd rKlnVinDeep = satAdd (d.rd rKlnVinDeep) 1 ∧ st e 5 = st d 5)
            ∧ (b.deep = false → b.hold = false → Does (.vinRecover mv) s fun e => e.board.dip = false ∧ st e 5 = 0))
      ∧ (b.hold = false ∨ b.dip = true → Comes .vinHoldExpiry s d)
      ∧ (b.hold = true → b.dip = false → Does .vinHoldExpiry s fun e => e.board.hold = false ∧ st e 5 = 0)
      ∧ (b.pgood = true → j < 110 → hh < 105 →
          (95 ≤ j ∨ 95 ≤ hh → st d 4 = 0 → Does (.thermalSample tj hbm) s fun e => st e 4 = 1 ∧ e.pendBit 1 = true ∧ e.kiln.hot = true
              ∧ e.rd rKlnThermThrottles = satAdd (d.rd rKlnThermThrottles) 1 ∧ e.fld rKlnTj 7 0 = j)
            ∧ (j < 92 → hh < 92 → d.kiln.lim = none → Does (.thermalSample tj hbm) s fun e => st e 4 = 0 ∧ e.kiln.hot = false ∧ e.kiln.cool = true))
      ∧ (b.pgood = true → d.kiln.shut = true → 110 ≤ j ∨ 105 ≤ hh → Does (.thermalSample tj hbm) s fun e => e.board.rails = false ∧ e.board.barred = true
          ∧ st e 8 = 1 ∧ (e.rd rModAlert).getLsbD 0 = true ∧ e.mem = [])
      ∧ (∀ duty f, sumL ((List.range 16).map fun i => windowLevel duty (f + i)) = duty)
      ∧ ∀ (order : List Nat) (dyn bud : Nat), order.Perm [0, 1, 2] → modelled dyn (knobsOf order dyn bud) ≤ max bud 990 + 150 / 16 + 352 / 16 + dyn / 64

/-! ### Words and flits -/

/-- Words of a tile program (R80, R100, R108, R126, R441, R529): the word that the encoding tables give a well-formed instruction, met by no upset, stands for that
instruction again, every operand at every value that its field admits; a DMALAUNCH's word does so with the KIND of the record it names. -/
def Obligations.TileWords : Prop :=
  ∀ (i : Instr) (t k : Nat) (w : BitVec 64), WellFormed.wf i = true → tileWordOf i = some (t, w) → kindFits k i = true → tileCommand t k w = i

/-- Flits of a link (R258, Tables 9.2 to 9.5): the flits of a command that came intact, with whatever follows them in the stream, stand for that command again and
leave what follows; a HEAD takes its data flits with it. -/
def Obligations.LinkFlits : Prop :=
  ∀ (p : Nat) (f : Frame) (l : LinkF) (ep origin : BitVec 16) (cause : BitVec 8),
    let back (i : Instr) : Prop := ∀ (ls rest : List (List Byte)), flitsOf i = some ls → linkFits i = true → flitsTake p {} .clean [] (ls ++ rest) = some (i, rest)
    back (.idle p {}) ∧ back (.head p f) ∧ back (.link p l) ∧ back (.hold p f) ∧ back (.resume p f) ∧ back (.barrier p f) ∧ back (.xcredit p f [])
      ∧ back (.reread p f .clean []) ∧ back (.abortFlit p ep origin cause true {})

end Statements
end

