-- ==== Sys2Proof/Laws/Maps.lean ====
section
/-!
SUPPORT. Sparse maps read what was last written; a memory reads after a write what the write put there, and every write keeps its canonical form.
-/

namespace Sys2Proof.Machine

/-! ### Sparse maps -/

@[simp] theorem SMap.get_nil {α : Type} (d : α) (i : Nat) : SMap.get d ([] : SMap α) i = d := rfl

theorem SMap.get_set {α : Type} (d : α) (m : SMap α) (i j : Nat) (a : α) :
    SMap.get d (SMap.set m i a) j = if j = i then a else SMap.get d m j := by
  induction m with
  | nil => simp [SMap.set, SMap.get]
  | cons p m ih =>
    obtain ⟨k, v⟩ := p
    simp only [SMap.set]
    split
    · subst_vars; simp only [SMap.get]; split <;> rfl
    · split
      · simp only [SMap.get]
      · simp only [SMap.get, ih]
        split
        · rename_i h1 _ h2; subst h2; rw [if_neg (fun h => h1 h.symm)]
        · rfl

@[simp] theorem SMap.get_set_same {α : Type} (d : α) (m : SMap α) (i : Nat) (a : α) : SMap.get d (SMap.set m i a) i = a := by
  simp [SMap.get_set]

theorem SMap.get_set_other {α : Type} (d : α) (m : SMap α) {i j : Nat} (a : α) (h : j ≠ i) :
    SMap.get d (SMap.set m i a) j = SMap.get d m j := by
  simp [SMap.get_set, h]

theorem SMap.get_del {α : Type} (d : α) (m : SMap α) (i j : Nat) :
    SMap.get d (SMap.del m i) j = if j = i then d else SMap.get d m j := by
  induction m with
  | nil => simp [SMap.del, SMap.get]
  | cons p m ih =>
    obtain ⟨k, v⟩ := p
    simp only [SMap.del]
    by_cases h : i = k
    · subst h
      simp only [if_true, ih, SMap.get]
      split <;> rfl
    · simp only [if_neg h, SMap.get, ih]
      by_cases h2 : j = k
      · subst h2; rw [if_pos rfl, if_neg (fun h' => h h'.symm), if_pos rfl]
      · simp [h2]

/-! ### Byte memories: reads after writes -/

theorem Mem.get_below {d : Byte} {lo : Nat} {m : Mem} (h : Mem.wfFrom d lo m = true) {i : Nat} (hi : i < lo) : Mem.get d m i = d := by
  induction m generalizing lo with
  | nil => rfl
  | cons p m ih =>
    obtain ⟨k, v⟩ := p
    simp only [Mem.wfFrom, Bool.and_eq_true, decide_eq_true_eq] at h
    simp only [Mem.get]
    rw [if_neg (by omega)]
    exact ih h.2 (by omega)

theorem Mem.get_set (d : Byte) {m : Mem} {lo : Nat} (h : Mem.wfFrom d lo m = true) (i j : Nat) (b : Byte) :
    Mem.get d (Mem.set d m i b) j = if j = i then b else Mem.get d m j := by
  induction m generalizing lo with
  | nil =>
    simp only [Mem.set]
    split
    · simp_all [Mem.get]
    · simp [Mem.get]
  | cons p m ih =>
    obtain ⟨k, v⟩ := p
    simp only [Mem.wfFrom, Bool.and_eq_true, decide_eq_true_eq] at h
    simp only [Mem.set]
    by_cases h1 : i = k
    · subst h1
      simp only [if_true]
      split
      · subst_vars
        simp only [Mem.get]
        by_cases h2 : j = i
        · subst h2; simp [Mem.get_below h.2 (Nat.lt_succ_self j)]
        · simp [h2]
      · simp only [Mem.get]; split <;> rfl
    · simp only [if_neg h1]
      by_cases h2 : i < k
      · simp only [if_pos h2]
        split
        · subst_vars
          by_cases h3 : j = i
          · subst h3; simp only [Mem.get, if_true, if_neg h1]
            exact Mem.get_below h.2 (by omega)
          · simp [h3]
        · simp [Mem.get]
      · simp only [if_neg h2, Mem.get, ih h.2]
        by_cases h3 : j = k
        · subst h3; rw [if_pos rfl, if_neg (fun h' => h1 h'.symm), if_pos rfl]
        · simp [h3]

/-! ### The canonical form -/

theorem Mem.wfFrom_mono {d : Byte} {lo lo' : Nat} {m : Mem} (h : Mem.wfFrom d lo m = true) (hl : lo' ≤ lo) : Mem.wfFrom d lo' m = true := by
  cases m with
  | nil => rfl
  | cons p m =>
    simp only [Mem.wfFrom, Bool.and_eq_true, decide_eq_true_eq] at h ⊢
    exact ⟨⟨by omega, h.1.2⟩, h.2⟩

theorem Mem.wfFrom_set {d : Byte} {lo : Nat} {m : Mem} (h : Mem.wfFrom d lo m = true) {i : Nat} (hi : lo ≤ i) (b : Byte) :
    Mem.wfFrom d lo (Mem.set d m i b) = true := by
  induction m generalizing lo with
  | nil =>
    simp only [Mem.set]
    split
    · rfl
    · rename_i hb; simp [Mem.wfFrom, hi, hb]
  | cons p m ih =>
    obtain ⟨k, v⟩ := p
    simp only [Mem.wfFrom, Bool.and_eq_true, decide_eq_true_eq] at h
    simp only [Mem.set]
    split
    · subst_vars
      split
      · exact Mem.wfFrom_mono h.2 (by omega)
      · rename_i hb; simp [Mem.wfFrom, h.1.1, hb, h.2]
    · split
      · split
        · simp [Mem.wfFrom, h.1, h.2]
        · rename_i h1 h2 hb
          have h3 : i + 1 ≤ k := by omega
          simp [Mem.wfFrom, hi, hb, h3, h.1.2, h.2]
      · have h3 : k + 1 ≤ i := by omega
        simp [Mem.wfFrom, h.1, ih h.2 h3]

/-- Writing one byte keeps the canonical form. -/
theorem Mem.wf_set {d : Byte} {m : Mem} (h : Mem.wf d m = true) (i : Nat) (b : Byte) : Mem.wf d (Mem.set d m i b) = true :=
  Mem.wfFrom_set h (Nat.zero_le i) b

/-- Writing bytes keeps the canonical form. -/
theorem Mem.wf_write {d : Byte} {m : Mem} (h : Mem.wf d m = true) (a : Nat) (bs : List Byte) : Mem.wf d (Mem.write d m a bs) = true := by
  induction bs generalizing m a with
  | nil => exact h
  | cons b bs ih => exact ih (Mem.wf_set h a b) (a + 1)

/-- Writing bytes that wrap keeps the canonical form. -/
theorem Mem.wf_writeMod {d : Byte} {m : Mem} (w : Nat) (h : Mem.wf d m = true) (a : Nat) (bs : List Byte) :
    Mem.wf d (Mem.writeMod d w m a bs) = true := by
  induction bs generalizing m a with
  | nil => exact h
  | cons b bs ih => exact ih (Mem.wf_set h (a % w) b) (a + 1)

/-- Dropping listed bytes keeps the canonical form (a block of flash that is erased). -/
theorem Mem.wfFrom_filter {d : Byte} {lo : Nat} {m : Mem} (p : Nat × BitVec 8 → Bool) (h : Mem.wfFrom d lo m = true) :
    Mem.wfFrom d lo (m.filter p) = true := by
  induction m generalizing lo with
  | nil => rfl
  | cons x m ih =>
    obtain ⟨k, v⟩ := x
    simp only [Mem.wfFrom, Bool.and_eq_true, decide_eq_true_eq] at h
    have h2 := ih h.2
    by_cases hp : p (k, v) = true
    · simp [List.filter, hp, Mem.wfFrom, h.1, h2]
    · simp only [Bool.not_eq_true] at hp
      simp only [List.filter, hp]
      exact Mem.wfFrom_mono h2 (by omega)

/-- A byte after a write of bytes: the byte written there, or what stood there. -/
theorem Mem.get_write {d : Byte} {m : Mem} (h : Mem.wf d m = true) (a : Nat) (bs : List Byte) (j : Nat) :
    Mem.get d (Mem.write d m a bs) j = if a ≤ j ∧ j < a + bs.length then bs[j - a]?.getD d else Mem.get d m j := by
  induction bs generalizing m a with
  | nil => rw [if_neg (by simp only [List.length_nil]; omega)]; rfl
  | cons b bs ih =>
    have hs := ih (Mem.wf_set h a b) (a + 1)
    simp only [Mem.write, hs, List.length_cons]
    by_cases h1 : j = a
    · subst h1
      rw [if_neg (by omega), if_pos (by omega), Mem.get_set d h]
      simp
    · rw [Mem.get_set d h, if_neg h1]
      by_cases h2 : a + 1 ≤ j ∧ j < a + 1 + bs.length
      · rw [if_pos h2, if_pos (by omega)]
        obtain ⟨n, hn⟩ : ∃ n, j - a = n + 1 := ⟨j - a - 1, by omega⟩
        have h3 : j - (a + 1) = n := by omega
        rw [hn, h3]; rfl
      · rw [if_neg h2, if_neg (by omega)]

end Sys2Proof.Machine
end

