-- ==== Sys2Proof/Laws/State.lean ====
section
/-!
SUPPORT. One lemma per field and per update of the device: what the update leaves unchanged, so that no proof unfolds a record update.
-/

namespace Sys2Proof.Machine

/-! ### What a register write leaves -/

@[simp] theorem Dev.wr_latch (d : Dev) (off : Nat) (v : Word) : (d.wr off v).latch = d.latch := rfl
@[simp] theorem Dev.wr_stage (d : Dev) (off : Nat) (v : Word) : (d.wr off v).stage = d.stage := rfl
@[simp] theorem Dev.wr_mem (d : Dev) (off : Nat) (v : Word) : (d.wr off v).mem = d.mem := rfl
@[simp] theorem Dev.wr_bad (d : Dev) (off : Nat) (v : Word) : (d.wr off v).bad = d.bad := rfl
@[simp] theorem Dev.wr_wback (d : Dev) (off : Nat) (v : Word) : (d.wr off v).wback = d.wback := rfl
@[simp] theorem Dev.wr_retired (d : Dev) (off : Nat) (v : Word) : (d.wr off v).retired = d.retired := rfl
@[simp] theorem Dev.wr_chans (d : Dev) (off : Nat) (v : Word) : (d.wr off v).chans = d.chans := rfl
@[simp] theorem Dev.wr_sync (d : Dev) (off : Nat) (v : Word) : (d.wr off v).sync = d.sync := rfl
@[simp] theorem Dev.wr_waiters (d : Dev) (off : Nat) (v : Word) : (d.wr off v).waiters = d.waiters := rfl
@[simp] theorem Dev.wr_tlbT (d : Dev) (off : Nat) (v : Word) : (d.wr off v).tlbT = d.tlbT := rfl
@[simp] theorem Dev.wr_tlbD (d : Dev) (off : Nat) (v : Word) : (d.wr off v).tlbD = d.tlbD := rfl
@[simp] theorem Dev.wr_faults (d : Dev) (off : Nat) (v : Word) : (d.wr off v).faults = d.faults := rfl
@[simp] theorem Dev.wr_parks (d : Dev) (off : Nat) (v : Word) : (d.wr off v).parks = d.parks := rfl
@[simp] theorem Dev.wr_nextId (d : Dev) (off : Nat) (v : Word) : (d.wr off v).nextId = d.nextId := rfl
@[simp] theorem Dev.wr_dma (d : Dev) (off : Nat) (v : Word) : (d.wr off v).dma = d.dma := rfl
@[simp] theorem Dev.wr_dmaSeq (d : Dev) (off : Nat) (v : Word) : (d.wr off v).dmaSeq = d.dmaSeq := rfl
@[simp] theorem Dev.wr_caps (d : Dev) (off : Nat) (v : Word) : (d.wr off v).caps = d.caps := rfl
@[simp] theorem Dev.wr_tiles (d : Dev) (off : Nat) (v : Word) : (d.wr off v).tiles = d.tiles := rfl
@[simp] theorem Dev.wr_rings (d : Dev) (off : Nat) (v : Word) : (d.wr off v).rings = d.rings := rfl
@[simp] theorem Dev.wr_cmds (d : Dev) (off : Nat) (v : Word) : (d.wr off v).cmds = d.cmds := rfl
@[simp] theorem Dev.wr_cmdSeq (d : Dev) (off : Nat) (v : Word) : (d.wr off v).cmdSeq = d.cmdSeq := rfl
@[simp] theorem Dev.wr_rr (d : Dev) (off : Nat) (v : Word) : (d.wr off v).rr = d.rr := rfl
@[simp] theorem Dev.wr_evc (d : Dev) (off : Nat) (v : Word) : (d.wr off v).evc = d.evc := rfl
@[simp] theorem Dev.wr_ports (d : Dev) (off : Nat) (v : Word) : (d.wr off v).ports = d.ports := rfl
@[simp] theorem Dev.wr_retries (d : Dev) (off : Nat) (v : Word) : (d.wr off v).retries = d.retries := rfl
@[simp] theorem Dev.wr_quar (d : Dev) (off : Nat) (v : Word) : (d.wr off v).quar = d.quar := rfl
@[simp] theorem Dev.wr_retests (d : Dev) (off : Nat) (v : Word) : (d.wr off v).retests = d.retests := rfl
@[simp] theorem Dev.wr_repair (d : Dev) (off : Nat) (v : Word) : (d.wr off v).repair = d.repair := rfl
@[simp] theorem Dev.wr_sites (d : Dev) (off : Nat) (v : Word) : (d.wr off v).sites = d.sites := rfl
@[simp] theorem Dev.wr_absent (d : Dev) (off : Nat) (v : Word) : (d.wr off v).absent = d.absent := rfl
@[simp] theorem Dev.wr_key (d : Dev) (off : Nat) (v : Word) : (d.wr off v).key = d.key := rfl
@[simp] theorem Dev.wr_crz (d : Dev) (off : Nat) (v : Word) : (d.wr off v).crz = d.crz := rfl
@[simp] theorem Dev.wr_aborts (d : Dev) (off : Nat) (v : Word) : (d.wr off v).aborts = d.aborts := rfl
@[simp] theorem Dev.wr_fabs (d : Dev) (off : Nat) (v : Word) : (d.wr off v).fabs = d.fabs := rfl
@[simp] theorem Dev.wr_inbox (d : Dev) (off : Nat) (v : Word) : (d.wr off v).inbox = d.inbox := rfl
@[simp] theorem Dev.wr_inSeq (d : Dev) (off : Nat) (v : Word) : (d.wr off v).inSeq = d.inSeq := rfl
@[simp] theorem Dev.wr_xops (d : Dev) (off : Nat) (v : Word) : (d.wr off v).xops = d.xops := rfl
@[simp] theorem Dev.wr_xSeq (d : Dev) (off : Nat) (v : Word) : (d.wr off v).xSeq = d.xSeq := rfl
@[simp] theorem Dev.wr_closedX (d : Dev) (off : Nat) (v : Word) : (d.wr off v).closedX = d.closedX := rfl
@[simp] theorem Dev.wr_bars (d : Dev) (off : Nat) (v : Word) : (d.wr off v).bars = d.bars := rfl
@[simp] theorem Dev.wr_vcode (d : Dev) (off : Nat) (v : Word) : (d.wr off v).vcode = d.vcode := rfl
@[simp] theorem Dev.wr_endB (d : Dev) (off : Nat) (v : Word) : (d.wr off v).endB = d.endB := rfl
@[simp] theorem Dev.wr_normEnd (d : Dev) (off : Nat) (v : Word) : (d.wr off v).normEnd = d.normEnd := rfl
@[simp] theorem Dev.wr_normed (d : Dev) (off : Nat) (v : Word) : (d.wr off v).normed = d.normed := rfl
@[simp] theorem Dev.wr_stepRel (d : Dev) (off : Nat) (v : Word) : (d.wr off v).stepRel = d.stepRel := rfl
@[simp] theorem Dev.wr_owned (d : Dev) (off : Nat) (v : Word) : (d.wr off v).owned = d.owned := rfl
@[simp] theorem Dev.wr_slacks (d : Dev) (off : Nat) (v : Word) : (d.wr off v).slacks = d.slacks := rfl
@[simp] theorem Dev.wr_etas (d : Dev) (off : Nat) (v : Word) : (d.wr off v).etas = d.etas := rfl
@[simp] theorem Dev.wr_dig (d : Dev) (off : Nat) (v : Word) : (d.wr off v).dig = d.dig := rfl
@[simp] theorem Dev.wr_routes (d : Dev) (off : Nat) (v : Word) : (d.wr off v).routes = d.routes := rfl
@[simp] theorem Dev.wr_early (d : Dev) (off : Nat) (v : Word) : (d.wr off v).early = d.early := rfl
@[simp] theorem Dev.wr_sorts (d : Dev) (off : Nat) (v : Word) : (d.wr off v).sorts = d.sorts := rfl
@[simp] theorem Dev.wr_wseq (d : Dev) (off : Nat) (v : Word) : (d.wr off v).wseq = d.wseq := rfl
@[simp] theorem Dev.wr_upds (d : Dev) (off : Nat) (v : Word) : (d.wr off v).upds = d.upds := rfl
@[simp] theorem Dev.wr_board (d : Dev) (off : Nat) (v : Word) : (d.wr off v).board = d.board := rfl
@[simp] theorem Dev.wr_kiln (d : Dev) (off : Nat) (v : Word) : (d.wr off v).kiln = d.kiln := rfl
@[simp] theorem Dev.wr_fire (d : Dev) (off : Nat) (v : Word) : (d.wr off v).fire = d.fire := rfl
@[simp] theorem Dev.wr_out (d : Dev) (off : Nat) (v : Word) : (d.wr off v).out = d.out := rfl
@[simp] theorem Dev.wr_cc (d : Dev) (off : Nat) (v : Word) : (d.wr off v).cc = d.cc := rfl
@[simp] theorem Dev.wr_cyc (d : Dev) (off : Nat) (v : Word) : (d.wr off v).cyc = d.cyc := rfl
@[simp] theorem Dev.wr_us (d : Dev) (off : Nat) (v : Word) : (d.wr off v).us = d.us := rfl
@[simp] theorem Dev.wr_free (d : Dev) (off : Nat) (v : Word) : (d.wr off v).free = d.free := rfl
@[simp] theorem Dev.wr_codes (d : Dev) (off : Nat) (v : Word) : (d.wr off v).codes = d.codes := rfl

/-! ### What sending something out leaves -/

@[simp] theorem Dev.emit_regs (d : Dev) (o : Out) : (d.emit o).regs = d.regs := rfl
@[simp] theorem Dev.emit_latch (d : Dev) (o : Out) : (d.emit o).latch = d.latch := rfl
@[simp] theorem Dev.emit_stage (d : Dev) (o : Out) : (d.emit o).stage = d.stage := rfl
@[simp] theorem Dev.emit_mem (d : Dev) (o : Out) : (d.emit o).mem = d.mem := rfl
@[simp] theorem Dev.emit_bad (d : Dev) (o : Out) : (d.emit o).bad = d.bad := rfl
@[simp] theorem Dev.emit_wback (d : Dev) (o : Out) : (d.emit o).wback = d.wback := rfl
@[simp] theorem Dev.emit_retired (d : Dev) (o : Out) : (d.emit o).retired = d.retired := rfl
@[simp] theorem Dev.emit_chans (d : Dev) (o : Out) : (d.emit o).chans = d.chans := rfl
@[simp] theorem Dev.emit_sync (d : Dev) (o : Out) : (d.emit o).sync = d.sync := rfl
@[simp] theorem Dev.emit_waiters (d : Dev) (o : Out) : (d.emit o).waiters = d.waiters := rfl
@[simp] theorem Dev.emit_tlbT (d : Dev) (o : Out) : (d.emit o).tlbT = d.tlbT := rfl
@[simp] theorem Dev.emit_tlbD (d : Dev) (o : Out) : (d.emit o).tlbD = d.tlbD := rfl
@[simp] theorem Dev.emit_faults (d : Dev) (o : Out) : (d.emit o).faults = d.faults := rfl
@[simp] theorem Dev.emit_parks (d : Dev) (o : Out) : (d.emit o).parks = d.parks := rfl
@[simp] theorem Dev.emit_nextId (d : Dev) (o : Out) : (d.emit o).nextId = d.nextId := rfl
@[simp] theorem Dev.emit_dma (d : Dev) (o : Out) : (d.emit o).dma = d.dma := rfl
@[simp] theorem Dev.emit_dmaSeq (d : Dev) (o : Out) : (d.emit o).dmaSeq = d.dmaSeq := rfl
@[simp] theorem Dev.emit_caps (d : Dev) (o : Out) : (d.emit o).caps = d.caps := rfl
@[simp] theorem Dev.emit_tiles (d : Dev) (o : Out) : (d.emit o).tiles = d.tiles := rfl
@[simp] theorem Dev.emit_rings (d : Dev) (o : Out) : (d.emit o).rings = d.rings := rfl
@[simp] theorem Dev.emit_cmds (d : Dev) (o : Out) : (d.emit o).cmds = d.cmds := rfl
@[simp] theorem Dev.emit_cmdSeq (d : Dev) (o : Out) : (d.emit o).cmdSeq = d.cmdSeq := rfl
@[simp] theorem Dev.emit_rr (d : Dev) (o : Out) : (d.emit o).rr = d.rr := rfl
@[simp] theorem Dev.emit_evc (d : Dev) (o : Out) : (d.emit o).evc = d.evc := rfl
@[simp] theorem Dev.emit_ports (d : Dev) (o : Out) : (d.emit o).ports = d.ports := rfl
@[simp] theorem Dev.emit_retries (d : Dev) (o : Out) : (d.emit o).retries = d.retries := rfl
@[simp] theorem Dev.emit_quar (d : Dev) (o : Out) : (d.emit o).quar = d.quar := rfl
@[simp] theorem Dev.emit_retests (d : Dev) (o : Out) : (d.emit o).retests = d.retests := rfl
@[simp] theorem Dev.emit_repair (d : Dev) (o : Out) : (d.emit o).repair = d.repair := rfl
@[simp] theorem Dev.emit_sites (d : Dev) (o : Out) : (d.emit o).sites = d.sites := rfl
@[simp] theorem Dev.emit_absent (d : Dev) (o : Out) : (d.emit o).absent = d.absent := rfl
@[simp] theorem Dev.emit_key (d : Dev) (o : Out) : (d.emit o).key = d.key := rfl
@[simp] theorem Dev.emit_crz (d : Dev) (o : Out) : (d.emit o).crz = d.crz := rfl
@[simp] theorem Dev.emit_aborts (d : Dev) (o : Out) : (d.emit o).aborts = d.aborts := rfl
@[simp] theorem Dev.emit_fabs (d : Dev) (o : Out) : (d.emit o).fabs = d.fabs := rfl
@[simp] theorem Dev.emit_inbox (d : Dev) (o : Out) : (d.emit o).inbox = d.inbox := rfl
@[simp] theorem Dev.emit_inSeq (d : Dev) (o : Out) : (d.emit o).inSeq = d.inSeq := rfl
@[simp] theorem Dev.emit_xops (d : Dev) (o : Out) : (d.emit o).xops = d.xops := rfl
@[simp] theorem Dev.emit_xSeq (d : Dev) (o : Out) : (d.emit o).xSeq = d.xSeq := rfl
@[simp] theorem Dev.emit_closedX (d : Dev) (o : Out) : (d.emit o).closedX = d.closedX := rfl
@[simp] theorem Dev.emit_bars (d : Dev) (o : Out) : (d.emit o).bars = d.bars := rfl
@[simp] theorem Dev.emit_vcode (d : Dev) (o : Out) : (d.emit o).vcode = d.vcode := rfl
@[simp] theorem Dev.emit_endB (d : Dev) (o : Out) : (d.emit o).endB = d.endB := rfl
@[simp] theorem Dev.emit_normEnd (d : Dev) (o : Out) : (d.emit o).normEnd = d.normEnd := rfl
@[simp] theorem Dev.emit_normed (d : Dev) (o : Out) : (d.emit o).normed = d.normed := rfl
@[simp] theorem Dev.emit_stepRel (d : Dev) (o : Out) : (d.emit o).stepRel = d.stepRel := rfl
@[simp] theorem Dev.emit_owned (d : Dev) (o : Out) : (d.emit o).owned = d.owned := rfl
@[simp] theorem Dev.emit_slacks (d : Dev) (o : Out) : (d.emit o).slacks = d.slacks := rfl
@[simp] theorem Dev.emit_etas (d : Dev) (o : Out) : (d.emit o).etas = d.etas := rfl
@[simp] theorem Dev.emit_dig (d : Dev) (o : Out) : (d.emit o).dig = d.dig := rfl
@[simp] theorem Dev.emit_routes (d : Dev) (o : Out) : (d.emit o).routes = d.routes := rfl
@[simp] theorem Dev.emit_early (d : Dev) (o : Out) : (d.emit o).early = d.early := rfl
@[simp] theorem Dev.emit_sorts (d : Dev) (o : Out) : (d.emit o).sorts = d.sorts := rfl
@[simp] theorem Dev.emit_wseq (d : Dev) (o : Out) : (d.emit o).wseq = d.wseq := rfl
@[simp] theorem Dev.emit_upds (d : Dev) (o : Out) : (d.emit o).upds = d.upds := rfl
@[simp] theorem Dev.emit_board (d : Dev) (o : Out) : (d.emit o).board = d.board := rfl
@[simp] theorem Dev.emit_kiln (d : Dev) (o : Out) : (d.emit o).kiln = d.kiln := rfl
@[simp] theorem Dev.emit_fire (d : Dev) (o : Out) : (d.emit o).fire = d.fire := rfl
@[simp] theorem Dev.emit_cc (d : Dev) (o : Out) : (d.emit o).cc = d.cc := rfl
@[simp] theorem Dev.emit_cyc (d : Dev) (o : Out) : (d.emit o).cyc = d.cyc := rfl
@[simp] theorem Dev.emit_us (d : Dev) (o : Out) : (d.emit o).us = d.us := rfl
@[simp] theorem Dev.emit_free (d : Dev) (o : Out) : (d.emit o).free = d.free := rfl
@[simp] theorem Dev.emit_codes (d : Dev) (o : Out) : (d.emit o).codes = d.codes := rfl

/-! ### What replacing a tile leaves -/

@[simp] theorem Dev.setTile_regs (d : Dev) (t : Nat) (x : Tile) : (d.setTile t x).regs = d.regs := rfl
@[simp] theorem Dev.setTile_latch (d : Dev) (t : Nat) (x : Tile) : (d.setTile t x).latch = d.latch := rfl
@[simp] theorem Dev.setTile_stage (d : Dev) (t : Nat) (x : Tile) : (d.setTile t x).stage = d.stage := rfl
@[simp] theorem Dev.setTile_mem (d : Dev) (t : Nat) (x : Tile) : (d.setTile t x).mem = d.mem := rfl
@[simp] theorem Dev.setTile_bad (d : Dev) (t : Nat) (x : Tile) : (d.setTile t x).bad = d.bad := rfl
@[simp] theorem Dev.setTile_wback (d : Dev) (t : Nat) (x : Tile) : (d.setTile t x).wback = d.wback := rfl
@[simp] theorem Dev.setTile_retired (d : Dev) (t : Nat) (x : Tile) : (d.setTile t x).retired = d.retired := rfl
@[simp] theorem Dev.setTile_chans (d : Dev) (t : Nat) (x : Tile) : (d.setTile t x).chans = d.chans := rfl
@[simp] theorem Dev.setTile_sync (d : Dev) (t : Nat) (x : Tile) : (d.setTile t x).sync = d.sync := rfl
@[simp] theorem Dev.setTile_waiters (d : Dev) (t : Nat) (x : Tile) : (d.setTile t x).waiters = d.waiters := rfl
@[simp] theorem Dev.setTile_tlbT (d : Dev) (t : Nat) (x : Tile) : (d.setTile t x).tlbT = d.tlbT := rfl
@[simp] theorem Dev.setTile_tlbD (d : Dev) (t : Nat) (x : Tile) : (d.setTile t x).tlbD = d.tlbD := rfl
@[simp] theorem Dev.setTile_faults (d : Dev) (t : Nat) (x : Tile) : (d.setTile t x).faults = d.faults := rfl
@[simp] theorem Dev.setTile_parks (d : Dev) (t : Nat) (x : Tile) : (d.setTile t x).parks = d.parks := rfl
@[simp] theorem Dev.setTile_nextId (d : Dev) (t : Nat) (x : Tile) : (d.setTile t x).nextId = d.nextId := rfl
@[simp] theorem Dev.setTile_dma (d : Dev) (t : Nat) (x : Tile) : (d.setTile t x).dma = d.dma := rfl
@[simp] theorem Dev.setTile_dmaSeq (d : Dev) (t : Nat) (x : Tile) : (d.setTile t x).dmaSeq = d.dmaSeq := rfl
@[simp] theorem Dev.setTile_caps (d : Dev) (t : Nat) (x : Tile) : (d.setTile t x).caps = d.caps := rfl
@[simp] theorem Dev.setTile_rings (d : Dev) (t : Nat) (x : Tile) : (d.setTile t x).rings = d.rings := rfl
@[simp] theorem Dev.setTile_cmds (d : Dev) (t : Nat) (x : Tile) : (d.setTile t x).cmds = d.cmds := rfl
@[simp] theorem Dev.setTile_cmdSeq (d : Dev) (t : Nat) (x : Tile) : (d.setTile t x).cmdSeq = d.cmdSeq := rfl
@[simp] theorem Dev.setTile_rr (d : Dev) (t : Nat) (x : Tile) : (d.setTile t x).rr = d.rr := rfl
@[simp] theorem Dev.setTile_evc (d : Dev) (t : Nat) (x : Tile) : (d.setTile t x).evc = d.evc := rfl
@[simp] theorem Dev.setTile_ports (d : Dev) (t : Nat) (x : Tile) : (d.setTile t x).ports = d.ports := rfl
@[simp] theorem Dev.setTile_retries (d : Dev) (t : Nat) (x : Tile) : (d.setTile t x).retries = d.retries := rfl
@[simp] theorem Dev.setTile_quar (d : Dev) (t : Nat) (x : Tile) : (d.setTile t x).quar = d.quar := rfl
@[simp] theorem Dev.setTile_retests (d : Dev) (t : Nat) (x : Tile) : (d.setTile t x).retests = d.retests := rfl
@[simp] theorem Dev.setTile_repair (d : Dev) (t : Nat) (x : Tile) : (d.setTile t x).repair = d.repair := rfl
@[simp] theorem Dev.setTile_sites (d : Dev) (t : Nat) (x : Tile) : (d.setTile t x).sites = d.sites := rfl
@[simp] theorem Dev.setTile_absent (d : Dev) (t : Nat) (x : Tile) : (d.setTile t x).absent = d.absent := rfl
@[simp] theorem Dev.setTile_key (d : Dev) (t : Nat) (x : Tile) : (d.setTile t x).key = d.key := rfl
@[simp] theorem Dev.setTile_crz (d : Dev) (t : Nat) (x : Tile) : (d.setTile t x).crz = d.crz := rfl
@[simp] theorem Dev.setTile_aborts (d : Dev) (t : Nat) (x : Tile) : (d.setTile t x).aborts = d.aborts := rfl
@[simp] theorem Dev.setTile_fabs (d : Dev) (t : Nat) (x : Tile) : (d.setTile t x).fabs = d.fabs := rfl
@[simp] theorem Dev.setTile_inbox (d : Dev) (t : Nat) (x : Tile) : (d.setTile t x).inbox = d.inbox := rfl
@[simp] theorem Dev.setTile_inSeq (d : Dev) (t : Nat) (x : Tile) : (d.setTile t x).inSeq = d.inSeq := rfl
@[simp] theorem Dev.setTile_xops (d : Dev) (t : Nat) (x : Tile) : (d.setTile t x).xops = d.xops := rfl
@[simp] theorem Dev.setTile_xSeq (d : Dev) (t : Nat) (x : Tile) : (d.setTile t x).xSeq = d.xSeq := rfl
@[simp] theorem Dev.setTile_closedX (d : Dev) (t : Nat) (x : Tile) : (d.setTile t x).closedX = d.closedX := rfl
@[simp] theorem Dev.setTile_bars (d : Dev) (t : Nat) (x : Tile) : (d.setTile t x).bars = d.bars := rfl
@[simp] theorem Dev.setTile_vcode (d : Dev) (t : Nat) (x : Tile) : (d.setTile t x).vcode = d.vcode := rfl
@[simp] theorem Dev.setTile_endB (d : Dev) (t : Nat) (x : Tile) : (d.setTile t x).endB = d.endB := rfl
@[simp] theorem Dev.setTile_normEnd (d : Dev) (t : Nat) (x : Tile) : (d.setTile t x).normEnd = d.normEnd := rfl
@[simp] theorem Dev.setTile_normed (d : Dev) (t : Nat) (x : Tile) : (d.setTile t x).normed = d.normed := rfl
@[simp] theorem Dev.setTile_stepRel (d : Dev) (t : Nat) (x : Tile) : (d.setTile t x).stepRel = d.stepRel := rfl
@[simp] theorem Dev.setTile_owned (d : Dev) (t : Nat) (x : Tile) : (d.setTile t x).owned = d.owned := rfl
@[simp] theorem Dev.setTile_slacks (d : Dev) (t : Nat) (x : Tile) : (d.setTile t x).slacks = d.slacks := rfl
@[simp] theorem Dev.setTile_etas (d : Dev) (t : Nat) (x : Tile) : (d.setTile t x).etas = d.etas := rfl
@[simp] theorem Dev.setTile_dig (d : Dev) (t : Nat) (x : Tile) : (d.setTile t x).dig = d.dig := rfl
@[simp] theorem Dev.setTile_routes (d : Dev) (t : Nat) (x : Tile) : (d.setTile t x).routes = d.routes := rfl
@[simp] theorem Dev.setTile_early (d : Dev) (t : Nat) (x : Tile) : (d.setTile t x).early = d.early := rfl
@[simp] theorem Dev.setTile_sorts (d : Dev) (t : Nat) (x : Tile) : (d.setTile t x).sorts = d.sorts := rfl
@[simp] theorem Dev.setTile_wseq (d : Dev) (t : Nat) (x : Tile) : (d.setTile t x).wseq = d.wseq := rfl
@[simp] theorem Dev.setTile_upds (d : Dev) (t : Nat) (x : Tile) : (d.setTile t x).upds = d.upds := rfl
@[simp] theorem Dev.setTile_board (d : Dev) (t : Nat) (x : Tile) : (d.setTile t x).board = d.board := rfl
@[simp] theorem Dev.setTile_kiln (d : Dev) (t : Nat) (x : Tile) : (d.setTile t x).kiln = d.kiln := rfl
@[simp] theorem Dev.setTile_fire (d : Dev) (t : Nat) (x : Tile) : (d.setTile t x).fire = d.fire := rfl
@[simp] theorem Dev.setTile_out (d : Dev) (t : Nat) (x : Tile) : (d.setTile t x).out = d.out := rfl
@[simp] theorem Dev.setTile_cc (d : Dev) (t : Nat) (x : Tile) : (d.setTile t x).cc = d.cc := rfl
@[simp] theorem Dev.setTile_cyc (d : Dev) (t : Nat) (x : Tile) : (d.setTile t x).cyc = d.cyc := rfl
@[simp] theorem Dev.setTile_us (d : Dev) (t : Nat) (x : Tile) : (d.setTile t x).us = d.us := rfl
@[simp] theorem Dev.setTile_free (d : Dev) (t : Nat) (x : Tile) : (d.setTile t x).free = d.free := rfl
@[simp] theorem Dev.setTile_codes (d : Dev) (t : Nat) (x : Tile) : (d.setTile t x).codes = d.codes := rfl

/-! ### What replacing the state of a target leaves -/

@[simp] theorem Dev.setEvcT_regs (d : Dev) (k : Nat) (e : EvcT) : (d.setEvcT k e).regs = d.regs := rfl
@[simp] theorem Dev.setEvcT_latch (d : Dev) (k : Nat) (e : EvcT) : (d.setEvcT k e).latch = d.latch := rfl
@[simp] theorem Dev.setEvcT_stage (d : Dev) (k : Nat) (e : EvcT) : (d.setEvcT k e).stage = d.stage := rfl
@[simp] theorem Dev.setEvcT_mem (d : Dev) (k : Nat) (e : EvcT) : (d.setEvcT k e).mem = d.mem := rfl
@[simp] theorem Dev.setEvcT_bad (d : Dev) (k : Nat) (e : EvcT) : (d.setEvcT k e).bad = d.bad := rfl
@[simp] theorem Dev.setEvcT_wback (d : Dev) (k : Nat) (e : EvcT) : (d.setEvcT k e).wback = d.wback := rfl
@[simp] theorem Dev.setEvcT_retired (d : Dev) (k : Nat) (e : EvcT) : (d.setEvcT k e).retired = d.retired := rfl
@[simp] theorem Dev.setEvcT_chans (d : Dev) (k : Nat) (e : EvcT) : (d.setEvcT k e).chans = d.chans := rfl
@[simp] theorem Dev.setEvcT_sync (d : Dev) (k : Nat) (e : EvcT) : (d.setEvcT k e).sync = d.sync := rfl
@[simp] theorem Dev.setEvcT_waiters (d : Dev) (k : Nat) (e : EvcT) : (d.setEvcT k e).waiters = d.waiters := rfl
@[simp] theorem Dev.setEvcT_tlbT (d : Dev) (k : Nat) (e : EvcT) : (d.setEvcT k e).tlbT = d.tlbT := rfl
@[simp] theorem Dev.setEvcT_tlbD (d : Dev) (k : Nat) (e : EvcT) : (d.setEvcT k e).tlbD = d.tlbD := rfl
@[simp] theorem Dev.setEvcT_faults (d : Dev) (k : Nat) (e : EvcT) : (d.setEvcT k e).faults = d.faults := rfl
@[simp] theorem Dev.setEvcT_parks (d : Dev) (k : Nat) (e : EvcT) : (d.setEvcT k e).parks = d.parks := rfl
@[simp] theorem Dev.setEvcT_nextId (d : Dev) (k : Nat) (e : EvcT) : (d.setEvcT k e).nextId = d.nextId := rfl
@[simp] theorem Dev.setEvcT_dma (d : Dev) (k : Nat) (e : EvcT) : (d.setEvcT k e).dma = d.dma := rfl
@[simp] theorem Dev.setEvcT_dmaSeq (d : Dev) (k : Nat) (e : EvcT) : (d.setEvcT k e).dmaSeq = d.dmaSeq := rfl
@[simp] theorem Dev.setEvcT_caps (d : Dev) (k : Nat) (e : EvcT) : (d.setEvcT k e).caps = d.caps := rfl
@[simp] theorem Dev.setEvcT_tiles (d : Dev) (k : Nat) (e : EvcT) : (d.setEvcT k e).tiles = d.tiles := rfl
@[simp] theorem Dev.setEvcT_rings (d : Dev) (k : Nat) (e : EvcT) : (d.setEvcT k e).rings = d.rings := rfl
@[simp] theorem Dev.setEvcT_cmds (d : Dev) (k : Nat) (e : EvcT) : (d.setEvcT k e).cmds = d.cmds := rfl
@[simp] theorem Dev.setEvcT_cmdSeq (d : Dev) (k : Nat) (e : EvcT) : (d.setEvcT k e).cmdSeq = d.cmdSeq := rfl
@[simp] theorem Dev.setEvcT_rr (d : Dev) (k : Nat) (e : EvcT) : (d.setEvcT k e).rr = d.rr := rfl
@[simp] theorem Dev.setEvcT_ports (d : Dev) (k : Nat) (e : EvcT) : (d.setEvcT k e).ports = d.ports := rfl
@[simp] theorem Dev.setEvcT_retries (d : Dev) (k : Nat) (e : EvcT) : (d.setEvcT k e).retries = d.retries := rfl
@[simp] theorem Dev.setEvcT_quar (d : Dev) (k : Nat) (e : EvcT) : (d.setEvcT k e).quar = d.quar := rfl
@[simp] theorem Dev.setEvcT_retests (d : Dev) (k : Nat) (e : EvcT) : (d.setEvcT k e).retests = d.retests := rfl
@[simp] theorem Dev.setEvcT_repair (d : Dev) (k : Nat) (e : EvcT) : (d.setEvcT k e).repair = d.repair := rfl
@[simp] theorem Dev.setEvcT_sites (d : Dev) (k : Nat) (e : EvcT) : (d.setEvcT k e).sites = d.sites := rfl
@[simp] theorem Dev.setEvcT_absent (d : Dev) (k : Nat) (e : EvcT) : (d.setEvcT k e).absent = d.absent := rfl
@[simp] theorem Dev.setEvcT_key (d : Dev) (k : Nat) (e : EvcT) : (d.setEvcT k e).key = d.key := rfl
@[simp] theorem Dev.setEvcT_crz (d : Dev) (k : Nat) (e : EvcT) : (d.setEvcT k e).crz = d.crz := rfl
@[simp] theorem Dev.setEvcT_aborts (d : Dev) (k : Nat) (e : EvcT) : (d.setEvcT k e).aborts = d.aborts := rfl
@[simp] theorem Dev.setEvcT_fabs (d : Dev) (k : Nat) (e : EvcT) : (d.setEvcT k e).fabs = d.fabs := rfl
@[simp] theorem Dev.setEvcT_inbox (d : Dev) (k : Nat) (e : EvcT) : (d.setEvcT k e).inbox = d.inbox := rfl
@[simp] theorem Dev.setEvcT_inSeq (d : Dev) (k : Nat) (e : EvcT) : (d.setEvcT k e).inSeq = d.inSeq := rfl
@[simp] theorem Dev.setEvcT_xops (d : Dev) (k : Nat) (e : EvcT) : (d.setEvcT k e).xops = d.xops := rfl
@[simp] theorem Dev.setEvcT_xSeq (d : Dev) (k : Nat) (e : EvcT) : (d.setEvcT k e).xSeq = d.xSeq := rfl
@[simp] theorem Dev.setEvcT_closedX (d : Dev) (k : Nat) (e : EvcT) : (d.setEvcT k e).closedX = d.closedX := rfl
@[simp] theorem Dev.setEvcT_bars (d : Dev) (k : Nat) (e : EvcT) : (d.setEvcT k e).bars = d.bars := rfl
@[simp] theorem Dev.setEvcT_vcode (d : Dev) (k : Nat) (e : EvcT) : (d.setEvcT k e).vcode = d.vcode := rfl
@[simp] theorem Dev.setEvcT_endB (d : Dev) (k : Nat) (e : EvcT) : (d.setEvcT k e).endB = d.endB := rfl
@[simp] theorem Dev.setEvcT_normEnd (d : Dev) (k : Nat) (e : EvcT) : (d.setEvcT k e).normEnd = d.normEnd := rfl
@[simp] theorem Dev.setEvcT_normed (d : Dev) (k : Nat) (e : EvcT) : (d.setEvcT k e).normed = d.normed := rfl
@[simp] theorem Dev.setEvcT_stepRel (d : Dev) (k : Nat) (e : EvcT) : (d.setEvcT k e).stepRel = d.stepRel := rfl
@[simp] theorem Dev.setEvcT_owned (d : Dev) (k : Nat) (e : EvcT) : (d.setEvcT k e).owned = d.owned := rfl
@[simp] theorem Dev.setEvcT_slacks (d : Dev) (k : Nat) (e : EvcT) : (d.setEvcT k e).slacks = d.slacks := rfl
@[simp] theorem Dev.setEvcT_etas (d : Dev) (k : Nat) (e : EvcT) : (d.setEvcT k e).etas = d.etas := rfl
@[simp] theorem Dev.setEvcT_dig (d : Dev) (k : Nat) (e : EvcT) : (d.setEvcT k e).dig = d.dig := rfl
@[simp] theorem Dev.setEvcT_routes (d : Dev) (k : Nat) (e : EvcT) : (d.setEvcT k e).routes = d.routes := rfl
@[simp] theorem Dev.setEvcT_early (d : Dev) (k : Nat) (e : EvcT) : (d.setEvcT k e).early = d.early := rfl
@[simp] theorem Dev.setEvcT_sorts (d : Dev) (k : Nat) (e : EvcT) : (d.setEvcT k e).sorts = d.sorts := rfl
@[simp] theorem Dev.setEvcT_wseq (d : Dev) (k : Nat) (e : EvcT) : (d.setEvcT k e).wseq = d.wseq := rfl
@[simp] theorem Dev.setEvcT_upds (d : Dev) (k : Nat) (e : EvcT) : (d.setEvcT k e).upds = d.upds := rfl
@[simp] theorem Dev.setEvcT_board (d : Dev) (k : Nat) (e : EvcT) : (d.setEvcT k e).board = d.board := rfl
@[simp] theorem Dev.setEvcT_kiln (d : Dev) (k : Nat) (e : EvcT) : (d.setEvcT k e).kiln = d.kiln := rfl
@[simp] theorem Dev.setEvcT_fire (d : Dev) (k : Nat) (e : EvcT) : (d.setEvcT k e).fire = d.fire := rfl
@[simp] theorem Dev.setEvcT_out (d : Dev) (k : Nat) (e : EvcT) : (d.setEvcT k e).out = d.out := rfl
@[simp] theorem Dev.setEvcT_cc (d : Dev) (k : Nat) (e : EvcT) : (d.setEvcT k e).cc = d.cc := rfl
@[simp] theorem Dev.setEvcT_cyc (d : Dev) (k : Nat) (e : EvcT) : (d.setEvcT k e).cyc = d.cyc := rfl
@[simp] theorem Dev.setEvcT_us (d : Dev) (k : Nat) (e : EvcT) : (d.setEvcT k e).us = d.us := rfl
@[simp] theorem Dev.setEvcT_free (d : Dev) (k : Nat) (e : EvcT) : (d.setEvcT k e).free = d.free := rfl
@[simp] theorem Dev.setEvcT_codes (d : Dev) (k : Nat) (e : EvcT) : (d.setEvcT k e).codes = d.codes := rfl

/-! ### What replacing a host port leaves -/

@[simp] theorem Dev.setPort_regs (d : Dev) (p : Nat) (x : HostPort) : (d.setPort p x).regs = d.regs := rfl
@[simp] theorem Dev.setPort_latch (d : Dev) (p : Nat) (x : HostPort) : (d.setPort p x).latch = d.latch := rfl
@[simp] theorem Dev.setPort_stage (d : Dev) (p : Nat) (x : HostPort) : (d.setPort p x).stage = d.stage := rfl
@[simp] theorem Dev.setPort_mem (d : Dev) (p : Nat) (x : HostPort) : (d.setPort p x).mem = d.mem := rfl
@[simp] theorem Dev.setPort_bad (d : Dev) (p : Nat) (x : HostPort) : (d.setPort p x).bad = d.bad := rfl
@[simp] theorem Dev.setPort_wback (d : Dev) (p : Nat) (x : HostPort) : (d.setPort p x).wback = d.wback := rfl
@[simp] theorem Dev.setPort_retired (d : Dev) (p : Nat) (x : HostPort) : (d.setPort p x).retired = d.retired := rfl
@[simp] theorem Dev.setPort_chans (d : Dev) (p : Nat) (x : HostPort) : (d.setPort p x).chans = d.chans := rfl
@[simp] theorem Dev.setPort_sync (d : Dev) (p : Nat) (x : HostPort) : (d.setPort p x).sync = d.sync := rfl
@[simp] theorem Dev.setPort_waiters (d : Dev) (p : Nat) (x : HostPort) : (d.setPort p x).waiters = d.waiters := rfl
@[simp] theorem Dev.setPort_tlbT (d : Dev) (p : Nat) (x : HostPort) : (d.setPort p x).tlbT = d.tlbT := rfl
@[simp] theorem Dev.setPort_tlbD (d : Dev) (p : Nat) (x : HostPort) : (d.setPort p x).tlbD = d.tlbD := rfl
@[simp] theorem Dev.setPort_faults (d : Dev) (p : Nat) (x : HostPort) : (d.setPort p x).faults = d.faults := rfl
@[simp] theorem Dev.setPort_parks (d : Dev) (p : Nat) (x : HostPort) : (d.setPort p x).parks = d.parks := rfl
@[simp] theorem Dev.setPort_nextId (d : Dev) (p : Nat) (x : HostPort) : (d.setPort p x).nextId = d.nextId := rfl
@[simp] theorem Dev.setPort_dma (d : Dev) (p : Nat) (x : HostPort) : (d.setPort p x).dma = d.dma := rfl
@[simp] theorem Dev.setPort_dmaSeq (d : Dev) (p : Nat) (x : HostPort) : (d.setPort p x).dmaSeq = d.dmaSeq := rfl
@[simp] theorem Dev.setPort_caps (d : Dev) (p : Nat) (x : HostPort) : (d.setPort p x).caps = d.caps := rfl
@[simp] theorem Dev.setPort_tiles (d : Dev) (p : Nat) (x : HostPort) : (d.setPort p x).tiles = d.tiles := rfl
@[simp] theorem Dev.setPort_rings (d : Dev) (p : Nat) (x : HostPort) : (d.setPort p x).rings = d.rings := rfl
@[simp] theorem Dev.setPort_cmds (d : Dev) (p : Nat) (x : HostPort) : (d.setPort p x).cmds = d.cmds := rfl
@[simp] theorem Dev.setPort_cmdSeq (d : Dev) (p : Nat) (x : HostPort) : (d.setPort p x).cmdSeq = d.cmdSeq := rfl
@[simp] theorem Dev.setPort_rr (d : Dev) (p : Nat) (x : HostPort) : (d.setPort p x).rr = d.rr := rfl
@[simp] theorem Dev.setPort_evc (d : Dev) (p : Nat) (x : HostPort) : (d.setPort p x).evc = d.evc := rfl
@[simp] theorem Dev.setPort_retries (d : Dev) (p : Nat) (x : HostPort) : (d.setPort p x).retries = d.retries := rfl
@[simp] theorem Dev.setPort_quar (d : Dev) (p : Nat) (x : HostPort) : (d.setPort p x).quar = d.quar := rfl
@[simp] theorem Dev.setPort_retests (d : Dev) (p : Nat) (x : HostPort) : (d.setPort p x).retests = d.retests := rfl
@[simp] theorem Dev.setPort_repair (d : Dev) (p : Nat) (x : HostPort) : (d.setPort p x).repair = d.repair := rfl
@[simp] theorem Dev.setPort_sites (d : Dev) (p : Nat) (x : HostPort) : (d.setPort p x).sites = d.sites := rfl
@[simp] theorem Dev.setPort_absent (d : Dev) (p : Nat) (x : HostPort) : (d.setPort p x).absent = d.absent := rfl
@[simp] theorem Dev.setPort_key (d : Dev) (p : Nat) (x : HostPort) : (d.setPort p x).key = d.key := rfl
@[simp] theorem Dev.setPort_crz (d : Dev) (p : Nat) (x : HostPort) : (d.setPort p x).crz = d.crz := rfl
@[simp] theorem Dev.setPort_aborts (d : Dev) (p : Nat) (x : HostPort) : (d.setPort p x).aborts = d.aborts := rfl
@[simp] theorem Dev.setPort_fabs (d : Dev) (p : Nat) (x : HostPort) : (d.setPort p x).fabs = d.fabs := rfl
@[simp] theorem Dev.setPort_inbox (d : Dev) (p : Nat) (x : HostPort) : (d.setPort p x).inbox = d.inbox := rfl
@[simp] theorem Dev.setPort_inSeq (d : Dev) (p : Nat) (x : HostPort) : (d.setPort p x).inSeq = d.inSeq := rfl
@[simp] theorem Dev.setPort_xops (d : Dev) (p : Nat) (x : HostPort) : (d.setPort p x).xops = d.xops := rfl
@[simp] theorem Dev.setPort_xSeq (d : Dev) (p : Nat) (x : HostPort) : (d.setPort p x).xSeq = d.xSeq := rfl
@[simp] theorem Dev.setPort_closedX (d : Dev) (p : Nat) (x : HostPort) : (d.setPort p x).closedX = d.closedX := rfl
@[simp] theorem Dev.setPort_bars (d : Dev) (p : Nat) (x : HostPort) : (d.setPort p x).bars = d.bars := rfl
@[simp] theorem Dev.setPort_vcode (d : Dev) (p : Nat) (x : HostPort) : (d.setPort p x).vcode = d.vcode := rfl
@[simp] theorem Dev.setPort_endB (d : Dev) (p : Nat) (x : HostPort) : (d.setPort p x).endB = d.endB := rfl
@[simp] theorem Dev.setPort_normEnd (d : Dev) (p : Nat) (x : HostPort) : (d.setPort p x).normEnd = d.normEnd := rfl
@[simp] theorem Dev.setPort_normed (d : Dev) (p : Nat) (x : HostPort) : (d.setPort p x).normed = d.normed := rfl
@[simp] theorem Dev.setPort_stepRel (d : Dev) (p : Nat) (x : HostPort) : (d.setPort p x).stepRel = d.stepRel := rfl
@[simp] theorem Dev.setPort_owned (d : Dev) (p : Nat) (x : HostPort) : (d.setPort p x).owned = d.owned := rfl
@[simp] theorem Dev.setPort_slacks (d : Dev) (p : Nat) (x : HostPort) : (d.setPort p x).slacks = d.slacks := rfl
@[simp] theorem Dev.setPort_etas (d : Dev) (p : Nat) (x : HostPort) : (d.setPort p x).etas = d.etas := rfl
@[simp] theorem Dev.setPort_dig (d : Dev) (p : Nat) (x : HostPort) : (d.setPort p x).dig = d.dig := rfl
@[simp] theorem Dev.setPort_routes (d : Dev) (p : Nat) (x : HostPort) : (d.setPort p x).routes = d.routes := rfl
@[simp] theorem Dev.setPort_early (d : Dev) (p : Nat) (x : HostPort) : (d.setPort p x).early = d.early := rfl
@[simp] theorem Dev.setPort_sorts (d : Dev) (p : Nat) (x : HostPort) : (d.setPort p x).sorts = d.sorts := rfl
@[simp] theorem Dev.setPort_wseq (d : Dev) (p : Nat) (x : HostPort) : (d.setPort p x).wseq = d.wseq := rfl
@[simp] theorem Dev.setPort_upds (d : Dev) (p : Nat) (x : HostPort) : (d.setPort p x).upds = d.upds := rfl
@[simp] theorem Dev.setPort_board (d : Dev) (p : Nat) (x : HostPort) : (d.setPort p x).board = d.board := rfl
@[simp] theorem Dev.setPort_kiln (d : Dev) (p : Nat) (x : HostPort) : (d.setPort p x).kiln = d.kiln := rfl
@[simp] theorem Dev.setPort_fire (d : Dev) (p : Nat) (x : HostPort) : (d.setPort p x).fire = d.fire := rfl
@[simp] theorem Dev.setPort_out (d : Dev) (p : Nat) (x : HostPort) : (d.setPort p x).out = d.out := rfl
@[simp] theorem Dev.setPort_cc (d : Dev) (p : Nat) (x : HostPort) : (d.setPort p x).cc = d.cc := rfl
@[simp] theorem Dev.setPort_cyc (d : Dev) (p : Nat) (x : HostPort) : (d.setPort p x).cyc = d.cyc := rfl
@[simp] theorem Dev.setPort_us (d : Dev) (p : Nat) (x : HostPort) : (d.setPort p x).us = d.us := rfl
@[simp] theorem Dev.setPort_free (d : Dev) (p : Nat) (x : HostPort) : (d.setPort p x).free = d.free := rfl
@[simp] theorem Dev.setPort_codes (d : Dev) (p : Nat) (x : HostPort) : (d.setPort p x).codes = d.codes := rfl

/-! ### What replacing a ring leaves -/

@[simp] theorem Dev.setRing_regs (d : Dev) (g : Nat) (r : Ring) : (d.setRing g r).regs = d.regs := rfl
@[simp] theorem Dev.setRing_latch (d : Dev) (g : Nat) (r : Ring) : (d.setRing g r).latch = d.latch := rfl
@[simp] theorem Dev.setRing_stage (d : Dev) (g : Nat) (r : Ring) : (d.setRing g r).stage = d.stage := rfl
@[simp] theorem Dev.setRing_mem (d : Dev) (g : Nat) (r : Ring) : (d.setRing g r).mem = d.mem := rfl
@[simp] theorem Dev.setRing_bad (d : Dev) (g : Nat) (r : Ring) : (d.setRing g r).bad = d.bad := rfl
@[simp] theorem Dev.setRing_wback (d : Dev) (g : Nat) (r : Ring) : (d.setRing g r).wback = d.wback := rfl
@[simp] theorem Dev.setRing_retired (d : Dev) (g : Nat) (r : Ring) : (d.setRing g r).retired = d.retired := rfl
@[simp] theorem Dev.setRing_chans (d : Dev) (g : Nat) (r : Ring) : (d.setRing g r).chans = d.chans := rfl
@[simp] theorem Dev.setRing_sync (d : Dev) (g : Nat) (r : Ring) : (d.setRing g r).sync = d.sync := rfl
@[simp] theorem Dev.setRing_waiters (d : Dev) (g : Nat) (r : Ring) : (d.setRing g r).waiters = d.waiters := rfl
@[simp] theorem Dev.setRing_tlbT (d : Dev) (g : Nat) (r : Ring) : (d.setRing g r).tlbT = d.tlbT := rfl
@[simp] theorem Dev.setRing_tlbD (d : Dev) (g : Nat) (r : Ring) : (d.setRing g r).tlbD = d.tlbD := rfl
@[simp] theorem Dev.setRing_faults (d : Dev) (g : Nat) (r : Ring) : (d.setRing g r).faults = d.faults := rfl
@[simp] theorem Dev.setRing_parks (d : Dev) (g : Nat) (r : Ring) : (d.setRing g r).parks = d.parks := rfl
@[simp] theorem Dev.setRing_nextId (d : Dev) (g : Nat) (r : Ring) : (d.setRing g r).nextId = d.nextId := rfl
@[simp] theorem Dev.setRing_dma (d : Dev) (g : Nat) (r : Ring) : (d.setRing g r).dma = d.dma := rfl
@[simp] theorem Dev.setRing_dmaSeq (d : Dev) (g : Nat) (r : Ring) : (d.setRing g r).dmaSeq = d.dmaSeq := rfl
@[simp] theorem Dev.setRing_caps (d : Dev) (g : Nat) (r : Ring) : (d.setRing g r).caps = d.caps := rfl
@[simp] theorem Dev.setRing_tiles (d : Dev) (g : Nat) (r : Ring) : (d.setRing g r).tiles = d.tiles := rfl
@[simp] theorem Dev.setRing_cmds (d : Dev) (g : Nat) (r : Ring) : (d.setRing g r).cmds = d.cmds := rfl
@[simp] theorem Dev.setRing_cmdSeq (d : Dev) (g : Nat) (r : Ring) : (d.setRing g r).cmdSeq = d.cmdSeq := rfl
@[simp] theorem Dev.setRing_rr (d : Dev) (g : Nat) (r : Ring) : (d.setRing g r).rr = d.rr := rfl
@[simp] theorem Dev.setRing_evc (d : Dev) (g : Nat) (r : Ring) : (d.setRing g r).evc = d.evc := rfl
@[simp] theorem Dev.setRing_ports (d : Dev) (g : Nat) (r : Ring) : (d.setRing g r).ports = d.ports := rfl
@[simp] theorem Dev.setRing_retries (d : Dev) (g : Nat) (r : Ring) : (d.setRing g r).retries = d.retries := rfl
@[simp] theorem Dev.setRing_quar (d : Dev) (g : Nat) (r : Ring) : (d.setRing g r).quar = d.quar := rfl
@[simp] theorem Dev.setRing_retests (d : Dev) (g : Nat) (r : Ring) : (d.setRing g r).retests = d.retests := rfl
@[simp] theorem Dev.setRing_repair (d : Dev) (g : Nat) (r : Ring) : (d.setRing g r).repair = d.repair := rfl
@[simp] theorem Dev.setRing_sites (d : Dev) (g : Nat) (r : Ring) : (d.setRing g r).sites = d.sites := rfl
@[simp] theorem Dev.setRing_absent (d : Dev) (g : Nat) (r : Ring) : (d.setRing g r).absent = d.absent := rfl
@[simp] theorem Dev.setRing_key (d : Dev) (g : Nat) (r : Ring) : (d.setRing g r).key = d.key := rfl
@[simp] theorem Dev.setRing_crz (d : Dev) (g : Nat) (r : Ring) : (d.setRing g r).crz = d.crz := rfl
@[simp] theorem Dev.setRing_aborts (d : Dev) (g : Nat) (r : Ring) : (d.setRing g r).aborts = d.aborts := rfl
@[simp] theorem Dev.setRing_fabs (d : Dev) (g : Nat) (r : Ring) : (d.setRing g r).fabs = d.fabs := rfl
@[simp] theorem Dev.setRing_inbox (d : Dev) (g : Nat) (r : Ring) : (d.setRing g r).inbox = d.inbox := rfl
@[simp] theorem Dev.setRing_inSeq (d : Dev) (g : Nat) (r : Ring) : (d.setRing g r).inSeq = d.inSeq := rfl
@[simp] theorem Dev.setRing_xops (d : Dev) (g : Nat) (r : Ring) : (d.setRing g r).xops = d.xops := rfl
@[simp] theorem Dev.setRing_xSeq (d : Dev) (g : Nat) (r : Ring) : (d.setRing g r).xSeq = d.xSeq := rfl
@[simp] theorem Dev.setRing_closedX (d : Dev) (g : Nat) (r : Ring) : (d.setRing g r).closedX = d.closedX := rfl
@[simp] theorem Dev.setRing_bars (d : Dev) (g : Nat) (r : Ring) : (d.setRing g r).bars = d.bars := rfl
@[simp] theorem Dev.setRing_vcode (d : Dev) (g : Nat) (r : Ring) : (d.setRing g r).vcode = d.vcode := rfl
@[simp] theorem Dev.setRing_endB (d : Dev) (g : Nat) (r : Ring) : (d.setRing g r).endB = d.endB := rfl
@[simp] theorem Dev.setRing_normEnd (d : Dev) (g : Nat) (r : Ring) : (d.setRing g r).normEnd = d.normEnd := rfl
@[simp] theorem Dev.setRing_normed (d : Dev) (g : Nat) (r : Ring) : (d.setRing g r).normed = d.normed := rfl
@[simp] theorem Dev.setRing_stepRel (d : Dev) (g : Nat) (r : Ring) : (d.setRing g r).stepRel = d.stepRel := rfl
@[simp] theorem Dev.setRing_owned (d : Dev) (g : Nat) (r : Ring) : (d.setRing g r).owned = d.owned := rfl
@[simp] theorem Dev.setRing_slacks (d : Dev) (g : Nat) (r : Ring) : (d.setRing g r).slacks = d.slacks := rfl
@[simp] theorem Dev.setRing_etas (d : Dev) (g : Nat) (r : Ring) : (d.setRing g r).etas = d.etas := rfl
@[simp] theorem Dev.setRing_dig (d : Dev) (g : Nat) (r : Ring) : (d.setRing g r).dig = d.dig := rfl
@[simp] theorem Dev.setRing_routes (d : Dev) (g : Nat) (r : Ring) : (d.setRing g r).routes = d.routes := rfl
@[simp] theorem Dev.setRing_early (d : Dev) (g : Nat) (r : Ring) : (d.setRing g r).early = d.early := rfl
@[simp] theorem Dev.setRing_sorts (d : Dev) (g : Nat) (r : Ring) : (d.setRing g r).sorts = d.sorts := rfl
@[simp] theorem Dev.setRing_wseq (d : Dev) (g : Nat) (r : Ring) : (d.setRing g r).wseq = d.wseq := rfl
@[simp] theorem Dev.setRing_upds (d : Dev) (g : Nat) (r : Ring) : (d.setRing g r).upds = d.upds := rfl
@[simp] theorem Dev.setRing_board (d : Dev) (g : Nat) (r : Ring) : (d.setRing g r).board = d.board := rfl
@[simp] theorem Dev.setRing_kiln (d : Dev) (g : Nat) (r : Ring) : (d.setRing g r).kiln = d.kiln := rfl
@[simp] theorem Dev.setRing_fire (d : Dev) (g : Nat) (r : Ring) : (d.setRing g r).fire = d.fire := rfl
@[simp] theorem Dev.setRing_out (d : Dev) (g : Nat) (r : Ring) : (d.setRing g r).out = d.out := rfl
@[simp] theorem Dev.setRing_cc (d : Dev) (g : Nat) (r : Ring) : (d.setRing g r).cc = d.cc := rfl
@[simp] theorem Dev.setRing_cyc (d : Dev) (g : Nat) (r : Ring) : (d.setRing g r).cyc = d.cyc := rfl
@[simp] theorem Dev.setRing_us (d : Dev) (g : Nat) (r : Ring) : (d.setRing g r).us = d.us := rfl
@[simp] theorem Dev.setRing_free (d : Dev) (g : Nat) (r : Ring) : (d.setRing g r).free = d.free := rfl
@[simp] theorem Dev.setRing_codes (d : Dev) (g : Nat) (r : Ring) : (d.setRing g r).codes = d.codes := rfl

/-! ### What replacing a link layer leaves -/

@[simp] theorem Dev.setFab_regs (d : Dev) (p : Nat) (f : Fab) : (d.setFab p f).regs = d.regs := rfl
@[simp] theorem Dev.setFab_latch (d : Dev) (p : Nat) (f : Fab) : (d.setFab p f).latch = d.latch := rfl
@[simp] theorem Dev.setFab_stage (d : Dev) (p : Nat) (f : Fab) : (d.setFab p f).stage = d.stage := rfl
@[simp] theorem Dev.setFab_mem (d : Dev) (p : Nat) (f : Fab) : (d.setFab p f).mem = d.mem := rfl
@[simp] theorem Dev.setFab_bad (d : Dev) (p : Nat) (f : Fab) : (d.setFab p f).bad = d.bad := rfl
@[simp] theorem Dev.setFab_wback (d : Dev) (p : Nat) (f : Fab) : (d.setFab p f).wback = d.wback := rfl
@[simp] theorem Dev.setFab_retired (d : Dev) (p : Nat) (f : Fab) : (d.setFab p f).retired = d.retired := rfl
@[simp] theorem Dev.setFab_chans (d : Dev) (p : Nat) (f : Fab) : (d.setFab p f).chans = d.chans := rfl
@[simp] theorem Dev.setFab_sync (d : Dev) (p : Nat) (f : Fab) : (d.setFab p f).sync = d.sync := rfl
@[simp] theorem Dev.setFab_waiters (d : Dev) (p : Nat) (f : Fab) : (d.setFab p f).waiters = d.waiters := rfl
@[simp] theorem Dev.setFab_tlbT (d : Dev) (p : Nat) (f : Fab) : (d.setFab p f).tlbT = d.tlbT := rfl
@[simp] theorem Dev.setFab_tlbD (d : Dev) (p : Nat) (f : Fab) : (d.setFab p f).tlbD = d.tlbD := rfl
@[simp] theorem Dev.setFab_faults (d : Dev) (p : Nat) (f : Fab) : (d.setFab p f).faults = d.faults := rfl
@[simp] theorem Dev.setFab_parks (d : Dev) (p : Nat) (f : Fab) : (d.setFab p f).parks = d.parks := rfl
@[simp] theorem Dev.setFab_nextId (d : Dev) (p : Nat) (f : Fab) : (d.setFab p f).nextId = d.nextId := rfl
@[simp] theorem Dev.setFab_dma (d : Dev) (p : Nat) (f : Fab) : (d.setFab p f).dma = d.dma := rfl
@[simp] theorem Dev.setFab_dmaSeq (d : Dev) (p : Nat) (f : Fab) : (d.setFab p f).dmaSeq = d.dmaSeq := rfl
@[simp] theorem Dev.setFab_caps (d : Dev) (p : Nat) (f : Fab) : (d.setFab p f).caps = d.caps := rfl
@[simp] theorem Dev.setFab_tiles (d : Dev) (p : Nat) (f : Fab) : (d.setFab p f).tiles = d.tiles := rfl
@[simp] theorem Dev.setFab_rings (d : Dev) (p : Nat) (f : Fab) : (d.setFab p f).rings = d.rings := rfl
@[simp] theorem Dev.setFab_cmds (d : Dev) (p : Nat) (f : Fab) : (d.setFab p f).cmds = d.cmds := rfl
@[simp] theorem Dev.setFab_cmdSeq (d : Dev) (p : Nat) (f : Fab) : (d.setFab p f).cmdSeq = d.cmdSeq := rfl
@[simp] theorem Dev.setFab_rr (d : Dev) (p : Nat) (f : Fab) : (d.setFab p f).rr = d.rr := rfl
@[simp] theorem Dev.setFab_evc (d : Dev) (p : Nat) (f : Fab) : (d.setFab p f).evc = d.evc := rfl
@[simp] theorem Dev.setFab_ports (d : Dev) (p : Nat) (f : Fab) : (d.setFab p f).ports = d.ports := rfl
@[simp] theorem Dev.setFab_retries (d : Dev) (p : Nat) (f : Fab) : (d.setFab p f).retries = d.retries := rfl
@[simp] theorem Dev.setFab_quar (d : Dev) (p : Nat) (f : Fab) : (d.setFab p f).quar = d.quar := rfl
@[simp] theorem Dev.setFab_retests (d : Dev) (p : Nat) (f : Fab) : (d.setFab p f).retests = d.retests := rfl
@[simp] theorem Dev.setFab_repair (d : Dev) (p : Nat) (f : Fab) : (d.setFab p f).repair = d.repair := rfl
@[simp] theorem Dev.setFab_sites (d : Dev) (p : Nat) (f : Fab) : (d.setFab p f).sites = d.sites := rfl
@[simp] theorem Dev.setFab_absent (d : Dev) (p : Nat) (f : Fab) : (d.setFab p f).absent = d.absent := rfl
@[simp] theorem Dev.setFab_key (d : Dev) (p : Nat) (f : Fab) : (d.setFab p f).key = d.key := rfl
@[simp] theorem Dev.setFab_crz (d : Dev) (p : Nat) (f : Fab) : (d.setFab p f).crz = d.crz := rfl
@[simp] theorem Dev.setFab_aborts (d : Dev) (p : Nat) (f : Fab) : (d.setFab p f).aborts = d.aborts := rfl
@[simp] theorem Dev.setFab_inbox (d : Dev) (p : Nat) (f : Fab) : (d.setFab p f).inbox = d.inbox := rfl
@[simp] theorem Dev.setFab_inSeq (d : Dev) (p : Nat) (f : Fab) : (d.setFab p f).inSeq = d.inSeq := rfl
@[simp] theorem Dev.setFab_xops (d : Dev) (p : Nat) (f : Fab) : (d.setFab p f).xops = d.xops := rfl
@[simp] theorem Dev.setFab_xSeq (d : Dev) (p : Nat) (f : Fab) : (d.setFab p f).xSeq = d.xSeq := rfl
@[simp] theorem Dev.setFab_closedX (d : Dev) (p : Nat) (f : Fab) : (d.setFab p f).closedX = d.closedX := rfl
@[simp] theorem Dev.setFab_bars (d : Dev) (p : Nat) (f : Fab) : (d.setFab p f).bars = d.bars := rfl
@[simp] theorem Dev.setFab_vcode (d : Dev) (p : Nat) (f : Fab) : (d.setFab p f).vcode = d.vcode := rfl
@[simp] theorem Dev.setFab_endB (d : Dev) (p : Nat) (f : Fab) : (d.setFab p f).endB = d.endB := rfl
@[simp] theorem Dev.setFab_normEnd (d : Dev) (p : Nat) (f : Fab) : (d.setFab p f).normEnd = d.normEnd := rfl
@[simp] theorem Dev.setFab_normed (d : Dev) (p : Nat) (f : Fab) : (d.setFab p f).normed = d.normed := rfl
@[simp] theorem Dev.setFab_stepRel (d : Dev) (p : Nat) (f : Fab) : (d.setFab p f).stepRel = d.stepRel := rfl
@[simp] theorem Dev.setFab_owned (d : Dev) (p : Nat) (f : Fab) : (d.setFab p f).owned = d.owned := rfl
@[simp] theorem Dev.setFab_slacks (d : Dev) (p : Nat) (f : Fab) : (d.setFab p f).slacks = d.slacks := rfl
@[simp] theorem Dev.setFab_etas (d : Dev) (p : Nat) (f : Fab) : (d.setFab p f).etas = d.etas := rfl
@[simp] theorem Dev.setFab_dig (d : Dev) (p : Nat) (f : Fab) : (d.setFab p f).dig = d.dig := rfl
@[simp] theorem Dev.setFab_routes (d : Dev) (p : Nat) (f : Fab) : (d.setFab p f).routes = d.routes := rfl
@[simp] theorem Dev.setFab_early (d : Dev) (p : Nat) (f : Fab) : (d.setFab p f).early = d.early := rfl
@[simp] theorem Dev.setFab_sorts (d : Dev) (p : Nat) (f : Fab) : (d.setFab p f).sorts = d.sorts := rfl
@[simp] theorem Dev.setFab_wseq (d : Dev) (p : Nat) (f : Fab) : (d.setFab p f).wseq = d.wseq := rfl
@[simp] theorem Dev.setFab_upds (d : Dev) (p : Nat) (f : Fab) : (d.setFab p f).upds = d.upds := rfl
@[simp] theorem Dev.setFab_board (d : Dev) (p : Nat) (f : Fab) : (d.setFab p f).board = d.board := rfl
@[simp] theorem Dev.setFab_kiln (d : Dev) (p : Nat) (f : Fab) : (d.setFab p f).kiln = d.kiln := rfl
@[simp] theorem Dev.setFab_fire (d : Dev) (p : Nat) (f : Fab) : (d.setFab p f).fire = d.fire := rfl
@[simp] theorem Dev.setFab_out (d : Dev) (p : Nat) (f : Fab) : (d.setFab p f).out = d.out := rfl
@[simp] theorem Dev.setFab_cc (d : Dev) (p : Nat) (f : Fab) : (d.setFab p f).cc = d.cc := rfl
@[simp] theorem Dev.setFab_cyc (d : Dev) (p : Nat) (f : Fab) : (d.setFab p f).cyc = d.cyc := rfl
@[simp] theorem Dev.setFab_us (d : Dev) (p : Nat) (f : Fab) : (d.setFab p f).us = d.us := rfl
@[simp] theorem Dev.setFab_free (d : Dev) (p : Nat) (f : Fab) : (d.setFab p f).free = d.free := rfl
@[simp] theorem Dev.setFab_codes (d : Dev) (p : Nat) (f : Fab) : (d.setFab p f).codes = d.codes := rfl

/-! ### What giving a sync object a count leaves -/

@[simp] theorem Dev.setCount_regs (d : Dev) (o : Nat) (c : Word) : (d.setCount o c).regs = d.regs := rfl
@[simp] theorem Dev.setCount_latch (d : Dev) (o : Nat) (c : Word) : (d.setCount o c).latch = d.latch := rfl
@[simp] theorem Dev.setCount_stage (d : Dev) (o : Nat) (c : Word) : (d.setCount o c).stage = d.stage := rfl
@[simp] theorem Dev.setCount_mem (d : Dev) (o : Nat) (c : Word) : (d.setCount o c).mem = d.mem := rfl
@[simp] theorem Dev.setCount_bad (d : Dev) (o : Nat) (c : Word) : (d.setCount o c).bad = d.bad := rfl
@[simp] theorem Dev.setCount_wback (d : Dev) (o : Nat) (c : Word) : (d.setCount o c).wback = d.wback := rfl
@[simp] theorem Dev.setCount_retired (d : Dev) (o : Nat) (c : Word) : (d.setCount o c).retired = d.retired := rfl
@[simp] theorem Dev.setCount_chans (d : Dev) (o : Nat) (c : Word) : (d.setCount o c).chans = d.chans := rfl
@[simp] theorem Dev.setCount_tlbT (d : Dev) (o : Nat) (c : Word) : (d.setCount o c).tlbT = d.tlbT := rfl
@[simp] theorem Dev.setCount_tlbD (d : Dev) (o : Nat) (c : Word) : (d.setCount o c).tlbD = d.tlbD := rfl
@[simp] theorem Dev.setCount_faults (d : Dev) (o : Nat) (c : Word) : (d.setCount o c).faults = d.faults := rfl
@[simp] theorem Dev.setCount_parks (d : Dev) (o : Nat) (c : Word) : (d.setCount o c).parks = d.parks := rfl
@[simp] theorem Dev.setCount_nextId (d : Dev) (o : Nat) (c : Word) : (d.setCount o c).nextId = d.nextId := rfl
@[simp] theorem Dev.setCount_dma (d : Dev) (o : Nat) (c : Word) : (d.setCount o c).dma = d.dma := rfl
@[simp] theorem Dev.setCount_dmaSeq (d : Dev) (o : Nat) (c : Word) : (d.setCount o c).dmaSeq = d.dmaSeq := rfl
@[simp] theorem Dev.setCount_caps (d : Dev) (o : Nat) (c : Word) : (d.setCount o c).caps = d.caps := rfl
@[simp] theorem Dev.setCount_tiles (d : Dev) (o : Nat) (c : Word) : (d.setCount o c).tiles = d.tiles := rfl
@[simp] theorem Dev.setCount_rings (d : Dev) (o : Nat) (c : Word) : (d.setCount o c).rings = d.rings := rfl
@[simp] theorem Dev.setCount_cmds (d : Dev) (o : Nat) (c : Word) : (d.setCount o c).cmds = d.cmds := rfl
@[simp] theorem Dev.setCount_cmdSeq (d : Dev) (o : Nat) (c : Word) : (d.setCount o c).cmdSeq = d.cmdSeq := rfl
@[simp] theorem Dev.setCount_rr (d : Dev) (o : Nat) (c : Word) : (d.setCount o c).rr = d.rr := rfl
@[simp] theorem Dev.setCount_evc (d : Dev) (o : Nat) (c : Word) : (d.setCount o c).evc = d.evc := rfl
@[simp] theorem Dev.setCount_ports (d : Dev) (o : Nat) (c : Word) : (d.setCount o c).ports = d.ports := rfl
@[simp] theorem Dev.setCount_retries (d : Dev) (o : Nat) (c : Word) : (d.setCount o c).retries = d.retries := rfl
@[simp] theorem Dev.setCount_quar (d : Dev) (o : Nat) (c : Word) : (d.setCount o c).quar = d.quar := rfl
@[simp] theorem Dev.setCount_retests (d : Dev) (o : Nat) (c : Word) : (d.setCount o c).retests = d.retests := rfl
@[simp] theorem Dev.setCount_repair (d : Dev) (o : Nat) (c : Word) : (d.setCount o c).repair = d.repair := rfl
@[simp] theorem Dev.setCount_sites (d : Dev) (o : Nat) (c : Word) : (d.setCount o c).sites = d.sites := rfl
@[simp] theorem Dev.setCount_absent (d : Dev) (o : Nat) (c : Word) : (d.setCount o c).absent = d.absent := rfl
@[simp] theorem Dev.setCount_key (d : Dev) (o : Nat) (c : Word) : (d.setCount o c).key = d.key := rfl
@[simp] theorem Dev.setCount_crz (d : Dev) (o : Nat) (c : Word) : (d.setCount o c).crz = d.crz := rfl
@[simp] theorem Dev.setCount_aborts (d : Dev) (o : Nat) (c : Word) : (d.setCount o c).aborts = d.aborts := rfl
@[simp] theorem Dev.setCount_fabs (d : Dev) (o : Nat) (c : Word) : (d.setCount o c).fabs = d.fabs := rfl
@[simp] theorem Dev.setCount_inbox (d : Dev) (o : Nat) (c : Word) : (d.setCount o c).inbox = d.inbox := rfl
@[simp] theorem Dev.setCount_inSeq (d : Dev) (o : Nat) (c : Word) : (d.setCount o c).inSeq = d.inSeq := rfl
@[simp] theorem Dev.setCount_xops (d : Dev) (o : Nat) (c : Word) : (d.setCount o c).xops = d.xops := rfl
@[simp] theorem Dev.setCount_xSeq (d : Dev) (o : Nat) (c : Word) : (d.setCount o c).xSeq = d.xSeq := rfl
@[simp] theorem Dev.setCount_closedX (d : Dev) (o : Nat) (c : Word) : (d.setCount o c).closedX = d.closedX := rfl
@[simp] theorem Dev.setCount_bars (d : Dev) (o : Nat) (c : Word) : (d.setCount o c).bars = d.bars := rfl
@[simp] theorem Dev.setCount_vcode (d : Dev) (o : Nat) (c : Word) : (d.setCount o c).vcode = d.vcode := rfl
@[simp] theorem Dev.setCount_endB (d : Dev) (o : Nat) (c : Word) : (d.setCount o c).endB = d.endB := rfl
@[simp] theorem Dev.setCount_normEnd (d : Dev) (o : Nat) (c : Word) : (d.setCount o c).normEnd = d.normEnd := rfl
@[simp] theorem Dev.setCount_normed (d : Dev) (o : Nat) (c : Word) : (d.setCount o c).normed = d.normed := rfl
@[simp] theorem Dev.setCount_stepRel (d : Dev) (o : Nat) (c : Word) : (d.setCount o c).stepRel = d.stepRel := rfl
@[simp] theorem Dev.setCount_owned (d : Dev) (o : Nat) (c : Word) : (d.setCount o c).owned = d.owned := rfl
@[simp] theorem Dev.setCount_slacks (d : Dev) (o : Nat) (c : Word) : (d.setCount o c).slacks = d.slacks := rfl
@[simp] theorem Dev.setCount_etas (d : Dev) (o : Nat) (c : Word) : (d.setCount o c).etas = d.etas := rfl
@[simp] theorem Dev.setCount_dig (d : Dev) (o : Nat) (c : Word) : (d.setCount o c).dig = d.dig := rfl
@[simp] theorem Dev.setCount_routes (d : Dev) (o : Nat) (c : Word) : (d.setCount o c).routes = d.routes := rfl
@[simp] theorem Dev.setCount_early (d : Dev) (o : Nat) (c : Word) : (d.setCount o c).early = d.early := rfl
@[simp] theorem Dev.setCount_sorts (d : Dev) (o : Nat) (c : Word) : (d.setCount o c).sorts = d.sorts := rfl
@[simp] theorem Dev.setCount_wseq (d : Dev) (o : Nat) (c : Word) : (d.setCount o c).wseq = d.wseq := rfl
@[simp] theorem Dev.setCount_upds (d : Dev) (o : Nat) (c : Word) : (d.setCount o c).upds = d.upds := rfl
@[simp] theorem Dev.setCount_board (d : Dev) (o : Nat) (c : Word) : (d.setCount o c).board = d.board := rfl
@[simp] theorem Dev.setCount_kiln (d : Dev) (o : Nat) (c : Word) : (d.setCount o c).kiln = d.kiln := rfl
@[simp] theorem Dev.setCount_fire (d : Dev) (o : Nat) (c : Word) : (d.setCount o c).fire = d.fire := rfl
@[simp] theorem Dev.setCount_out (d : Dev) (o : Nat) (c : Word) : (d.setCount o c).out = d.out := rfl
@[simp] theorem Dev.setCount_cc (d : Dev) (o : Nat) (c : Word) : (d.setCount o c).cc = d.cc := rfl
@[simp] theorem Dev.setCount_cyc (d : Dev) (o : Nat) (c : Word) : (d.setCount o c).cyc = d.cyc := rfl
@[simp] theorem Dev.setCount_us (d : Dev) (o : Nat) (c : Word) : (d.setCount o c).us = d.us := rfl
@[simp] theorem Dev.setCount_free (d : Dev) (o : Nat) (c : Word) : (d.setCount o c).free = d.free := rfl
@[simp] theorem Dev.setCount_codes (d : Dev) (o : Nat) (c : Word) : (d.setCount o c).codes = d.codes := rfl

end Sys2Proof.Machine
end

