-- ==== Sys2Proof/Laws/Ops.lean ====
section
/-!
SUPPORT. What each shared operation does, said once: reading back what was set, the outcome of a meaning, the request lines, what follows every
command.
-/

namespace Sys2Proof.Machine

/-! ### Reading back -/

theorem Dev.rd_wr (d : Dev) (a b : Nat) (v : Word) : (d.wr a v).rd b = if b = a then v else d.rd b := by
  simp [Dev.rd, Dev.wr, SMap.get_set]

@[simp] theorem Dev.rd_wr_same (d : Dev) (a : Nat) (v : Word) : (d.wr a v).rd a = v := by simp [Dev.rd_wr]

theorem Dev.rd_wr_other (d : Dev) {a b : Nat} (v : Word) (h : b ≠ a) : (d.wr a v).rd b = d.rd b := by simp [Dev.rd_wr, h]

theorem Dev.rd_congr {d e : Dev} (h : d.regs = e.regs) (off : Nat) : d.rd off = e.rd off := by simp [Dev.rd, h]

theorem Dev.fld_congr {d e : Dev} (h : d.regs = e.regs) (off hi lo : Nat) : d.fld off hi lo = e.fld off hi lo := by
  simp [Dev.fld, Dev.rd_congr h]

theorem Dev.tile_setTile (d : Dev) (t u : Nat) (x : Tile) : (d.setTile t x).tile u = if u = t then x else d.tile u := by
  simp [Dev.tile, Dev.setTile, SMap.get_set]

@[simp] theorem Dev.tile_modTile (d : Dev) (t u : Nat) (f : Tile → Tile) :
    (d.modTile t f).tile u = if u = t then f (d.tile t) else d.tile u := by
  simp [Dev.modTile, Dev.tile_setTile]

@[simp] theorem Dev.tile_modCtx (d : Dev) (t u : Nat) (f : Ctx → Ctx) :
    (d.modCtx t f).tile u = if u = t then { d.tile t with ctx := f (d.tile t).ctx } else d.tile u := by
  simp [Dev.modCtx]

theorem Dev.evcT_setEvcT (d : Dev) (k j : Nat) (e : EvcT) : (d.setEvcT k e).evcT j = if j = k then e else d.evcT j := by
  simp [Dev.evcT, Dev.setEvcT, SMap.get_set]

theorem Dev.port_setPort (d : Dev) (p q : Nat) (x : HostPort) : (d.setPort p x).port q = if q = p then x else d.port q := by
  simp [Dev.port, Dev.setPort, SMap.get_set]

theorem Dev.ring_setRing (d : Dev) (g j : Nat) (r : Ring) : (d.setRing g r).ring j = if j = g then r else d.ring j := by
  simp [Dev.ring, Dev.setRing, SMap.get_set]

theorem Dev.count_setCount (d : Dev) (o j : Nat) (c : Word) : (d.setCount o c).count j = if j = o then c else d.count j := by
  simp [Dev.count, Dev.setCount, SMap.get_set]

/-- SQ0 reads as zero, whatever was written. -/
@[simp] theorem Ctx.getSq_zero (c : Ctx) : c.getSq 0 = 0 := rfl

theorem Ctx.getSq_setSq (c : Ctx) (a b : Nat) (v : BitVec 64) :
    (c.setSq a v).getSq b = if b % 32 = 0 then 0 else if b % 32 = a % 32 then v else c.getSq b := by
  simp only [Ctx.getSq, Ctx.setSq]
  split
  · rfl
  · split
    · split
      · simp_all
      · rfl
    · simp [SMap.get_set]

@[simp] theorem Ctx.getSq_adv (c : Ctx) (r : Nat) : c.adv.getSq r = c.getSq r := rfl

theorem Ctx.getV_setV (c : Ctx) (a b : Nat) (v : List Word) :
    (c.setV a v).getV b = if b % 32 = a % 32 then v else c.getV b := by
  simp [Ctx.getV, Ctx.setV, SMap.get_set]

@[simp] theorem Ctx.getV_adv (c : Ctx) (r : Nat) : c.adv.getV r = c.getV r := rfl

/-! ### Outcomes -/

theorem State.run_next {s u : State} {f : Dev → Dev} (h : s.run f = .next u) : u = { s with dev := (f s.dev).settle } := by
  simpa [State.run] using h.symm

theorem State.runIf_next {s u : State} {b : Bool} {f : Dev → Dev} (h : s.runIf b f = .next u) :
    b = true ∧ u = { s with dev := (f s.dev).settle } := by
  unfold State.runIf at h
  split at h
  · exact ⟨‹_›, State.run_next h⟩
  · exact absurd h (by simp)

theorem State.runIf_true {s : State} {b : Bool} (f : Dev → Dev) (h : b = true) : s.runIf b f = s.run f := by simp [State.runIf, h]

/-- A tile instruction that its tile issues. -/
theorem State.instr_issues {s : State} {t : Nat} (h : Issues s t) (f : Dev → Dev) :
    s.instr t f = .next { s with dev := (f s.dev).settle } := by
  simp [State.instr, State.runIf, State.run, Dev.issue, h.1, h.2]

/-! ### Request lines -/

/-- What decides a request line beside the line itself: hold bits, sources in service, pending bits, targets. -/
theorem Dev.lineCond_congr {d e : Dev} (hr : d.regs = e.regs) (k : Nat) (hh : (d.evcT k).hold = (e.evcT k).hold)
    (hs : (d.evcT k).insv = (e.evcT k).insv) : d.lineCond k = e.lineCond k := by
  have h1 : d.lowest k = e.lowest k := by
    simp only [Dev.lowest, Dev.pendBit, Dev.tgt, Dev.rd_congr hr, Dev.fld_congr hr]
  simp [Dev.lineCond, hh, hs, h1]

theorem Dev.lineRise_frame (d : Dev) (p : Nat) : (d.lineRise p).regs = d.regs ∧ (d.lineRise p).evc = d.evc := by
  unfold Dev.lineRise; split <;> exact ⟨rfl, rfl⟩

theorem Dev.setLine_regs (d : Dev) (k : Nat) : (d.setLine k).regs = d.regs := by
  simp only [Dev.setLine]
  split
  · exact (Dev.lineRise_frame _ _).1
  · rfl

theorem Dev.setLine_evcT (d : Dev) (k j : Nat) :
    (d.setLine k).evcT j = if j = k then { d.evcT k with line := d.lineCond k } else d.evcT j := by
  simp only [Dev.setLine]
  split
  · rw [show ∀ x p, Dev.evcT (Dev.lineRise x p) j = Dev.evcT x j from fun x p => by simp [Dev.evcT, (Dev.lineRise_frame x p).2]]
    exact Dev.evcT_setEvcT d k j _
  · exact Dev.evcT_setEvcT d k j _

theorem Dev.setLine_lineCond (d : Dev) (k j : Nat) : (d.setLine k).lineCond j = d.lineCond j := by
  apply Dev.lineCond_congr (Dev.setLine_regs d k)
  · rw [Dev.setLine_evcT]; split
    · subst_vars; rfl
    · rfl
  · rw [Dev.setLine_evcT]; split
    · subst_vars; rfl
    · rfl

/-- The lines of all three targets stand as R469 says after `lines`. -/
theorem Dev.lines_ok (d : Dev) : d.lines.linesOk = true := by
  simp [Dev.linesOk, Dev.lines, Dev.setLine_lineCond, Dev.setLine_evcT, List.range, List.range.loop]

theorem Dev.settle_ok (d : Dev) : d.settle.linesOk = true := Dev.lines_ok _

/-- Bringing a line to its level leaves everything but the line, the port's pending bit and what is sent. -/
theorem Dev.lineRise_eq (d : Dev) (p : Nat) : d.lineRise p = { d with ports := (d.lineRise p).ports, out := (d.lineRise p).out } := by
  unfold Dev.lineRise; split <;> rfl

theorem Dev.setLine_eq (d : Dev) (k : Nat) :
    d.setLine k = { d with evc := (d.setLine k).evc, ports := (d.setLine k).ports, out := (d.setLine k).out } := by
  simp only [Dev.setLine]
  split
  · rw [Dev.lineRise_eq]; rfl
  · rfl

theorem Dev.lines_eq (d : Dev) : d.lines = { d with evc := d.lines.evc, ports := d.lines.ports, out := d.lines.out } := by
  simp only [Dev.lines]
  rw [Dev.setLine_eq ((d.setLine 0).setLine 1) 2, Dev.setLine_eq (d.setLine 0) 1, Dev.setLine_eq d 0]

/-! ### What follows every command -/

theorem Dev.foldl_id {α : Type} (f : Dev → α → Dev) (d : Dev) (l : List α) (h : ∀ a ∈ l, f d a = d) : l.foldl f d = d := by
  induction l with
  | nil => rfl
  | cons a l ih =>
    rw [List.foldl_cons, h a (by simp)]
    exact ih fun b hb => h b (by simp [hb])

/-- Where nothing waits that could close, only the request lines follow, and unused outcomes of the codes go. -/
theorem Dev.settle_of_calm {d : Dev} (h : d.calm = true) : d.settle = d.lines.withCodes [] := by
  have hd : ∀ c ∈ d.cmds, d.due c = false := by
    intro c hc
    simp only [Dev.calm, Bool.not_eq_true', List.any_eq_false] at h
    simpa using h c hc
  have h1 : d.closeWindows = d := by
    unfold Dev.closeWindows
    apply Dev.foldl_id
    intro c hc
    have := hd c hc
    cases hop : c.op <;> simp only [Dev.due, hop] at this ⊢ <;> try rfl
    simp [this]
  have h2 : d.closeRings = d := by
    unfold Dev.closeRings
    apply Dev.foldl_id
    intro c hc
    have := hd c hc
    cases hop : c.op <;> simp only [Dev.due, hop] at this ⊢ <;> try rfl
    simp [this]
  simp [Dev.settle, h1, h2]

/-- `e` is `d` but for what completing a command can change: commands, waiters and counts, rings, registers, memory with its marks (replies in
device memory), the outcomes of the codes, the request lines, and what is sent. -/
def Dev.onlyDone (d e : Dev) : Prop :=
  e = { d with
    cmds := e.cmds, waiters := e.waiters, sync := e.sync, rings := e.rings, mem := e.mem, bad := e.bad, wback := e.wback
    codes := e.codes, regs := e.regs, evc := e.evc, ports := e.ports, out := e.out }

theorem Dev.onlyDone_refl (d : Dev) : d.onlyDone d := rfl

theorem Dev.onlyDone_trans {a b c : Dev} (h1 : a.onlyDone b) (h2 : b.onlyDone c) : a.onlyDone c := by
  unfold Dev.onlyDone at *
  rw [h2, h1]

theorem Dev.onlyDone_foldl {α : Type} (f : Dev → α → Dev) (h : ∀ x a, Dev.onlyDone x (f x a)) (l : List α) (d : Dev) :
    d.onlyDone (l.foldl f d) := by
  induction l generalizing d with
  | nil => exact Dev.onlyDone_refl d
  | cons a l ih => exact Dev.onlyDone_trans (h d a) (ih (f d a))

theorem Dev.bump_eq (d : Dev) (off n : Nat) : d.bump off n = { d with regs := (d.bump off n).regs } := by
  unfold Dev.bump; split <;> rfl

theorem Dev.bump_onlyDone (d : Dev) (off n : Nat) : d.onlyDone (d.bump off n) := by
  unfold Dev.bump; split <;> rfl

theorem Dev.corrected_onlyDone (d : Dev) (pa cw : Nat) : d.onlyDone (d.corrected pa cw) := by
  unfold Dev.corrected
  split
  · rename_i k off _
    have h : d.onlyDone ((d.bump (rHbmCorr k) 1).wr64 (rHbmCorrAddrLo k) (off / 256 * 256 + 64 * (cw % 4))) :=
      Dev.onlyDone_trans (Dev.bump_onlyDone _ _ _) rfl
    dsimp only
    split
    · exact Dev.onlyDone_trans h rfl
    · exact h
  · exact Dev.bump_onlyDone _ _ _
  · rfl

theorem Dev.uncorrectable_onlyDone (d : Dev) (pa cw : Nat) : d.onlyDone (d.uncorrectable pa cw) := by
  unfold Dev.uncorrectable
  split
  · exact Dev.onlyDone_trans (Dev.onlyDone_trans (Dev.bump_onlyDone _ _ _) (c := Dev.wr64 _ _ _) rfl) rfl
  · exact Dev.bump_onlyDone _ _ _
  · rfl

/-- Reading a block with what befell it counts, and may leave a codeword to write back. -/
theorem Dev.readCounts_onlyDone (d : Dev) (pa : Nat) (u : Upset) : d.onlyDone (d.readCounts pa u) := by
  have h1 : d.onlyDone (d.laneCounts pa (d.meets pa u)) := by
    unfold Dev.laneCounts
    split
    · rfl
    · exact Dev.onlyDone_foldl _ (fun x cw => Dev.corrected_onlyDone x pa cw) _ _
  unfold Dev.readCounts
  dsimp only
  split
  · exact Dev.onlyDone_trans h1 (Dev.corrected_onlyDone _ _ _)
  · exact Dev.onlyDone_trans h1 (Dev.uncorrectable_onlyDone _ _ _)
  · exact h1

/-- A write of part of a block changes memory, its marks and its counters. -/
theorem Dev.writePart_onlyDone (d : Dev) (pa : Nat) (bs : List Byte) (u : Upset) : d.onlyDone (d.writePart pa bs u) := by
  have h := Dev.readCounts_onlyDone d pa u
  have hs : d.onlyDone ((d.readCounts pa u).store pa bs) := Dev.onlyDone_trans h rfl
  unfold Dev.writePart
  dsimp only
  split
  · exact hs
  · split
    · have hm : ∀ x : Dev, x.onlyDone { x with bad := setIns x.bad (pa / 256) } := fun _ => rfl
      split
      · exact Dev.onlyDone_trans (Dev.onlyDone_trans hs (hm _)) (Dev.bump_onlyDone _ _ _)
      · exact Dev.onlyDone_trans (Dev.onlyDone_trans hs (hm _)) (Dev.bump_onlyDone _ _ _)
      · exact Dev.onlyDone_trans hs (hm _)
    · exact hs

theorem Dev.takeCode_onlyDone (d : Dev) : d.onlyDone d.takeCode.2 := by
  unfold Dev.takeCode
  split <;> rfl

theorem Dev.poke_onlyDone (d : Dev) (pa : Nat) (bs : List Byte) : d.onlyDone (d.poke pa bs) :=
  Dev.onlyDone_trans (Dev.takeCode_onlyDone d) (Dev.writePart_onlyDone _ _ _ _)

theorem Dev.signal_onlyDone (d : Dev) (o : Nat) : d.onlyDone (d.signal o) := rfl

theorem Dev.raise_onlyDone (d : Dev) (n : Nat) : d.onlyDone (d.raise n) := rfl

theorem Dev.onlyDone_ite {d : Dev} (b : Bool) {x y : Dev} (hx : d.onlyDone x) (hy : d.onlyDone y) : d.onlyDone (if b then x else y) := by
  cases b
  · exact hy
  · exact hx

theorem Dev.reply_onlyDone (d : Dev) (h : CmdHdr) (o st x : Nat) : d.onlyDone (d.reply h o st x) := by
  have h1 : ∀ g r, d.onlyDone (d.setRing g r) := fun _ _ => rfl
  have h2 : ∀ (y : Dev) a bs, d.onlyDone y → d.onlyDone (y.poke a bs) := fun _ _ _ hy => Dev.onlyDone_trans hy (Dev.poke_onlyDone _ _ _)
  have h3 : ∀ (y : Dev) u, d.onlyDone y → d.onlyDone (y.emit u) := fun _ _ hy => Dev.onlyDone_trans hy rfl
  have h4 : ∀ (y : Dev) p u, d.onlyDone y → d.onlyDone (y.setPort p u) := fun _ _ _ hy => Dev.onlyDone_trans hy rfl
  exact Dev.onlyDone_ite _ (Dev.bump_onlyDone _ _ _)
    (Dev.onlyDone_ite _ (h3 _ _ (h2 _ _ _ (h1 _ _))) (Dev.onlyDone_ite _ (h3 _ _ (h1 _ _)) (h4 _ _ _ (h1 _ _))))

theorem Dev.finish_onlyDone (d : Dev) (c : Cmd) (st x : Nat) : d.onlyDone (d.finish c st x) := by
  have h2 : ∀ y, d.onlyDone y → d.onlyDone (y.reply c.h c.op.code st x) := fun y hy => Dev.onlyDone_trans hy (Dev.reply_onlyDone _ _ _ _ _)
  have h3 : ∀ y, d.onlyDone y → d.onlyDone (if wantIrq c.h then y.raise (8 + c.h.port) else y) := fun y hy =>
    Dev.onlyDone_ite _ (Dev.onlyDone_trans hy (Dev.raise_onlyDone _ _)) hy
  have h1 : ∀ y, d.onlyDone y → d.onlyDone (if wantSig c.h then y.signal c.h.ssync else y) := fun y hy =>
    Dev.onlyDone_ite _ (Dev.onlyDone_trans hy (Dev.signal_onlyDone _ _)) hy
  exact h3 _ (h2 _ (h1 _ rfl))

theorem Dev.lines_onlyDone (d : Dev) : d.onlyDone d.lines := by
  unfold Dev.onlyDone
  rw [Dev.lines_eq]

theorem Dev.closeWindows_onlyDone (d : Dev) : d.onlyDone d.closeWindows := by
  unfold Dev.closeWindows
  apply Dev.onlyDone_foldl
  intro x c
  cases c.op with
  | windowClose i => exact Dev.onlyDone_ite _ (Dev.onlyDone_trans (b := x.setFld (rPalEntryPeer i) 15 15 0) rfl (Dev.finish_onlyDone _ _ _ _)) rfl
  | _ => exact Dev.onlyDone_refl x

theorem Dev.closeRings_onlyDone (d : Dev) : d.onlyDone d.closeRings := by
  unfold Dev.closeRings
  apply Dev.onlyDone_foldl
  intro x c
  cases c.op with
  | ringClose r =>
    exact Dev.onlyDone_ite _ (Dev.onlyDone_trans
      (b := x.setRing (32 * c.h.port + r) { x.ring (32 * c.h.port + r) with opn := false, closing := false }) rfl (Dev.finish_onlyDone _ _ _ _)) rfl
  | _ => exact Dev.onlyDone_refl x

theorem Dev.settle_onlyDone (d : Dev) : d.onlyDone d.settle :=
  Dev.onlyDone_trans (Dev.onlyDone_trans (Dev.onlyDone_trans (Dev.closeWindows_onlyDone d) (Dev.closeRings_onlyDone _)) (Dev.lines_onlyDone _)) rfl

@[simp] theorem Dev.settle_tiles (d : Dev) : d.settle.tiles = d.tiles := by rw [Dev.settle_onlyDone d]
@[simp] theorem Dev.settle_dma (d : Dev) : d.settle.dma = d.dma := by rw [Dev.settle_onlyDone d]
@[simp] theorem Dev.settle_board (d : Dev) : d.settle.board = d.board := by rw [Dev.settle_onlyDone d]
@[simp] theorem Dev.settle_kiln (d : Dev) : d.settle.kiln = d.kiln := by rw [Dev.settle_onlyDone d]
@[simp] theorem Dev.settle_cc (d : Dev) : d.settle.cc = d.cc := by rw [Dev.settle_onlyDone d]

@[simp] theorem Dev.settle_tile (d : Dev) (t : Nat) : d.settle.tile t = d.tile t := by simp [Dev.tile]

/-- Nothing waits where no command does. -/
theorem Dev.calm_of_nil {d : Dev} (h : d.cmds = []) : d.calm = true := by simp [Dev.calm, h]

end Sys2Proof.Machine
end

