-- ==== Sys2Proof/Laws/Exec.lean ====
section
/-!
SUPPORT. What any command can do, said once: it comes to a next state with the queue as it was and a device that `settle` has left, or it is refused
because it names no unit of the device.
-/

namespace Sys2Proof.Machine

/-- The outcomes a command can have. -/
def Shaped (s : State) (o : Host.Outcome State Fault Refusal) : Prop :=
  (∃ d, o = .next { s with dev := Dev.settle d }) ∨ o = .refused .noSuchUnit

theorem shaped_run (s : State) (f : Dev → Dev) : Shaped s (s.run f) := .inl ⟨_, rfl⟩

theorem shaped_runIf (s : State) (b : Bool) (f : Dev → Dev) : Shaped s (s.runIf b f) := by
  cases b
  · exact .inr rfl
  · exact .inl ⟨_, rfl⟩

theorem shaped_access (s : State) (p : Path) (f : Dev → Dev) : Shaped s (s.access p f) := shaped_run s _

theorem shaped_instr (s : State) (t : Nat) (f : Dev → Dev) : Shaped s (s.instr t f) := shaped_runIf s _ _

theorem shaped_vec (s : State) (t : Nat) (f : VecF) (n : Nat) (r : List (BitVec 5)) (k : Dev → Dev) : Shaped s (s.vec t f n r k) := shaped_runIf s _ _

theorem shaped_launch (s : State) (t ra : Nat) (e : Ecc) (p : Nat → Bool) (f : Nat → List Byte → Dev → Dev) : Shaped s (s.launch t ra e p f) :=
  shaped_runIf s _ _

theorem shaped_runC (s : State) (us : List Upset) (f : Dev → Dev) : Shaped s (s.runC us f) := shaped_run s _

theorem shaped_runIfC (s : State) (us : List Upset) (b : Bool) (f : Dev → Dev) : Shaped s (s.runIfC us b f) := shaped_runIf s _ _

theorem shaped_commandC (s : State) (us : List Upset) (h : CmdHdr) (op : CmdOp) : Shaped s (s.commandC us h op) := shaped_runIf s _ _

theorem shaped_command (s : State) (h : CmdHdr) (op : CmdOp) : Shaped s (s.command h op) := shaped_runIf s _ _

theorem shaped_doe (s : State) (p : Nat) (q : DoeReq) : Shaped s (s.doe p q) := shaped_runIf s _ _

theorem shaped_evcAccess (s : State) (k : Target) (f : Dev → Dev) : Shaped s (s.evcAccess k f) := shaped_runIf s _ _

theorem shaped_refused (s : State) : Shaped s (.refused .noSuchUnit) := .inr rfl

theorem shaped_ite (s : State) (p : Prop) [Decidable p] {x y : Host.Outcome State Fault Refusal} (hx : Shaped s x) (hy : Shaped s y) :
    Shaped s (if p then x else y) := by
  split
  · exact hx
  · exact hy

theorem shaped_portEn (path : Path) (p : Nat) (en : Bool) (s : State) : Shaped s (execPortEnWrite path p en s) := by
  cases path
  · exact shaped_run s _
  all_goals exact shaped_ite s _ (shaped_run s _) (shaped_refused s)

/-- Every command has one of the two outcomes. -/
theorem exec_shape (s : State) (c : Instr) : Shaped s (exec c s) :=
  Instr.casesOn (motive := fun c => Shaped s (exec c s)) c
    (fun a b c d => show Shaped s (execRegisterWrite a b c d s) by delta execRegisterWrite; exact shaped_access s _ _)
    (fun a b c => show Shaped s (execRcRegisterRead a b c s) by delta execRcRegisterRead; exact shaped_access s _ _)
    (fun a b c d => show Shaped s (execNarrowAccess a b c d s) by delta execNarrowAccess; exact shaped_runIf s _ _)
    (fun a b => show Shaped s (execLoHalfRead a b s) by delta execLoHalfRead; exact shaped_access s _ _)
    (fun a b c => show Shaped s (execHiHalfWrite a b c s) by delta execHiHalfWrite; exact shaped_access s _ _)
    (fun a b => show Shaped s (execCvtClose a b s) by delta execCvtClose; exact shaped_runIf s _ _)
    (fun a b c => show Shaped s (execCvtSlotChange a b c s) by delta execCvtSlotChange; exact shaped_runIf s _ _)
    (fun a b c d => show Shaped s (execAdd a b c d s) by delta execAdd; exact shaped_instr s _ _)
    (fun a b c d => show Shaped s (execSub a b c d s) by delta execSub; exact shaped_instr s _ _)
    (fun a b c d => show Shaped s (execAnd a b c d s) by delta execAnd; exact shaped_instr s _ _)
    (fun a b c d => show Shaped s (execOr a b c d s) by delta execOr; exact shaped_instr s _ _)
    (fun a b c d => show Shaped s (execXor a b c d s) by delta execXor; exact shaped_instr s _ _)
    (fun a b c d => show Shaped s (execShl a b c d s) by delta execShl; exact shaped_instr s _ _)
    (fun a b c d => show Shaped s (execShr a b c d s) by delta execShr; exact shaped_instr s _ _)
    (fun a b c d => show Shaped s (execSar a b c d s) by delta execSar; exact shaped_instr s _ _)
    (fun a b c d => show Shaped s (execMul a b c d s) by delta execMul; exact shaped_instr s _ _)
    (fun a b c d => show Shaped s (execCmp a b c d s) by delta execCmp; exact shaped_instr s _ _)
    (fun a b c => show Shaped s (execLi a b c s) by delta execLi; exact shaped_instr s _ _)
    (fun a b c => show Shaped s (execCmm a b c s) by delta execCmm; exact shaped_instr s _ _)
    (fun a b => show Shaped s (execCubePassWrite a b s) by delta execCubePassWrite; exact shaped_runIf s _ _)
    (fun a b => show Shaped s (execCubeRampStep a b s) by delta execCubeRampStep; exact shaped_runIf s _ _)
    (fun a b => show Shaped s (execCubeRampHoldExpiry a b s) by delta execCubeRampHoldExpiry; exact shaped_runIf s _ _)
    (fun a b c d => show Shaped s (execCdesc a b c d s) by delta execCdesc; exact shaped_instr s _ _)
    (fun a b c d => show Shaped s (execCacc a b c d s) by delta execCacc; exact shaped_instr s _ _)
    (fun a b => show Shaped s (execBr a b s) by delta execBr; exact shaped_instr s _ _)
    (fun a b c d => show Shaped s (execBeq a b c d s) by delta execBeq; exact shaped_instr s _ _)
    (fun a b c d => show Shaped s (execBne a b c d s) by delta execBne; exact shaped_instr s _ _)
    (fun a b c d => show Shaped s (execBlt a b c d s) by delta execBlt; exact shaped_instr s _ _)
    (fun a b c => show Shaped s (execCall a b c s) by delta execCall; exact shaped_instr s _ _)
    (fun a b => show Shaped s (execRet a b s) by delta execRet; exact shaped_instr s _ _)
    (fun a b c => show Shaped s (execRepeatBody a b c s) by delta execRepeatBody; exact shaped_instr s _ _)
    (fun a => show Shaped s (execTileNop a s) by delta execTileNop; exact shaped_instr s _ _)
    (fun a => show Shaped s (execReservedInstruction a s) by delta execReservedInstruction; exact shaped_instr s _ _)
    (fun a => show Shaped s (execHalt a s) by delta execHalt; exact shaped_instr s _ _)
    (fun a => show Shaped s (execTileHalted a s) by delta execTileHalted; exact shaped_runIf s _ _)
    (fun a b c => show Shaped s (execRdstat a b c s) by delta execRdstat; exact shaped_instr s _ _)
    (fun a b => show Shaped s (execPreemptionPoint a b s) by delta execPreemptionPoint; exact shaped_runIf s _ _)
    (fun a b => show Shaped s (execTileSignal a b s) by delta execTileSignal; exact shaped_instr s _ _)
    (fun a b c => show Shaped s (execTileWait a b c s) by delta execTileWait; exact shaped_instr s _ _)
    (fun a b c => show Shaped s (execTileAdd a b c s) by delta execTileAdd; exact shaped_instr s _ _)
    (fun a => show Shaped s (execFenceLs a s) by delta execFenceLs; exact shaped_instr s _ _)
    (fun a => show Shaped s (execFenceCube a s) by delta execFenceCube; exact shaped_instr s _ _)
    (fun a => show Shaped s (execFenceAll a s) by delta execFenceAll; exact shaped_instr s _ _)
    (fun a => show Shaped s (execFenceRelease a s) by delta execFenceRelease; exact shaped_runIf s _ _)
    (fun a b => show Shaped s (execVadd a b s) by delta execVadd; exact shaped_vec s _ _ _ _ _)
    (fun a b => show Shaped s (execVsub a b s) by delta execVsub; exact shaped_vec s _ _ _ _ _)
    (fun a b => show Shaped s (execVmul a b s) by delta execVmul; exact shaped_vec s _ _ _ _ _)
    (fun a b => show Shaped s (execVfma a b s) by delta execVfma; exact shaped_vec s _ _ _ _ _)
    (fun a b => show Shaped s (execVfms a b s) by delta execVfms; exact shaped_vec s _ _ _ _ _)
    (fun a b => show Shaped s (execVmin a b s) by delta execVmin; exact shaped_vec s _ _ _ _ _)
    (fun a b => show Shaped s (execVmax a b s) by delta execVmax; exact shaped_vec s _ _ _ _ _)
    (fun a b => show Shaped s (execVabs a b s) by delta execVabs; exact shaped_vec s _ _ _ _ _)
    (fun a b => show Shaped s (execVneg a b s) by delta execVneg; exact shaped_vec s _ _ _ _ _)
    (fun a b => show Shaped s (execVadds a b s) by delta execVadds; exact shaped_vec s _ _ _ _ _)
    (fun a b => show Shaped s (execVmuls a b s) by delta execVmuls; exact shaped_vec s _ _ _ _ _)
    (fun a b => show Shaped s (execVaddH a b s) by delta execVaddH; exact shaped_vec s _ _ _ _ _)
    (fun a b => show Shaped s (execVmulH a b s) by delta execVmulH; exact shaped_vec s _ _ _ _ _)
    (fun a b => show Shaped s (execVfmaH a b s) by delta execVfmaH; exact shaped_vec s _ _ _ _ _)
    (fun a b => show Shaped s (execVdot2 a b s) by delta execVdot2; exact shaped_vec s _ _ _ _ _)
    (fun a b => show Shaped s (execVexp a b s) by delta execVexp; exact shaped_vec s _ _ _ _ _)
    (fun a b => show Shaped s (execVexp2 a b s) by delta execVexp2; exact shaped_vec s _ _ _ _ _)
    (fun a b => show Shaped s (execVlog a b s) by delta execVlog; exact shaped_vec s _ _ _ _ _)
    (fun a b => show Shaped s (execVlog2 a b s) by delta execVlog2; exact shaped_vec s _ _ _ _ _)
    (fun a b => show Shaped s (execVrcp a b s) by delta execVrcp; exact shaped_vec s _ _ _ _ _)
    (fun a b => show Shaped s (execVsqrt a b s) by delta execVsqrt; exact shaped_vec s _ _ _ _ _)
    (fun a b => show Shaped s (execVrsqrt a b s) by delta execVrsqrt; exact shaped_vec s _ _ _ _ _)
    (fun a b => show Shaped s (execVtanh a b s) by delta execVtanh; exact shaped_vec s _ _ _ _ _)
    (fun a b => show Shaped s (execVcmpeq a b s) by delta execVcmpeq; exact shaped_vec s _ _ _ _ _)
    (fun a b => show Shaped s (execVcmpne a b s) by delta execVcmpne; exact shaped_vec s _ _ _ _ _)
    (fun a b => show Shaped s (execVcmplt a b s) by delta execVcmplt; exact shaped_vec s _ _ _ _ _)
    (fun a b => show Shaped s (execVcmple a b s) by delta execVcmple; exact shaped_vec s _ _ _ _ _)
    (fun a b => show Shaped s (execVcmpun a b s) by delta execVcmpun; exact shaped_vec s _ _ _ _ _)
    (fun a b => show Shaped s (execVsel a b s) by delta execVsel; exact shaped_vec s _ _ _ _ _)
    (fun a b => show Shaped s (execVclass a b s) by delta execVclass; exact shaped_vec s _ _ _ _ _)
    (fun a b => show Shaped s (execViadd a b s) by delta execViadd; exact shaped_vec s _ _ _ _ _)
    (fun a b => show Shaped s (execVisub a b s) by delta execVisub; exact shaped_vec s _ _ _ _ _)
    (fun a b => show Shaped s (execVimul a b s) by delta execVimul; exact shaped_vec s _ _ _ _ _)
    (fun a b => show Shaped s (execVand a b s) by delta execVand; exact shaped_vec s _ _ _ _ _)
    (fun a b => show Shaped s (execVor a b s) by delta execVor; exact shaped_vec s _ _ _ _ _)
    (fun a b => show Shaped s (execVxor a b s) by delta execVxor; exact shaped_vec s _ _ _ _ _)
    (fun a b => show Shaped s (execVshl a b s) by delta execVshl; exact shaped_vec s _ _ _ _ _)
    (fun a b => show Shaped s (execVshr a b s) by delta execVshr; exact shaped_vec s _ _ _ _ _)
    (fun a b => show Shaped s (execVsar a b s) by delta execVsar; exact shaped_vec s _ _ _ _ _)
    (fun a b => show Shaped s (execVcvtFi a b s) by delta execVcvtFi; exact shaped_vec s _ _ _ _ _)
    (fun a b => show Shaped s (execVcvtIf a b s) by delta execVcvtIf; exact shaped_vec s _ _ _ _ _)
    (fun a b => show Shaped s (execVpackH a b s) by delta execVpackH; exact shaped_vec s _ _ _ _ _)
    (fun a b => show Shaped s (execVunpkH a b s) by delta execVunpkH; exact shaped_vec s _ _ _ _ _)
    (fun a b => show Shaped s (execVredsum a b s) by delta execVredsum; exact shaped_vec s _ _ _ _ _)
    (fun a b => show Shaped s (execVredmax a b s) by delta execVredmax; exact shaped_vec s _ _ _ _ _)
    (fun a b => show Shaped s (execVredmin a b s) by delta execVredmin; exact shaped_vec s _ _ _ _ _)
    (fun a b => show Shaped s (execVtrans a b s) by delta execVtrans; exact shaped_vec s _ _ _ _ _)
    (fun a b => show Shaped s (execVbcast a b s) by delta execVbcast; exact shaped_vec s _ _ _ _ _)
    (fun a b => show Shaped s (execVext a b s) by delta execVext; exact shaped_instr s _ _)
    (fun a b => show Shaped s (execVmov a b s) by delta execVmov; exact shaped_vec s _ _ _ _ _)
    (fun a b c d => show Shaped s (execVdrain a b c d s) by delta execVdrain; exact shaped_vec s _ _ _ _ _)
    (fun a b c => show Shaped s (execLdv a b c s) by delta execLdv; exact shaped_instr s _ _)
    (fun a b c => show Shaped s (execLdvb a b c s) by delta execLdvb; exact shaped_instr s _ _)
    (fun a b c d => show Shaped s (execStv a b c d s) by delta execStv; exact shaped_instr s _ _)
    (fun a b c d => show Shaped s (execStvb a b c d s) by delta execStvb; exact shaped_instr s _ _)
    (fun a b => show Shaped s (execLdt a b s) by delta execLdt; exact shaped_instr s _ _)
    (fun a b => show Shaped s (execStt a b s) by delta execStt; exact shaped_instr s _ _)
    (fun a b c d => show Shaped s (execLdtBlockArrival a b c d s) by delta execLdtBlockArrival; exact shaped_runIfC s _ _ _)
    (fun a b c d => show Shaped s (execSttBlockWrite a b c d s) by delta execSttBlockWrite; exact shaped_runIfC s _ _ _)
    (fun a => show Shaped s (execBsqClose a s) by delta execBsqClose; exact shaped_runIf s _ _)
    (fun a b c => show Shaped s (execExpand24 a b c s) by delta execExpand24; exact shaped_launch s _ _ _ _ _)
    (fun a b c => show Shaped s (execMerge a b c s) by delta execMerge; exact shaped_launch s _ _ _ _ _)
    (fun a b c => show Shaped s (execSparseJobEnd a b c s) by delta execSparseJobEnd; exact shaped_runIf s _ _)
    (fun a b c => show Shaped s (execDmaCopy a b c s) by delta execDmaCopy; exact shaped_launch s _ _ _ _ _)
    (fun a b c => show Shaped s (execDmaCopy2d a b c s) by delta execDmaCopy2d; exact shaped_launch s _ _ _ _ _)
    (fun a b c => show Shaped s (execDmaFill a b c s) by delta execDmaFill; exact shaped_launch s _ _ _ _ _)
    (fun a b c => show Shaped s (execDmaBadKind a b c s) by delta execDmaBadKind; exact shaped_launch s _ _ _ _ _)
    (fun a b c d e => show Shaped s (execDmaRecordStart a b c d e s) by delta execDmaRecordStart; exact shaped_runIfC s _ _ _)
    (fun a => show Shaped s (execDmaPreempt a s) by delta execDmaPreempt; exact shaped_runIf s _ _)
    (fun a b c d e => show Shaped s (execDmaRecordComplete a b c d e s) by delta execDmaRecordComplete; exact shaped_runIfC s _ _ _)
    (fun a b c => show Shaped s (execSort a b c s) by delta execSort; exact shaped_launch s _ _ _ _ _)
    (fun a b => show Shaped s (execSortComplete a b s) by delta execSortComplete; exact shaped_runIfC s _ _ _)
    (fun a => show Shaped s (execCorrectedWriteBack a s) by delta execCorrectedWriteBack; exact shaped_run s _)
    (fun a b c d => show Shaped s (execPatrolScrub a b c d s) by delta execPatrolScrub; exact shaped_runIf s _ _)
    (fun a b c => show Shaped s (execPartialBlockWrite a b c s) by delta execPartialBlockWrite; exact shaped_run s _)
    (fun a b c => show Shaped s (execShelfAdd64 a b c s) by delta execShelfAdd64; exact shaped_run s _)
    (fun a b c => show Shaped s (execShelfAdd32 a b c s) by delta execShelfAdd32; exact shaped_run s _)
    (fun a b c => show Shaped s (execShelfSadd32 a b c s) by delta execShelfSadd32; exact shaped_run s _)
    (fun a b c => show Shaped s (execShelfUmax32 a b c s) by delta execShelfUmax32; exact shaped_run s _)
    (fun a b c d => show Shaped s (execTranslationFault a b c d s) by delta execTranslationFault; exact shaped_runC s _ _)
    (fun a => show Shaped s (execFaultPost a s) by delta execFaultPost; exact shaped_run s _)
    (fun a => show Shaped s (execStudioFaultTake a s) by delta execStudioFaultTake; exact shaped_runC s _ _)
    (fun a => show Shaped s (execFaultExpiry a s) by delta execFaultExpiry; exact shaped_run s _)
    (fun a => show Shaped s (execHoldRefresh a s) by delta execHoldRefresh; exact shaped_run s _)
    (fun a => show Shaped s (execHoldExpiry a s) by delta execHoldExpiry; exact shaped_run s _)
    (fun a b c d => show Shaped s (execContextSaveDone a b c d s) by delta execContextSaveDone; exact shaped_runIfC s _ _ _)
    (fun a b => show Shaped s (execContextRestoreDone a b s) by delta execContextRestoreDone; exact shaped_runIf s _ _)
    (fun a b c => show Shaped s (execRoute a b c s) by delta execRoute; exact shaped_commandC s _ _ _)
    (fun a b c d => show Shaped s (execWheelHalfStart a b c d s) by delta execWheelHalfStart; exact shaped_runIfC s _ _ _)
    (fun a b => show Shaped s (execLayerSkipDecision a b s) by delta execLayerSkipDecision; exact shaped_runC s _ _)
    (fun a b c => show Shaped s (execTallyComplete a b c s) by delta execTallyComplete; exact shaped_runIfC s _ _ _)
    (fun a b c => show Shaped s (execGrantComplete a b c s) by delta execGrantComplete; exact shaped_runIfC s _ _ _)
    (fun a b c d e f => show Shaped s (execDispatchRowReceive a b c d e f s) by delta execDispatchRowReceive; exact shaped_runIfC s _ _ _)
    (fun a b c => show Shaped s (execReturnLaunch a b c s) by delta execReturnLaunch; exact shaped_runIfC s _ _ _)
    (fun a b c d e => show Shaped s (execCombineContribution a b c d e s) by delta execCombineContribution; exact shaped_runIfC s _ _ _)
    (fun a b c d => show Shaped s (execCombineDrain a b c d s) by delta execCombineDrain; exact shaped_runIfC s _ _ _)
    (fun a b => show Shaped s (execWindowOpen a b s) by delta execWindowOpen; exact shaped_command s _ _)
    (fun a b => show Shaped s (execWindowClose a b s) by delta execWindowClose; exact shaped_command s _ _)
    (fun a b c => shaped_portEn a b c s)
    (fun a b c => show Shaped s (execPortTrained a b c s) by delta execPortTrained; exact shaped_runIf s _ _)
    (fun a => show Shaped s (execFrameTransmit a s) by delta execFrameTransmit; exact shaped_runIf s _ _)
    (fun a b => show Shaped s (execIdle a b s) by delta execIdle; exact shaped_runIf s _ _)
    (fun a b => show Shaped s (execHead a b s) by delta execHead; exact shaped_runIf s _ _)
    (fun a b => show Shaped s (execRecvPlainWrite a b s) by delta execRecvPlainWrite; exact shaped_runC s _ _)
    (fun a b c => show Shaped s (execRecvAdd32 a b c s) by delta execRecvAdd32; exact shaped_runC s _ _)
    (fun a b c => show Shaped s (execRecvAdd64 a b c s) by delta execRecvAdd64; exact shaped_runC s _ _)
    (fun a b c => show Shaped s (execRecvUmax32 a b c s) by delta execRecvUmax32; exact shaped_runC s _ _)
    (fun a b => show Shaped s (execLink a b s) by delta execLink; exact shaped_runIf s _ _)
    (fun a => show Shaped s (execReplayTimeout a s) by delta execReplayTimeout; exact shaped_runIf s _ _)
    (fun a b => show Shaped s (execHold a b s) by delta execHold; exact shaped_runIf s _ _)
    (fun a b => show Shaped s (execResume a b s) by delta execResume; exact shaped_runIf s _ _)
    (fun a b => show Shaped s (execBarrier a b s) by delta execBarrier; exact shaped_runIf s _ _)
    (fun a b c => show Shaped s (execXcredit a b c s) by delta execXcredit; exact shaped_runIfC s _ _ _)
    (fun a b c d => show Shaped s (execReread a b c d s) by delta execReread; exact shaped_runIfC s _ _ _)
    (fun a b c => show Shaped s (execBadFlit a b c s) by delta execBadFlit; exact shaped_runIf s _ _)
    (fun a b c d e f => show Shaped s (execAbortFlit a b c d e f s) by delta execAbortFlit; exact shaped_runIf s _ _)
    (fun a b c d e => show Shaped s (execLaneSpareRequest a b c d e s) by delta execLaneSpareRequest; exact shaped_runIf s _ _)
    (fun a b c d => show Shaped s (execSpareRequestReceive a b c d s) by delta execSpareRequestReceive; exact shaped_runIf s _ _)
    (fun a b c => show Shaped s (execSpareLocked a b c s) by delta execSpareLocked; exact shaped_runIf s _ _)
    (fun a b => show Shaped s (execLaneSwitch a b s) by delta execLaneSwitch; exact shaped_runIf s _ _)
    (fun a b c => show Shaped s (execExchange a b c s) by delta execExchange; exact shaped_commandC s _ _ _)
    (fun a b c => show Shaped s (execReduceInt a b c s) by delta execReduceInt; exact shaped_commandC s _ _ _)
    (fun a b c => show Shaped s (execPermute a b c s) by delta execPermute; exact shaped_commandC s _ _ _)
    (fun a b => show Shaped s (execAlltoall a b s) by delta execAlltoall; exact shaped_runC s _ _)
    (fun a b => show Shaped s (execReduceScatter a b s) by delta execReduceScatter; exact shaped_runC s _ _)
    (fun a b => show Shaped s (execAllGather a b s) by delta execAllGather; exact shaped_runC s _ _)
    (fun a b => show Shaped s (execAllReduce a b s) by delta execAllReduce; exact shaped_runC s _ _)
    (fun a b => show Shaped s (execSend a b s) by delta execSend; exact shaped_runC s _ _)
    (fun a b => show Shaped s (execRecv a b s) by delta execRecv; exact shaped_runC s _ _)
    (fun a b => show Shaped s (execRing a b s) by delta execRing; exact shaped_runC s _ _)
    (fun a b => show Shaped s (execRingStepArrived a b s) by delta execRingStepArrived; exact shaped_runC s _ _)
    (fun a b => show Shaped s (execBarrierOp a b s) by delta execBarrierOp; exact shaped_runC s _ _)
    (fun a b => show Shaped s (execBarrierRoundComplete a b s) by delta execBarrierRoundComplete; exact shaped_runC s _ _)
    (fun a b => show Shaped s (execGrad a b s) by delta execGrad; exact shaped_runC s _ _)
    (fun a b => show Shaped s (execGradBucketEmaxDone a b s) by delta execGradBucketEmaxDone; exact shaped_runC s _ _)
    (fun a b => show Shaped s (execGradBucketSumDone a b s) by delta execGradBucketSumDone; exact shaped_runC s _ _)
    (fun a => show Shaped s (execGradNormDone a s) by delta execGradNormDone; exact shaped_run s _)
    (fun a b => show Shaped s (execVerdict a b s) by delta execVerdict; exact shaped_runC s _ _)
    (fun a b => show Shaped s (execVerdictComplete a b s) by delta execVerdictComplete; exact shaped_runC s _ _)
    (fun a => show Shaped s (execConeEvaluationDone a s) by delta execConeEvaluationDone; exact shaped_runC s _ _)
    (fun a b => show Shaped s (execReductionHopDone a b s) by delta execReductionHopDone; exact shaped_runC s _ _)
    (fun a b => show Shaped s (execOneValueExchangeDone a b s) by delta execOneValueExchangeDone; exact shaped_runC s _ _)
    (fun a b => show Shaped s (execPermuteRoundEnd a b s) by delta execPermuteRoundEnd; exact shaped_runC s _ _)
    (fun a => show Shaped s (execExchangeTimeout a s) by delta execExchangeTimeout; exact shaped_run s _)
    (fun a b c d e => show Shaped s (execUpdate a b c d e s) by delta execUpdate; exact shaped_commandC s _ _ _)
    (fun a b => show Shaped s (execUpdateRecordRun a b s) by delta execUpdateRecordRun; exact shaped_runC s _ _)
    (fun a b => show Shaped s (execUpdateRecordEnd a b s) by delta execUpdateRecordEnd; exact shaped_runC s _ _)
    (fun a b c d e => show Shaped s (execRetryComplete a b c d e s) by delta execRetryComplete; exact shaped_runC s _ _)
    (show Shaped s (execTestSweepBoundary s) by delta execTestSweepBoundary; exact shaped_run s _)
    (fun a => show Shaped s (execTestFiringStart a s) by delta execTestFiringStart; exact shaped_runIf s _ _)
    (fun a b c => show Shaped s (execTestFiringEnd a b c s) by delta execTestFiringEnd; exact shaped_runIf s _ _)
    (fun a b c => show Shaped s (execFiringRetest a b c s) by delta execFiringRetest; exact shaped_runIf s _ _)
    (fun a => show Shaped s (execCrazeEntryWrite a s) by delta execCrazeEntryWrite; exact shaped_run s _)
    (fun a b => show Shaped s (execPowerSample a b s) by delta execPowerSample; exact shaped_run s _)
    (fun a => show Shaped s (execKilnBin a s) by delta execKilnBin; exact shaped_run s _)
    (show Shaped s (execExcursionLimit s) by delta execExcursionLimit; exact shaped_run s _)
    (fun a b => show Shaped s (execDutyWindow a b s) by delta execDutyWindow; exact shaped_runIf s _ _)
    (show Shaped s (execBudgetShiftApply s) by delta execBudgetShiftApply; exact shaped_run s _)
    (fun a b => show Shaped s (execWaveRowRelease a b s) by delta execWaveRowRelease; exact shaped_runIf s _ _)
    (fun a b => show Shaped s (execDroopDetect a b s) by delta execDroopDetect; exact shaped_runIf s _ _)
    (fun a b => show Shaped s (execDroopEnd a b s) by delta execDroopEnd; exact shaped_runIf s _ _)
    (fun a => show Shaped s (execVinWarning a s) by delta execVinWarning; exact shaped_run s _)
    (fun a => show Shaped s (execVinRecover a s) by delta execVinRecover; exact shaped_run s _)
    (fun a => show Shaped s (execVinDeep a s) by delta execVinDeep; exact shaped_run s _)
    (show Shaped s (execVinDeepExpiry s) by delta execVinDeepExpiry; exact shaped_run s _)
    (show Shaped s (execVinHoldExpiry s) by delta execVinHoldExpiry; exact shaped_run s _)
    (fun a b => show Shaped s (execThermalSample a b s) by delta execThermalSample; exact shaped_run s _)
    (fun a b c => show Shaped s (execDbCmdTail a b c s) by delta execDbCmdTail; exact shaped_runIf s _ _)
    (fun a b c => show Shaped s (execDbStsHead a b c s) by delta execDbStsHead; exact shaped_runIf s _ _)
    (fun a b c d => show Shaped s (execCommandFetch a b c d s) by delta execCommandFetch; exact shaped_runIfC s _ _ _)
    (fun a b c => show Shaped s (execCommandDispatch a b c s) by delta execCommandDispatch; exact shaped_runIfC s _ _ _)
    (fun a => show Shaped s (execNop a s) by delta execNop; exact shaped_command s _ _)
    (fun a b c => show Shaped s (execLaunch a b c s) by delta execLaunch; exact shaped_commandC s _ _ _)
    (fun a b => show Shaped s (execLaunchTileStart a b s) by delta execLaunchTileStart; exact shaped_runIfC s _ _ _)
    (fun a b c => show Shaped s (execCopy a b c s) by delta execCopy; exact shaped_command s _ _)
    (fun a b c => show Shaped s (execSignal a b c s) by delta execSignal; exact shaped_command s _ _)
    (fun a b c d => show Shaped s (execWait a b c d s) by delta execWait; exact shaped_command s _ _)
    (fun a b c d => show Shaped s (execCmdAdd a b c d s) by delta execCmdAdd; exact shaped_command s _ _)
    (fun a b c d => show Shaped s (execReset a b c d s) by delta execReset; exact shaped_command s _ _)
    (fun a b => show Shaped s (execSyncWaiterRelease a b s) by delta execSyncWaiterRelease; exact shaped_runC s _ _)
    (fun a b => show Shaped s (execRingOpen a b s) by delta execRingOpen; exact shaped_command s _ _)
    (fun a b => show Shaped s (execRingClose a b s) by delta execRingClose; exact shaped_command s _ _)
    (fun a b c => show Shaped s (execTlbInval a b c s) by delta execTlbInval; exact shaped_command s _ _)
    (fun a b c => show Shaped s (execFaultResolve a b c s) by delta execFaultResolve; exact shaped_command s _ _)
    (fun a b => show Shaped s (execJobStart a b s) by delta execJobStart; exact shaped_command s _ _)
    (fun a b => show Shaped s (execJobReset a b s) by delta execJobReset; exact shaped_command s _ _)
    (fun a b c => show Shaped s (execTileReset a b c s) by delta execTileReset; exact shaped_command s _ _)
    (fun a => show Shaped s (execAbort a s) by delta execAbort; exact shaped_command s _ _)
    (fun a b => show Shaped s (execTakeover a b s) by delta execTakeover; exact shaped_command s _ _)
    (fun a b c => show Shaped s (execQuery a b c s) by delta execQuery; exact shaped_command s _ _)
    (fun a b => show Shaped s (execRegRead a b s) by delta execRegRead; exact shaped_command s _ _)
    (fun a b c => show Shaped s (execRegWrite a b c s) by delta execRegWrite; exact shaped_command s _ _)
    (fun a b c => show Shaped s (execHifAdminCtlWrite a b c s) by delta execHifAdminCtlWrite; exact shaped_ite s _ (shaped_access s _ _) (shaped_refused s))
    (fun a b c d => show Shaped s (execBar2Read a b c d s) by delta execBar2Read; exact shaped_runIf s _ _)
    (fun a b c d e => show Shaped s (execBar2Write a b c d e s) by delta execBar2Write; exact shaped_runIfC s _ _ _)
    (fun a => show Shaped s (execMsixUnmask a s) by delta execMsixUnmask; exact shaped_runIf s _ _)
    (fun a b c => show Shaped s (execBusMasterEnableChange a b c s) by delta execBusMasterEnableChange; exact shaped_runIf s _ _)
    (fun a => show Shaped s (execPerstAssert a s) by delta execPerstAssert; exact shaped_runIf s _ _)
    (fun a b c => show Shaped s (execRingFetchFailed a b c s) by delta execRingFetchFailed; exact shaped_runIf s _ _)
    (fun a b => show Shaped s (execHeartbeatWrite a b s) by delta execHeartbeatWrite; exact shaped_runIf s _ _)
    (fun a => show Shaped s (execHifAbort a s) by delta execHifAbort; exact shaped_runIf s _ _)
    (fun a => show Shaped s (execGetVersion a s) by delta execGetVersion; exact shaped_doe s _ _)
    (fun a => show Shaped s (execGetCapabilities a s) by delta execGetCapabilities; exact shaped_doe s _ _)
    (fun a b c => show Shaped s (execNegotiateAlgorithms a b c s) by delta execNegotiateAlgorithms; exact shaped_doe s _ _)
    (fun a => show Shaped s (execGetDigests a s) by delta execGetDigests; exact shaped_doe s _ _)
    (fun a b c d => show Shaped s (execGetCertificate a b c d s) by delta execGetCertificate; exact shaped_doe s _ _)
    (fun a b c => show Shaped s (execChallenge a b c s) by delta execChallenge; exact shaped_doe s _ _)
    (fun a b c d => show Shaped s (execGetMeasurements a b c d s) by delta execGetMeasurements; exact shaped_doe s _ _)
    (fun a b => show Shaped s (execUnsupportedSpdmRequest a b s) by delta execUnsupportedSpdmRequest; exact shaped_doe s _ _)
    (fun a => show Shaped s (execDoeAbort a s) by delta execDoeAbort; exact shaped_runIf s _ _)
    (fun a b => show Shaped s (execEvcClaim a b s) by delta execEvcClaim; exact shaped_evcAccess s _ _)
    (fun a => show Shaped s (execEvcComplete a s) by delta execEvcComplete; exact shaped_evcAccess s _ _)
    (fun a b => show Shaped s (execEvcHold a b s) by delta execEvcHold; exact shaped_evcAccess s _ _)
    (fun a b c => show Shaped s (execEvcSet a b c s) by delta execEvcSet; exact shaped_ite s _ (shaped_runIf s _ _) (shaped_refused s))
    (fun a b c d => show Shaped s (execEvcPendClear a b c d s) by delta execEvcPendClear; exact shaped_ite s _ (shaped_runIf s _ _) (shaped_refused s))
    (fun a b c => show Shaped s (execEvcTgtWrite a b c s) by delta execEvcTgtWrite; exact shaped_ite s _ (shaped_runIf s _ _) (shaped_refused s))
    (fun a => show Shaped s (execStandbyRailUp a s) by delta execStandbyRailUp; exact shaped_run s _)
    (show Shaped s (execStandbyHoldExpiry s) by delta execStandbyHoldExpiry; exact shaped_run s _)
    (fun a => show Shaped s (execModEnHigh a s) by delta execModEnHigh; exact shaped_run s _)
    (show Shaped s (execModEnLow s) by delta execModEnLow; exact shaped_run s _)
    (show Shaped s (execRailTimeout s) by delta execRailTimeout; exact shaped_run s _)
    (show Shaped s (execModuleReset s) by delta execModuleReset; exact shaped_run s _)
    (fun a => show Shaped s (execBootStart a s) by delta execBootStart; exact shaped_run s _)
    (show Shaped s (execBootConfirm s) by delta execBootConfirm; exact shaped_run s _)
    (fun a => show Shaped s (execDormantEnter a s) by delta execDormantEnter; exact shaped_run s _)
    (show Shaped s (execDormantWake s) by delta execDormantWake; exact shaped_run s _)
    (fun a => show Shaped s (execStatus a s) by delta execStatus; exact shaped_run s _)
    (fun a b c => show Shaped s (execFlashRead a b c s) by delta execFlashRead; exact shaped_run s _)
    (fun a b c => show Shaped s (execFlashWrite a b c s) by delta execFlashWrite; exact shaped_run s _)
    (fun a b c => show Shaped s (execFlashErase a b c s) by delta execFlashErase; exact shaped_run s _)
    (fun a b => show Shaped s (execAlertClear a b s) by delta execAlertClear; exact shaped_run s _)
    (fun a => show Shaped s (execMailboxAbort a s) by delta execMailboxAbort; exact shaped_run s _)
    (fun a b => show Shaped s (execMailboxBadOp a b s) by delta execMailboxBadOp; exact shaped_run s _)
    (fun a => show Shaped s (execMailboxRequestDiscard a s) by delta execMailboxRequestDiscard; exact shaped_run s _)
    (fun a => show Shaped s (execFlashOpComplete a s) by delta execFlashOpComplete; exact shaped_run s _)
    (fun a b => show Shaped s (execCoolantSample a b s) by delta execCoolantSample; exact shaped_run s _)
    (fun a b c d => show Shaped s (execPerstDeassert a b c d s) by delta execPerstDeassert; exact shaped_runIf s _ _)
    (fun a => show Shaped s (execConfigurationRequest a s) by delta execConfigurationRequest; exact shaped_runIf s _ _)
    (fun a b => show Shaped s (execDoeDiscovery a b s) by delta execDoeDiscovery; exact shaped_doe s _ _)
    (fun a => show Shaped s (execDynamicAddressAssignment a s) by delta execDynamicAddressAssignment; exact shaped_run s _)
    (show Shaped s (execMailboxResponseRead s) by delta execMailboxResponseRead; exact shaped_run s _)
    (fun a => show Shaped s (execRailRegulationLoss a s) by delta execRailRegulationLoss; exact shaped_run s _)
    (fun a b c => show Shaped s (execHbmLaneFailure a b c s) by delta execHbmLaneFailure; exact shaped_runIf s _ _)

/-- A next state has the queue as it was and the request lines at their levels. -/
theorem exec_next {c : Instr} {s u : State} (h : exec c s = .next u) : u.pending = s.pending ∧ ∃ d, u.dev = Dev.settle d := by
  obtain ⟨d, hd⟩ | hd := exec_shape s c
  · rw [hd] at h
    cases h
    exact ⟨rfl, d, rfl⟩
  · rw [hd] at h; cases h

/-- An idle step is one core cycle. -/
theorem tick_eq (s : State) : tick s = s.run Dev.tickCc := by delta tick; exact rfl

/-- A step with a command waiting runs it. -/
theorem step_cons (s : State) {c : Instr} {rest : List Instr} (h : s.pending = c :: rest) : step s = exec c { s with pending := rest } := by
  rw [step, h]

/-- A step with no command waiting. -/
theorem step_nil (s : State) (h : s.pending = []) : step s = s.run Dev.tickCc := by rw [step, h, ← tick_eq]

/-- Every step that comes to a next state ends in `settle`. -/
theorem step_settles {s u : State} (h : step s = .next u) : ∃ d, u.dev = Dev.settle d := by
  cases hp : s.pending with
  | nil =>
    rw [step_nil s hp] at h
    have e := State.run_next h
    exact ⟨Dev.tickCc s.dev, by rw [e]⟩
  | cons c rest =>
    rw [step_cons s hp] at h
    exact (exec_next h).2

/-- A run of an empty number of steps, and one step more. -/
theorem run_zero (s : State) : Host.Core.run core 0 s = .next s := rfl

end Sys2Proof.Machine
end

