-- ==== Sys2Proof/Laws/Memory.lean ====
section
/-!
SUPPORT. The operations over memory keep every memory in canonical form: what `Dev.memOk` rests on, the writes of blocks and parts, the ends of
commands and jobs, and an agent's reads and writes by virtual address.
-/

namespace Sys2Proof.Machine

/-! ### What `memOk` rests on -/

/-- The canonical form rests on memory, module flash and the tiles alone. -/
theorem Dev.memOk_congr {d e : Dev} (hm : e.mem = d.mem) (hb : e.board = d.board) (ht : e.tiles = d.tiles) : e.memOk = d.memOk := by
  simp only [Dev.memOk, hm, hb, ht]

/-- A tile whose memories are in canonical form. -/
def Tile.memOk (x : Tile) : Bool := Mem.wf 0 x.ctx.store && x.slots.all fun q => Mem.wf 0 q.2.ctx.store

theorem Dev.memOk_iff (d : Dev) :
    d.memOk = true ↔ Mem.wf 0 d.mem = true ∧ Mem.wf blank d.board.flash = true ∧ ∀ p ∈ d.tiles, Tile.memOk p.2 = true := by
  simp [Dev.memOk, Tile.memOk, and_assoc]

theorem SMap.forall_set {α : Type} {P : α → Prop} {m : SMap α} (h : ∀ p ∈ m, P p.2) (i : Nat) {a : α} (ha : P a) :
    ∀ p ∈ SMap.set m i a, P p.2 := by
  induction m with
  | nil => intro p hp; rw [SMap.set, List.mem_singleton] at hp; subst hp; exact ha
  | cons q m ih =>
    obtain ⟨k, v⟩ := q
    have hq : P v := h (k, v) (by simp)
    have hm : ∀ p ∈ m, P p.2 := fun p hp => h p (by simp [hp])
    intro p hp
    simp only [SMap.set] at hp
    split at hp
    · rcases List.mem_cons.1 hp with rfl | hp
      · exact ha
      · exact hm p hp
    · split at hp
      · rcases List.mem_cons.1 hp with rfl | hp
        · exact ha
        · exact h p hp
      · rcases List.mem_cons.1 hp with rfl | hp
        · exact hq
        · exact ih hm p hp

theorem SMap.get_of_forall {α : Type} {P : α → Prop} {m : SMap α} (h : ∀ p ∈ m, P p.2) {d : α} (hd : P d) (i : Nat) : P (SMap.get d m i) := by
  induction m with
  | nil => exact hd
  | cons q m ih =>
    obtain ⟨k, v⟩ := q
    simp only [SMap.get]
    split
    · exact h (k, v) (by simp)
    · exact ih fun p hp => h p (by simp [hp])

theorem Dev.memOk_tile {d : Dev} (h : d.memOk = true) (t : Nat) : Tile.memOk (d.tile t) = true :=
  SMap.get_of_forall (P := fun x => Tile.memOk x = true) ((Dev.memOk_iff d).1 h).2.2 rfl t

theorem Dev.memOk_setTile {d : Dev} (h : d.memOk = true) (t : Nat) {x : Tile} (hx : Tile.memOk x = true) : (d.setTile t x).memOk = true := by
  rw [Dev.memOk_iff] at *
  exact ⟨h.1, h.2.1, SMap.forall_set (P := fun x => Tile.memOk x = true) h.2.2 t hx⟩

/-- A change of a tile that keeps its store and its slots. -/
theorem Dev.memOk_modTile {d : Dev} (h : d.memOk = true) (t : Nat) (f : Tile → Tile)
    (hs : (f (d.tile t)).ctx.store = (d.tile t).ctx.store) (hl : (f (d.tile t)).slots = (d.tile t).slots) : (d.modTile t f).memOk = true := by
  apply Dev.memOk_setTile h
  have := Dev.memOk_tile h t
  simpa [Tile.memOk, hs, hl] using this

/-- A change of a context that keeps its store in canonical form. -/
theorem Dev.memOk_modCtx {d : Dev} (h : d.memOk = true) (t : Nat) (f : Ctx → Ctx)
    (hs : Mem.wf 0 (d.tile t).ctx.store = true → Mem.wf 0 (f (d.tile t).ctx).store = true) : (d.modCtx t f).memOk = true := by
  apply Dev.memOk_setTile h
  have := Dev.memOk_tile h t
  simp only [Tile.memOk, Bool.and_eq_true] at *
  exact ⟨hs this.1, this.2⟩

/-! ### Registers, events, counts -/

@[simp] theorem Dev.memOk_wr (d : Dev) (off : Nat) (v : Word) : (d.wr off v).memOk = d.memOk := rfl
@[simp] theorem Dev.memOk_setFld (d : Dev) (off hi lo v : Nat) : (d.setFld off hi lo v).memOk = d.memOk := rfl
@[simp] theorem Dev.memOk_bump (d : Dev) (off n : Nat) : (d.bump off n).memOk = d.memOk := by unfold Dev.bump; split <;> rfl
@[simp] theorem Dev.memOk_raise (d : Dev) (n : Nat) : (d.raise n).memOk = d.memOk := rfl
@[simp] theorem Dev.memOk_emit (d : Dev) (o : Out) : (d.emit o).memOk = d.memOk := rfl
@[simp] theorem Dev.memOk_setCount (d : Dev) (o : Nat) (c : Word) : (d.setCount o c).memOk = d.memOk := rfl
@[simp] theorem Dev.memOk_signal (d : Dev) (o : Nat) : (d.signal o).memOk = d.memOk := rfl
@[simp] theorem Dev.memOk_setRing (d : Dev) (g : Nat) (r : Ring) : (d.setRing g r).memOk = d.memOk := rfl
@[simp] theorem Dev.memOk_setPort (d : Dev) (p : Nat) (x : HostPort) : (d.setPort p x).memOk = d.memOk := rfl

/-! ### Device memory -/

theorem Dev.memOk_store {d : Dev} (h : d.memOk = true) (pa : Nat) (bs : List Byte) : (d.store pa bs).memOk = true := by
  rw [Dev.memOk_iff] at *
  exact ⟨Mem.wf_write h.1 pa bs, h.2⟩

theorem Dev.memOk_writeBlock {d : Dev} (h : d.memOk = true) (pa : Nat) (bs : List Byte) : (d.writeBlock pa bs).memOk = true :=
  Dev.memOk_store h _ bs

@[simp] theorem Dev.memOk_corrected (d : Dev) (pa cw : Nat) : (d.corrected pa cw).memOk = d.memOk := by
  unfold Dev.corrected
  split
  · next k off _ =>
    dsimp only
    split
    · exact Dev.memOk_bump d (rHbmCorr k) 1
    · exact Dev.memOk_bump d (rHbmCorr k) 1
  · simp
  · rfl

@[simp] theorem Dev.memOk_uncorrectable (d : Dev) (pa cw : Nat) : (d.uncorrectable pa cw).memOk = d.memOk := by
  unfold Dev.uncorrectable Dev.wr64
  split <;> simp

@[simp] theorem Dev.memOk_takeCode (d : Dev) : d.takeCode.2.memOk = d.memOk := by
  unfold Dev.takeCode
  split <;> rfl

@[simp] theorem Dev.memOk_laneCounts (d : Dev) (pa : Nat) (u : Upset) : (d.laneCounts pa u).memOk = d.memOk := by
  unfold Dev.laneCounts
  split
  · rfl
  · generalize (List.range 4).filter _ = l
    rename_i hne
    clear hne
    induction l generalizing d with
    | nil => rfl
    | cons c l ih => rw [List.foldl_cons, ih, Dev.memOk_corrected]

@[simp] theorem Dev.memOk_readCounts (d : Dev) (pa : Nat) (u : Upset) : (d.readCounts pa u).memOk = d.memOk := by
  unfold Dev.readCounts
  dsimp only
  split <;> simp

theorem Dev.memOk_writePart {d : Dev} (h : d.memOk = true) (pa : Nat) (bs : List Byte) (u : Upset) : (d.writePart pa bs u).memOk = true := by
  have h1 : ((d.readCounts pa u).store pa bs).memOk = true := Dev.memOk_store (by simpa using h) pa bs
  have h2 (l : List Nat) : ({ (d.readCounts pa u).store pa bs with bad := l } : Dev).memOk = true := h1
  simp only [Dev.writePart]
  split
  · exact h1
  · split
    · split <;> simp [h2]
    · exact h1

theorem Dev.memOk_poke {d : Dev} (h : d.memOk = true) (pa : Nat) (bs : List Byte) : (d.poke pa bs).memOk = true :=
  Dev.memOk_writePart (by simpa using h) pa bs _

theorem Dev.memOk_writeCut (n : Nat) {d : Dev} (h : d.memOk = true) (pa : Nat) (bs : List Byte) : (Dev.writeCut n d pa bs).memOk = true := by
  induction n generalizing d pa bs with
  | zero => exact h
  | succ n ih =>
    simp only [Dev.writeCut]
    split
    · exact h
    · apply ih
      split
      · exact Dev.memOk_writeBlock h _ _
      · exact Dev.memOk_writePart (by simpa using h) _ _ _

theorem Dev.memOk_putBlocks (ps : List Nat) (bs : List Byte) {d : Dev} (h : d.memOk = true) : (Dev.putBlocks ps bs d).memOk = true := by
  induction ps generalizing bs d with
  | nil => exact h
  | cons pa ps ih =>
    simp only [Dev.putBlocks]
    apply ih
    split
    · exact Dev.memOk_writeBlock h _ _
    · exact Dev.memOk_writePart (by simpa using h) _ _ _

/-! ### Completing commands, job-fatal events -/

theorem Dev.memOk_reply {d : Dev} (h : d.memOk = true) (c : CmdHdr) (o st x : Nat) : (d.reply c o st x).memOk = true := by
  simp only [Dev.reply]
  split
  · simpa using h
  · split
    · rw [Dev.memOk_emit]
      exact Dev.memOk_poke (by simpa using h) _ _
    · split <;> simpa using h

theorem Dev.memOk_finish {d : Dev} (h : d.memOk = true) (c : Cmd) (st x : Nat) : (d.finish c st x).memOk = true := by
  simp only [Dev.finish]
  split
  · rw [Dev.memOk_raise]
    apply Dev.memOk_reply
    split <;> exact h
  · apply Dev.memOk_reply
    split <;> exact h

theorem Dev.memOk_finishId {d : Dev} (h : d.memOk = true) (id st x : Nat) : (d.finishId id st x).memOk = true := by
  unfold Dev.finishId
  split
  · exact Dev.memOk_finish h _ _ _
  · exact h

/-- A fold over a list keeps the canonical form where each of its steps does. -/
theorem Dev.memOk_foldl {α : Type} (f : Dev → α → Dev) (hf : ∀ e a, e.memOk = true → (f e a).memOk = true) (l : List α) {d : Dev}
    (h : d.memOk = true) : (l.foldl f d).memOk = true := by
  induction l generalizing d with
  | nil => exact h
  | cons a l ih => exact ih (hf d a h)

theorem Dev.memOk_endCmds {d : Dev} (h : d.memOk = true) : d.endCmds.memOk = true :=
  Dev.memOk_foldl _ (fun _ _ he => Dev.memOk_finishId he _ _ _) _ h

/-- A change of every tile that keeps its store and its slots. -/
theorem Dev.memOk_mapTiles {d : Dev} (h : d.memOk = true) (f : Tile → Tile) (hs : ∀ x, (f x).ctx.store = x.ctx.store)
    (hl : ∀ x, (f x).slots = x.slots) : ({ d with tiles := d.tiles.map fun p => (p.1, f p.2) } : Dev).memOk = true := by
  rw [Dev.memOk_iff] at *
  refine ⟨h.1, h.2.1, fun p hp => ?_⟩
  obtain ⟨q, hq, rfl⟩ := List.mem_map.1 hp
  have := h.2.2 q hq
  simpa [Tile.memOk, hs, hl] using this

theorem Dev.memOk_dropFirings {d : Dev} (h : d.memOk = true) : d.dropFirings.memOk = true := by
  unfold Dev.dropFirings
  split
  · exact Dev.memOk_mapTiles h dropFiring (fun _ => rfl) fun _ => rfl
  · exact h

theorem Dev.memOk_abandon {d : Dev} (h : d.memOk = true) : d.abandon.memOk = true := Dev.memOk_dropFirings h

theorem Dev.memOk_stopAgents {d : Dev} (h : d.memOk = true) : d.stopAgents.memOk = true :=
  Dev.memOk_mapTiles (Dev.memOk_abandon h) stopTile (fun _ => rfl) fun _ => rfl

theorem iter_keeps {α : Type} {P : α → Prop} (f : Nat → α → α) (hf : ∀ i a, P a → P (f i a)) (n : Nat) {a : α} (h : P a) : P (iter n f a) := by
  have key : ∀ n i a, P a → P (iterFrom f n i a) := by
    intro n
    induction n with
    | zero => intro i a h; exact h
    | succ n ih => intro i a h; exact ih (i + 1) _ (hf i a h)
  exact key n 0 a h

theorem Dev.memOk_abortFlood {d : Dev} (h : d.memOk = true) (c : Nat) : (d.abortFlood c).memOk = true := by
  have h1 := Dev.memOk_abandon h
  unfold Dev.abortFlood
  dsimp only
  split
  · exact h1
  · exact iter_keeps (P := fun e : Dev => e.memOk = true) _ (fun _ e he => by split <;> exact he) _ h1

theorem Dev.memOk_jobFatal {d : Dev} (h : d.memOk = true) : d.jobFatal.memOk = true := by
  apply Dev.memOk_abortFlood
  apply Dev.memOk_endCmds
  apply Dev.memOk_stopAgents
  split <;> exact h

theorem Dev.memOk_pushCrz {d : Dev} (h : d.memOk = true) (e : CrzEntry) : (d.pushCrz e).memOk = true := by
  unfold Dev.pushCrz
  split
  · split
    · exact h
    · split
      · simpa using h
      · exact h
  · dsimp only
    split <;> exact h

theorem Dev.memOk_refuse {d e : Dev} (h : d.memOk = true) {pa : Nat} (hr : d.refuse pa = some e) : e.memOk = true := by
  have hf (k : Nat) : ((d.bump (rHbmDecodeErr k) 1).jobFatal).memOk = true := Dev.memOk_jobFatal (by simpa using h)
  unfold Dev.refuse at hr
  split at hr
  · cases hr
  · split at hr
    · cases hr; exact hf 0
    · cases hr
  all_goals
    cases hr
    exact hf _

theorem Dev.memOk_routeOn {d : Dev} (h : d.memOk = true) (e : TxE) : (d.routeOn e).memOk = true := by
  unfold Dev.routeOn
  split
  · exact h
  · dsimp only
    split
    · exact (Dev.memOk_bump d _ _).trans h
    · exact (Dev.memOk_bump d _ _).trans h

theorem Dev.memOk_portLost {d : Dev} (h : d.memOk = true) (p st : Nat) : (d.portLost p st).memOk = true := by
  unfold Dev.portLost
  apply Dev.memOk_foldl _ fun _ _ he => Dev.memOk_routeOn he _
  rw [Dev.memOk_bump]
  exact h

theorem Dev.memOk_portDown {d : Dev} (h : d.memOk = true) (p : Nat) : (d.portDown p).memOk = true := Dev.memOk_portLost h p 4

theorem Dev.memOk_retire {d : Dev} (h : d.memOk = true) (u : HwUnit) (l : List Nat) : (d.retire u l).memOk = true := by
  unfold Dev.retire
  dsimp only
  split <;> exact h

theorem Dev.memOk_quarantine {d : Dev} (h : d.memOk = true) (u : HwUnit) (a : Nat) : (d.quarantine u a).memOk = true := by
  unfold Dev.quarantine
  split
  · exact h
  · dsimp only
    split
    · exact Dev.memOk_retire (d := ({ d with quar := d.quar ++ [u] } : Dev).wr rTstQuarCount _) h u _
    · refine iter_keeps (P := fun e : Dev => e.memOk = true) _ (fun i e he => ?_) 16 (show _ = true from h)
      split
      · exact Dev.memOk_portDown he _
      · exact he
    · exact h

theorem Dev.memOk_charge {d : Dev} (h : d.memOk = true) (c : Nat) (u : HwUnit) (a x : Nat) : (d.charge c u a x).memOk = true :=
  Dev.memOk_quarantine (Dev.memOk_pushCrz (by simpa using h) _) _ _

theorem Dev.memOk_unitFault {d : Dev} (h : d.memOk = true) (c : Nat) (u : HwUnit) (a x : Nat) : (d.unitFault c u a x).memOk = true := by
  unfold Dev.unitFault
  split
  · exact Dev.memOk_charge h c u a x
  · exact Dev.memOk_jobFatal (Dev.memOk_charge h c u a x)

theorem Dev.memOk_transient {d : Dev} (h : d.memOk = true) (c : Nat) (u : HwUnit) (a x : Nat) : (d.transient c u a x).memOk = true :=
  Dev.memOk_pushCrz (by simpa using h) _

theorem Dev.memOk_atomic {d : Dev} (h : d.memOk = true) (op : Atomic) (pa v : Nat) (u : Upset) : (d.atomic op pa v u).memOk = true := by
  have hf : ((d.bump (rHbmDecodeErr 0) 1).jobFatal).memOk = true := Dev.memOk_jobFatal (by simpa using h)
  unfold Dev.atomic
  split
  iterate 3 · simpa using h
  iterate 2 · exact hf
  · split
    · exact hf
    · split
      · simpa using h
      · dsimp only
        split
        · exact Dev.memOk_unitFault (by simpa using h) _ _ _ _
        · rw [Dev.memOk_bump]
          exact Dev.memOk_store (by simpa using h) _ _

/-- A block read by an agent, with its fresh read. -/
theorem Dev.memOk_readBlock {d : Dev} (h : d.memOk = true) (u : Option HwUnit) (pa : Nat) : (d.readBlock u pa).1.memOk = true := by
  unfold Dev.readBlock
  dsimp only
  split
  · simpa using h
  · split
    · exact Dev.memOk_transient (by simpa using h) _ _ _ _
    · exact Dev.memOk_unitFault (by simpa using h) _ _ _ _

/-! ### Reads and writes by virtual address -/

theorem Dev.memOk_walk (n : Nat) {d : Dev} (h : d.memOk = true) (die tbl va : Nat) (wr : Bool) :
    (Dev.walk d die n tbl va wr).2.2.memOk = true := by
  induction n generalizing d tbl with
  | zero => exact h
  | succ n ih =>
    simp only [Dev.walk]
    split
    · next hr => exact Dev.memOk_refuse h hr
    · have hb := Dev.memOk_readBlock h (some (walkerOf die)) (tbl + 8 * lvlIndex n va)
      split
      · next heq => rw [heq] at hb; exact hb
      · next heq =>
        rw [heq] at hb
        split
        · exact hb
        · exact hb
        · exact ih hb _

theorem Dev.memOk_walkRoot {d : Dev} (h : d.memOk = true) (die va : Nat) (wr : Bool) : (d.walkRoot die va wr).2.2.memOk = true :=
  Dev.memOk_walk 4 (by simpa using h) _ _ _ _

theorem memOk_walkCached (n : Nat) (t : Option Nat) {r : Trans × Option TlbEntry × Dev} (h : r.2.2.memOk = true) :
    (walkCached n t r).2.memOk = true := by
  unfold walkCached
  split
  · dsimp only
    split
    · exact (Dev.memOk_congr rfl rfl rfl).trans h
    · exact (Dev.memOk_congr rfl rfl rfl).trans h
  · exact h

theorem Dev.memOk_translate {d : Dev} (h : d.memOk = true) (n : Nat) (t : Option Nat) (va : Nat) (acc : Access) :
    (d.translate n t va acc).2.memOk = true := by
  unfold Dev.translate
  dsimp only
  split
  · exact h
  · split
    · exact h
    · split
      · exact h
      · split
        · split
          · exact (Dev.memOk_congr rfl rfl rfl).trans h
          · exact h
        · exact memOk_walkCached _ _ (Dev.memOk_walkRoot (by simpa using h) _ _ _)

theorem Dev.memOk_vaPas (ag : Agent) (stream : Nat) (acc : Access) (vs : List Nat) {d : Dev} (h : d.memOk = true) :
    (Dev.vaPas ag stream acc vs d).1.memOk = true := by
  induction vs generalizing d with
  | nil => exact h
  | cons va vs ih =>
    have ht := Dev.memOk_translate h (agentDie ag) (agentTile ag) va acc
    simp only [Dev.vaPas]
    split
    · next heq => rw [heq] at ht; exact ht
    · next heq => rw [heq] at ht; exact ht
    · next heq =>
      rw [heq] at ht
      split
      · next hr => exact Dev.memOk_refuse ht hr
      · have := ih ht
        split
        · next heq2 => rw [heq2] at this; exact this
        · exact this

theorem Dev.memOk_takeBlocks (u : Option HwUnit) (ps : List Nat) {d : Dev} (h : d.memOk = true) : (Dev.takeBlocks u ps d).1.memOk = true := by
  induction ps generalizing d with
  | nil => exact h
  | cons pa ps ih =>
    have hb := Dev.memOk_readBlock h u pa
    simp only [Dev.takeBlocks]
    split
    · next heq => rw [heq] at hb; exact hb
    · next heq =>
      rw [heq] at hb
      have := ih hb
      split
      · next heq2 => rw [heq2] at this; exact this
      · exact this

/-- A step followed by another keeps the canonical form where both do. -/
theorem memOk_thenDo {α β : Type} {r : Dev × Option α} {k : α → Dev → Dev × Option β} (h : r.1.memOk = true)
    (hk : ∀ a e, e.memOk = true → (k a e).1.memOk = true) : (thenDo r k).1.memOk = true := by
  obtain ⟨d, o⟩ := r
  cases o with
  | none => exact h
  | some a => exact hk a d h

theorem memOk_ifDone {α : Type} {r : Dev × Option α} {k : α → Dev → Dev} (h : r.1.memOk = true)
    (hk : ∀ a e, e.memOk = true → (k a e).memOk = true) : (ifDone r k).memOk = true := by
  obtain ⟨d, o⟩ := r
  cases o with
  | none => exact h
  | some a => exact hk a d h

theorem Dev.memOk_vread (ag : Agent) (stream va n : Nat) {d : Dev} (h : d.memOk = true) : (Dev.vread ag stream va n d).1.memOk = true :=
  memOk_thenDo (Dev.memOk_vaPas _ _ _ _ h) fun _ _ he => memOk_thenDo (Dev.memOk_takeBlocks _ _ he) fun _ _ hf => hf

theorem Dev.memOk_vwrite (ag : Agent) (stream va : Nat) (bs : List Byte) {d : Dev} (h : d.memOk = true) :
    (Dev.vwrite ag stream va bs d).1.memOk = true :=
  memOk_thenDo (Dev.memOk_vaPas _ _ _ _ h) fun _ _ he => Dev.memOk_putBlocks _ _ he

/-! ### Tile stores, what follows every command -/

theorem Dev.memOk_storeOf {d : Dev} (h : d.memOk = true) (t stream prio : Nat) (f : Mem → Mem)
    (hf : ∀ m, Mem.wf 0 m = true → Mem.wf 0 (f m) = true) : (d.storeOf t stream prio f).memOk = true := by
  have ht := Dev.memOk_tile h t
  simp only [Tile.memOk, Bool.and_eq_true, List.all_eq_true] at ht
  have here : (d.setTile t { d.tile t with ctx := { (d.tile t).ctx with store := f (d.tile t).ctx.store } }).memOk = true := by
    apply Dev.memOk_setTile h
    simp only [Tile.memOk, Bool.and_eq_true, List.all_eq_true]
    exact ⟨hf _ ht.1, ht.2⟩
  have hget (sv : Saved) (hs : SMap.get none ((d.tile t).slots.map fun p => (p.1, some p.2)) prio = some sv) : Mem.wf 0 sv.ctx.store = true := by
    have := SMap.get_of_forall (P := fun o : Option Saved => ∀ x, o = some x → Mem.wf 0 x.ctx.store = true)
      (m := (d.tile t).slots.map fun p => (p.1, some p.2)) (by
        intro p hp x hx
        obtain ⟨q, hq, rfl⟩ := List.mem_map.1 hp
        cases hx
        exact ht.2 q hq) (d := none) (by intro x hx; cases hx) prio
    exact this sv hs
  unfold Dev.storeOf
  dsimp only
  split
  · exact here
  · split
    · next sv hs =>
      split
      · apply Dev.memOk_setTile h
        simp only [Tile.memOk, Bool.and_eq_true, List.all_eq_true]
        exact ⟨ht.1, SMap.forall_set (P := fun x : Saved => Mem.wf 0 x.ctx.store = true) ht.2 prio (hf _ (hget sv hs))⟩
      · exact here
    · exact here

theorem Dev.memOk_closeWindows {d : Dev} (h : d.memOk = true) : d.closeWindows.memOk = true := by
  unfold Dev.closeWindows
  apply Dev.memOk_foldl _ _ _ h
  intro e c he
  repeat' split
  all_goals first | exact he | exact Dev.memOk_finish (by simpa using he) _ _ _

theorem Dev.memOk_closeRings {d : Dev} (h : d.memOk = true) : d.closeRings.memOk = true := by
  unfold Dev.closeRings
  apply Dev.memOk_foldl _ _ _ h
  intro e c he
  repeat' split
  all_goals first | exact he | exact Dev.memOk_finish (by simpa using he) _ _ _

theorem Dev.memOk_settle {d : Dev} (h : d.memOk = true) : d.settle.memOk = true := by
  unfold Dev.settle
  rw [Dev.lines_eq]
  show Dev.memOk _ = true
  exact Dev.memOk_closeRings (Dev.memOk_closeWindows h)

/-- A meaning keeps the canonical form where its effect does. -/
theorem memOk_run {s u : State} {f : Dev → Dev} (h : s.run f = .next u) (hf : (f s.dev).memOk = true) : u.dev.memOk = true := by
  rw [State.run_next h]
  exact Dev.memOk_settle hf

end Sys2Proof.Machine
end

