-- ==== Sys2Proof/Tests/Slice0.lean ====
section
/-!
SUPPORT. The model's own tests: ill-formed commands that `WellFormed.wf` refuses, one for each of its checks; for each statement with hypotheses, states and
operands that meet them, clause by clause, at the ends of the ranges where a clause has a range; and single steps whose results the manual gives.
-/

-- One proof is checked at a time: the kernel's evaluations below are long, and each waiting proof would hold a thread of its own.
set_option Elab.async false

namespace Sys2Proof.Tests

open Sys2Proof Sys2Proof.Machine

/-! ### Small states -/

/-- A state with no command waiting. -/
def st (d : Dev) : State := ⟨[], d⟩

/-- The state that a command leaves. -/
def after (i : Instr) (s : State) : Dev :=
  match exec i s with
  | .next t => t.dev
  | _ => {}

/-- Registers with no source pending, written out. -/
def quiet : SMap Word := (List.range 8).map fun i => (rEvcPend i, 0)

/-- Tile 3 runs with a context. -/
def onTile (c : Ctx) : Dev := { regs := quiet, tiles := [(3, { ctx := { c with run := .running } })] }

/-- A register map in which each pair stands. -/
def withRegs (d : Dev) (l : List (Nat × Nat)) : Dev := l.foldl (fun x p => x.wr p.1 (BitVec.ofNat 32 p.2)) d

/-- Fields of a vector instruction on registers 1, 2, 3 into 4. -/
def vf : VecF := ⟨0, 0, 4, 1, 2, 3, 0, 0⟩

/-- Fields of a load/store instruction with its address in SQ1 and its pitch in SQ2. -/
def lf : LsF := ⟨1, 2, 4, 0, 0, 0, 0⟩

/-- A HEAD from node 1 to node 0, for window 0 and the exchange 7 of generation 0, epoch 0. -/
def headF (blocks : List (List Byte)) : Frame :=
  { kind := 1, hops := 0, last := false, xop := 0, fseq := 0, dst := 0, src := 1, epoch := 0, wseq := 1, xid := 7, win := 0, sub := 0, offset := 0
    value := 0, step := 0, faultId := 0, glaze := blocks.map fun _ => 0, blocks := blocks, ack := 0, credit := [0, 0, 0, 0], hcrcOk := true }

/-! ### Well-formedness: each check refuses something -/

theorem test_wf_tile : WellFormed.wf (.tileNop 4799) = true ∧ WellFormed.wf (.tileNop 4800) = false := by decide
theorem test_wf_reg : WellFormed.wf (.ret 0 31) = true ∧ WellFormed.wf (.ret 0 32) = false := by decide
theorem test_wf_opnd : WellFormed.wf (.add 0 0 0 (.reg 31)) = true ∧ WellFormed.wf (.add 0 0 0 (.reg 32)) = false := by decide
theorem test_wf_slot : WellFormed.wf (.cdesc 0 7 0 0) = true ∧ WellFormed.wf (.cdesc 0 8 0 0) = false := by decide
theorem test_wf_cube : WellFormed.wf (.cubeRampStep 0 63) = true ∧ WellFormed.wf (.cubeRampStep 0 64) = false := by decide
theorem test_wf_host : WellFormed.wf (.hifAbort 1) = true ∧ WellFormed.wf (.hifAbort 2) = false := by decide
theorem test_wf_port : WellFormed.wf (.idle 31 {}) = true ∧ WellFormed.wf (.idle 32 {}) = false := by decide
theorem test_wf_ring : WellFormed.wf (.commandDispatch 0 31 []) = true ∧ WellFormed.wf (.commandDispatch 0 32 []) = false := by decide
theorem test_wf_die : WellFormed.wf (.droopDetect 7 0) = true ∧ WellFormed.wf (.droopDetect 8 0) = false := by decide
theorem test_wf_group : WellFormed.wf (.testFiringStart 74) = true ∧ WellFormed.wf (.testFiringStart 75) = false := by decide
theorem test_wf_pin : WellFormed.wf (.hbmLaneFailure 0 0 69) = true ∧ WellFormed.wf (.hbmLaneFailure 0 0 70) = false := by decide
theorem test_wf_kind : WellFormed.wf (.ringFetchFailed 0 0 2) = true ∧ WellFormed.wf (.ringFetchFailed 0 0 3) = false := by decide
theorem test_wf_path : WellFormed.wf (.loHalfRead (.ring 1 31) 0) = true ∧ WellFormed.wf (.loHalfRead (.ring 0 32) 0) = false := by decide
theorem test_wf_agent : WellFormed.wf (.faultPost (.dma 7 7)) = true ∧ WellFormed.wf (.faultPost (.dma 7 8)) = false ∧ WellFormed.wf (.faultPost (.wheel 8)) = false := by decide
theorem test_wf_target : WellFormed.wf (.evcComplete (.host 1)) = true ∧ WellFormed.wf (.evcComplete (.host 2)) = false := by decide
theorem test_wf_hdr : WellFormed.wf (.nop ⟨0, 0, 0, 65535, 0, 0, 0, 0⟩) = true ∧ WellFormed.wf (.nop ⟨0, 0, 0, 65536, 0, 0, 0, 0⟩) = false := by decide
theorem test_wf_launch : WellFormed.wf (.launch ⟨0, 0, 0, 0, 0, 0, 0, 0⟩ ⟨65535, 0, false, 0, 0, 0, 0⟩ []) = true
    ∧ WellFormed.wf (.launch ⟨0, 0, 0, 0, 0, 0, 0, 0⟩ ⟨65536, 0, false, 0, 0, 0, 0⟩ []) = false := by decide
theorem test_wf_ringOpen : WellFormed.wf (.ringOpen ⟨0, 0, 0, 0, 0, 0, 0, 0⟩ ⟨0, 0, 31, false, 0, 0⟩) = true
    ∧ WellFormed.wf (.ringOpen ⟨0, 0, 0, 0, 0, 0, 0, 0⟩ ⟨0, 0, 32, false, 0, 0⟩) = false := by decide
theorem test_wf_window : WellFormed.wf (.windowOpen ⟨0, 0, 0, 0, 0, 0, 0, 0⟩ ⟨0, 0, 255, 0, 0, 0, 0, 0⟩) = true
    ∧ WellFormed.wf (.windowOpen ⟨0, 0, 0, 0, 0, 0, 0, 0⟩ ⟨0, 0, 256, 0, 0, 0, 0, 0⟩) = false := by decide
theorem test_wf_len : WellFormed.wf (.challenge 0 0 (List.replicate 32 0)) = true ∧ WellFormed.wf (.challenge 0 0 []) = false := by decide
theorem test_wf_frame : WellFormed.wf (.head 0 (headF [List.replicate 256 0])) = true ∧ WellFormed.wf (.head 0 (headF [List.replicate 255 0])) = false := by
  decide +kernel
theorem test_wf_units : WellFormed.wf (.jobReset ⟨0, 0, 0, 0, 0, 0, 0, 0⟩ [⟨.tile, 2 ^ 32 - 1⟩]) = true
    ∧ WellFormed.wf (.jobReset ⟨0, 0, 0, 0, 0, 0, 0, 0⟩ [⟨.tile, 2 ^ 32⟩]) = false := by decide +kernel
theorem test_wf_block : WellFormed.wf (.partialBlockWrite 255 [0] .clean) = true ∧ WellFormed.wf (.partialBlockWrite 255 [0, 0] .clean) = false := by decide
theorem test_wf_packets : WellFormed.wf (.commandFetch 0 0 (List.replicate 256 0) []) = true ∧ WellFormed.wf (.commandFetch 0 0 (List.replicate 65 0) []) = false := by
  decide +kernel
theorem test_wf_gen : WellFormed.wf (.perstDeassert 0 6 8 true) = true ∧ WellFormed.wf (.perstDeassert 0 7 8 true) = false := by decide
theorem test_wf_width : WellFormed.wf (.perstDeassert 0 1 1 true) = true ∧ WellFormed.wf (.perstDeassert 0 1 9 true) = false := by decide
theorem test_wf_fits : WellFormed.wf (.patrolScrub 15 0 .clean true) = true ∧ WellFormed.wf (.patrolScrub 16 0 .clean true) = false := by decide

/-! ### The machine and its tiles -/

/-- StepRunsFront and QueueRunsThrough have a queue to run. -/
theorem test_queue_there : (⟨[.tileNop 0], {}⟩ : State).pending = .tileNop 0 :: [] ∧ [Instr.tileNop 0].all WellFormed.wf = true := by decide

/-- StepIdle and StepKeepsMemory: the machine after reset. -/
theorem test_reset_calm : State.reset.pending = [] ∧ State.reset.dev.calm = true ∧ State.reset.dev.memOk = true := by decide +kernel

/-- StepKeepsLines and StepKeepsMemory: a step comes to a next state. -/
theorem test_reset_steps : ∃ t, step ⟨[.tileNop 0], {}⟩ = .next t := by
  rw [step]
  exact ⟨_, rfl⟩

/-- A tile with numbers in SQ1, SQ2 and SQ31, at the last instruction of its store. -/
def c1 : Ctx := { sq := [(1, 0x10#64), (2, 0xFFFFFFFFFFFFFFF0#64), (31, 7#64)], pc := 262136 }

/-- TileFrame: an instruction of a tile comes to a next state; a tile that does not issue. -/
theorem test_frame_there : tileOnly (.add 3 1 2 (.reg 31)) = some 3 ∧ (st (onTile c1)).dev.calm = true
    ∧ (∃ z, exec (.add 3 1 2 (.reg 31)) (st (onTile c1)) = .next z) ∧ (onTile c1).issuing 2 = false :=
  ⟨by decide, by decide, ⟨_, rfl⟩, by decide⟩

/-- ScalarResults, BranchResults, VectorIntegerResults, VectorFloatResults, VectorCompareResults, TileSyncResults: a tile issues. -/
theorem test_issues : Issues (st (onTile c1)) 3 := by unfold Issues; decide

theorem test_add_wraps : ((after (.add 3 4 1 (.reg 2)) (st (onTile c1))).tile 3).ctx.getSq 4 = 0 := by decide +kernel
theorem test_sub_imm : ((after (.sub 3 4 1 (.imm 0x11)) (st (onTile c1))).tile 3).ctx.getSq 4 = -1 := by decide +kernel
theorem test_sar_sign : ((after (.sar 3 4 2 (.imm 68)) (st (onTile c1))).tile 3).ctx.getSq 4 = -1 := by decide +kernel
theorem test_shr_zero : ((after (.shr 3 4 2 (.imm 4)) (st (onTile c1))).tile 3).ctx.getSq 4 = 0x0FFFFFFFFFFFFFFF#64 := by decide +kernel
theorem test_cmp_signed : ((after (.cmp 3 4 2 (.reg 1)) (st (onTile c1))).tile 3).ctx.getSq 4 = -1 := by decide +kernel
theorem test_sq0_ignores : ((after (.add 3 0 1 (.reg 1)) (st (onTile c1))).tile 3).ctx.getSq 0 = 0 := by decide +kernel
theorem test_li_sign : ((after (.li 3 5 0x4000000000#39) (st (onTile c1))).tile 3).ctx.getSq 5 = 0xFFFFFFC000000000#64 := by decide +kernel
theorem test_br_wraps : ((after (.br 3 1) (st (onTile c1))).tile 3).ctx.pc = 0 := by decide +kernel
theorem test_call_link : ((after (.call 3 9 (-1)) (st (onTile c1))).tile 3).ctx.getSq 9 = 0 := by decide +kernel
theorem test_ret_aligns : ((after (.ret 3 31) (st (onTile c1))).tile 3).ctx.pc = 0 := by decide +kernel

/-- BranchResults, REPEAT: a LEN of 0 and one of 257, a third level; a count of zero with the longest body; a count of 7 with the shortest. -/
theorem test_repeat_there :
    ((0#9).toNat = 0 ∨ 256 < (257#9).toNat) ∧ 256 < (257#9).toNat ∧ 2 ≤ [(⟨0, 8, 1⟩ : Loop), ⟨0, 8, 1⟩].length
      ∧ ¬((256#9).toNat = 0 ∨ 256 < (256#9).toNat ∨ 2 ≤ c1.loops.length) ∧ (c1.getSq 0).toNat % 2 ^ 32 = 0
      ∧ ¬((1#9).toNat = 0 ∨ 256 < (1#9).toNat ∨ 2 ≤ c1.loops.length) ∧ (c1.getSq 31).toNat % 2 ^ 32 ≠ 0 := by decide

/-- BranchResults, the end of a body: the last pass and one before it, inside an outer loop with another end. -/
theorem test_loop_there : (0 < 1 ∧ ∀ l ∈ [(⟨0, 80, 4⟩ : Loop)], l.stop ≠ 24) ∧ 0 < 2 := by decide

/-- BranchResults: the first select that reads nothing, and the last. -/
theorem test_rdstat_there : 5 ≤ (5#4).toNat ∧ 5 ≤ (15#4).toNat := by decide

theorem test_reserved_badop : (after (.reservedInstruction 3) (st (onTile c1))).rd (rTilStatus 3) = 1 := by decide +kernel
theorem test_halt_holds : ((after (.halt 3) (st (onTile c1))).tile 3).ctx.run = .halting := by decide +kernel

/-- VectorIntegerResults: SUB 0; an unlisted SUB for those that take 0 alone, and for those that take 0 and 1. -/
theorem test_sub_there : vf.sub = 0 ∧ ({ vf with sub := 1 }).sub ≠ 0 ∧ 2 ≤ ({ vf with sub := 2 }).sub.toNat ∧ 2 ≤ ({ vf with sub := 15 }).sub.toNat := by decide

/-- Tile 3 with vector registers 1 to 3: each element of register `r` is the given word. -/
def vregs (a b c : Word) : Dev := onTile { c1 with vt := [(1, List.replicate 64 a), (2, List.replicate 64 b), (3, List.replicate 64 c)] }

/-- Element 0 of VD after a vector instruction of `vf`. -/
def elem0 (i : Instr) (a b c : Word) : Word := nth 0 ((after i (st (vregs a b c))).getV 3 4) 0

theorem test_viadd : elem0 (.viadd 3 vf) 0xFFFFFFFF 2 0 = 1 := by decide +kernel
theorem test_vshl_mod : elem0 (.vshl 3 vf) 1 33 0 = 2 := by decide +kernel
theorem test_vsar : elem0 (.vsar 3 vf) 0x80000000 31 0 = 0xFFFFFFFF := by decide +kernel
theorem test_vsel_false : elem0 (.vsel 3 vf) 5 6 0 = 6 := by decide +kernel
theorem test_vadd : elem0 (.vadd 3 vf) 0x3F800000 0x40000000 0 = 0x40400000 := by decide +kernel
theorem test_vmul_sign : elem0 (.vmul 3 vf) 0xC0000000 0x40400000 0 = 0xC0C00000 := by decide +kernel
theorem test_vfms : elem0 (.vfms 3 vf) 0x40000000 0x40400000 0x3F800000 = 0x40A00000 := by decide +kernel
theorem test_vabs : elem0 (.vabs 3 vf) 0xBF800000 0 0 = 0x3F800000 := by decide +kernel
theorem test_vneg_nan : elem0 (.vneg 3 vf) 0xFFC00001 0 0 = 0x7FC00000 := by decide +kernel
theorem test_vrcp : elem0 (.vrcp 3 vf) 0x40000000 0 0 = 0x3F000000 := by decide +kernel
theorem test_vsqrt : elem0 (.vsqrt 3 vf) 0x40800000 0 0 = 0x40000000 := by decide +kernel
theorem test_vexp2 : elem0 (.vexp2 3 vf) 0x40400000 0 0 = 0x41000000 := by decide +kernel
theorem test_vlog2 : elem0 (.vlog2 3 vf) 0x41000000 0 0 = 0x40400000 := by decide +kernel
theorem test_vredsum : elem0 (.vredsum 3 vf) 0x3F800000 0 0 = 0x41000000 := by decide +kernel
theorem test_vcmplt_signed : elem0 (.vcmplt 3 { vf with sub := 1 }) 0xFFFFFFFF 1 0 = 0xFFFFFFFF := by decide +kernel
theorem test_vcvtif : elem0 (.vcvtIf 3 vf) 0xFFFFFFFF 0 0 = 0xBF800000 := by decide +kernel
theorem test_vunpk : elem0 (.vunpkH 3 { vf with sub := 1 }) 0x3F804000 0 0 = 0x3F800000 := by decide +kernel

/-- VectorIntegerResults and its kin: the vector queue takes the instruction; a full queue and a load into a register it reads hold it. -/
theorem test_enters_there : (vregs 0 0 0).vHeld 3 [1, 2] (some 4) = false
    ∧ ((vregs 0 0 0).modTile 3 fun x => { x with vt := { pend := List.replicate 8 9 } }).vHeld 3 [1, 2] (some 4) = true
    ∧ ((vregs 0 0 0).modCtx 3 fun c => { c with lsq := [.inst ⟨.ldv, { lf with vr := 1 }, 0, 0, 0, 0, .clean, [], 0⟩] }).vHeld 3 [1, 2] (some 4) = true := by
  decide +kernel

/-- R395: at level 1 every fourth cycle of a step takes a vector instruction, at level 3 all but its fourth; at level 0 none does. -/
theorem test_vector_levels : levelFrom 1 1 = 4 ∧ levelFrom 2 5 = 6 ∧ levelFrom 3 3 = 4 ∧ levelFrom 4 7 = 7
    ∧ ({ vregs 0 0 0 with caps := (List.range 128).map fun g => (g, 0) } : Dev).vHeld 3 [1, 2] (some 4) = true := by decide +kernel

/-- VectorIntegerResults: the lowest SUB that a table does not list, for both kinds. -/
theorem test_badsub_there : vectorOp (.vadd 3 { vf with sub := 1 }) = some (3, { vf with sub := 1 }) ∧ takesTwo (.vadd 3 vf) = false
    ∧ vectorOp (.vredsum 3 { vf with sub := 2 }) = some (3, { vf with sub := 2 }) ∧ takesTwo (.vredsum 3 vf) = true := by decide

/-! ### Words and flits -/

/-- Words written out from Tables 3.2, 3.19 to 3.23, 4.1, 4.6 and R441: ADD with an immediate of all ones, CMM, CACC, VFMA, VEXT. -/
theorem test_words_low :
    tileCommand 3 0 0x00081040FFFFFFFF#64 = .add 3 4 1 (.imm 0xFFFFFFFF)
      ∧ tileCommand 3 0 0x18EAB14FAAAAF00F#64
        = .cmm 3 { mode := 4, adesc := 3, bdesc := 5, acc := 2, clr := true, last := false, conj := true, arow := 17, kreg := 9, brow := 30,
                   kimm := 0x2AAA, rmask := 0xF0, cmask := 0x0F } .clean
      ∧ tileCommand 3 0 0x2040000000068118#64 = .cacc 3 6 0x81 0x18
      ∧ tileCommand 3 0 0x30C0001022180000#64 = .vfma 3 { vf with vd := 4, va := 1, vb := 2, vc := 3 }
      ∧ tileCommand 3 0 0x3F5200002000003F#64 = .vext 3 ⟨9, 0, 0, 1, 0, 0, 0, 63⟩ := by decide +kernel

/-- STVB, a DMALAUNCH of a MERGE record, WAIT, BLT, RDSTAT, and the reserved: class 0x9, an unlisted OP, all classes above 0x8. -/
theorem test_words_high :
    tileCommand 3 0 0x40C01122D8000000#64 = .stvb 3 ⟨1, 2, 8, 5, 1, 3, 0⟩ .clean []
      ∧ tileCommand 3 0x21 0x5001F00000000000#64 = .merge 3 31 .clean ∧ tileCommand 3 0x22 0x5001F00000000000#64 = .dmaBadKind 3 31 .clean
      ∧ tileCommand 3 0 0x6040700000001FFF#64 = .tileWait 3 8191 7
      ∧ tileCommand 3 0 0x70C0110003FFFFFF#64 = .blt 3 1 2 (-1) ∧ tileCommand 3 0 0x808A000000000004#64 = .rdstat 3 5 4
      ∧ tileCommand 3 0 0x9000000000000000#64 = .reservedInstruction 3 ∧ tileCommand 3 0 0x80C0000000000000#64 = .reservedInstruction 3
      ∧ tileCommand 3 0 0xFFFE000000000000#64 = .reservedInstruction 3 := by decide +kernel

/-- TileWords: an instruction of each end of the table, well formed, with the KIND that goes with it. -/
theorem test_tile_words_there :
    (WellFormed.wf (.add 3 31 31 (.imm 0xFFFFFFFF)) = true ∧ (tileWordOf (.add 3 31 31 (.imm 0xFFFFFFFF))).isSome = true)
      ∧ WellFormed.wf (.merge 3 31 .clean) = true ∧ tileWordOf (.merge 3 31 .clean) = some (3, 0x5001F00000000000#64)
      ∧ kindFits 0x21 (.merge 3 31 .clean) = true ∧ kindFits 0xFF (.dmaBadKind 3 31 .clean) = true := by decide +kernel

/-- A HOLD frame as its flit carries it. -/
def holdF : Frame := { headF [] with kind := 3, win := 0, sub := 0, offset := 0, faultId := 5 }

/-- The lead-in of a HOLD flit written out from Tables 9.3 and 9.4: KIND 3, FSEQ 0, DST 0, SRC 1, EPOCH 0, WSEQ 1, XID 7, cause 1, fault id 5. -/
theorem test_hold_flit : (routedFlit holdF).take 28
    = [3, 0, 0, 0, 0, 0, 0, 0, 0, 0, 1, 0, 0, 0, 1, 0, 7, 0, 0, 0, 1, 0, 0, 0, 5, 0, 0, 0] ∧ (routedFlit holdF).length = 256 := by decide +kernel

/-- LinkFlits: a command of each kind that its flits spell. -/
theorem test_flits_there : linkFits (.idle 0 {}) = true ∧ linkFits (.head 0 (headF [List.replicate 256 0])) = true
    ∧ linkFits (.link 0 { nak := false, nseq := 0, ack := 0, credit := [255, 0, 0, 0], crcOk := true }) = true ∧ linkFits (.hold 0 holdF) = true
    ∧ linkFits (.resume 0 { holdF with kind := 4, faultId := 0 }) = true ∧ linkFits (.barrier 0 { holdF with kind := 6, faultId := 0, value := 9, step := 8 }) = true
    ∧ linkFits (.xcredit 0 { holdF with kind := 7, faultId := 0, value := 9 } []) = true
    ∧ linkFits (.reread 0 { headF [] with kind := 8, win := 63, offset := 256 } .clean []) = true ∧ linkFits (.abortFlit 0 1 2 3 true {}) = true := by
  decide +kernel

/-- The head flit of Table 9.2's KIND 9 is unlisted. -/
theorem test_bad_flit : (flitsTake 0 {} .clean [] [9 :: List.replicate 255 0]).map (·.1) = some (.badFlit 0 9 {}) := by decide +kernel

/-! ### Cubes, accumulators, synchronisation -/

/-- Tile 3 runs, with what its cube unit holds. -/
def onTile3 (x : Tile) : Dev := { regs := quiet, tiles := [(3, { x with ctx := { x.ctx with run := .running } })] }

/-- A BF16 pass of cube (0, 0) into accumulator tile 2. -/
def cf : CubeInsn := ⟨0, 0, 1, 2, true, true, false, 1, 2, 31, 1, 1, 1⟩

/-- The instruction as it waits, and a full queue of it. -/
def cqe : CubeQ := ⟨cf, 0, 0, 0, .clean⟩

/-- A pass in flight: 16 contributions to accumulator tile 2 of cube 0. -/
def pass1 : Pass := ⟨2, false, [(0, (List.range 16).map fun i => .sum (Int.ofNat i) 4 (i % 15))]⟩

/-- CubeIssueResults: a full queue; a forced drain; a queue of 15 whose head waits; an empty queue whose head starts, in modes 0 and 4. -/
theorem test_cmm_there :
    16 ≤ ((onTile3 { cq := List.replicate 16 cqe }).tile 3).cq.length
      ∧ ((onTile3 { reqs := [⟨true, 4⟩], group := 256 }).wr (rTilGroupLimit 3) 256).forcing 3 = true
      ∧ (let x : Tile := { cq := List.replicate 15 cqe, qFree := 1 }
         x.cq.length < 16 ∧ x.cq ≠ [] ∧ (onTile3 x).forcing 3 = false ∧ x.qFree > (onTile3 x).cc)
      ∧ (∀ m ∈ [(0 : BitVec 3), 4], let f : CubeInsn := { cf with mode := m }
         let d := onTile3 {}
         d.calm = true ∧ (d.tile 3).cq = [] ∧ d.forcing 3 = false ∧ f.mode.toNat ≤ 4 ∧ selected f ≠ [] ∧ (d.tile 3).qFree ≤ d.cc ∧ d.cubeHeld 3 = false
           ∧ (accsOf f).all (fun a => decide (SMap.get 0 (d.tile 3).accLast a ≤ d.cc)) = true
           ∧ (selected f).all (fun c => rampOk (SMap.get {} (d.tile 3).ramps c) (d.capOf 3) d.cc) = true) := by decide +kernel

/-- Tile 3 with a retry of a cube pass outstanding. -/
def passRetry : Dev := { onTile3 { passes := [pass1] } with retries := [⟨.cubePass 3, 1, ⟨.cube, 192⟩, 0, 0⟩] }

/-- CubeIssueResults: a pass whose residues hold, and one whose element 3 is upset in bit 47; no pass; a retry that holds the queue. -/
theorem test_pass_there :
    ((onTile3 { passes := [pass1] }).tile 3).passes = pass1 :: [] ∧ (onTile3 { passes := [pass1] }).cubeHeld 3 = false
      ∧ ((((onTile3 {}).tile 3).ctx.passed pass1 []).1.passBad pass1 = none)
      ∧ ((((onTile3 {}).tile 3).ctx.passed pass1 [(0, 3, 2 ^ 47)]).1.passBad pass1).isSome = true
      ∧ passRetry.cubeHeld 3 = true ∧ ((onTile3 {}).tile 3).passes = [] := by decide +kernel

/-- CubeControlResults: an accumulator tile that is written and one that is not. -/
theorem test_cacc_there : Issues (st (onTile3 { passes := [pass1] })) 3 ∧ ((onTile3 { passes := [pass1] }).tile 3).accBusy 2 = true
    ∧ ((onTile3 { passes := [pass1] }).tile 3).accBusy 7 = false := by unfold Issues; decide

/-- CubeControlResults: cubes 0 and 63 of a tile that fires with another, and of one that does not. -/
theorem test_ramp_there : (onTile3 { ramps := [(63, { level := 4 })] }).inTest 3 = false
    ∧ ({ onTile3 { busy := .firing 4 } with tiles := [(3, { busy := .firing 4 }), (4, { busy := .firing 3 })] } : Dev).inTest 3 = true := by decide

/-- AccumulatorExact: an anchored tile, contributions at the anchor, and 20 above it. -/
theorem test_acc_there : ∀ p ∈ [(0 : Int), 20],
    let a : Acc := { anchored := true, live := true }
    let cs := Contrib.sum 5 p 5 :: List.replicate 15 .idle
    a.v.length = 16 ∧ a.tag.length = 16 ∧ cs.length = 16 ∧ topExp cs = some p ∧ p ≤ a.x + 20 ∧ a.v[0]? = some 0 ∧ a.tag[0]? = some 0
      ∧ cs[0]? = some (.sum 5 p 5) ∧ a.x ≤ p
      ∧ a.res = a.v.map residue15 ∧ 5 = residue15 5 := by decide +kernel

/-- DrainResults: SUB 0; an accumulator tile that is written; one that is not, whose residues hold, and with an upset in element 0, bit 0. -/
theorem test_drain_there : Issues (st (onTile3 { passes := [pass1] })) 3 ∧ ({ vf with imm := 512 }).sub = 0
    ∧ ((onTile3 { passes := [pass1] }).tile 3).accBusy (drainAcc { vf with imm := 512 }) = true
    ∧ ((onTile3 { passes := [pass1] }).tile 3).accBusy (drainAcc vf) = false ∧ (onTile3 { passes := [pass1] }).vHeld 3 [] (some vf.vd) = false
    ∧ ((onTile3 {}).tile 3).ctx.drainBad vf [] = none ∧ (((onTile3 {}).tile 3).ctx.drainBad vf [(0, 1)]).isSome = true := by unfold Issues; decide +kernel

/-- SyncReleases: a waiter. -/
theorem test_waiter_there : [(⟨.tile 3, 8191, 5, false⟩ : Waiter)][0]? = some ⟨.tile 3, 8191, 5, false⟩ := rfl

theorem test_threshold_edges : satisfies 0x7FFFFFFF 0 = true ∧ satisfies 0x80000000 0 = false ∧ satisfies 4 5 = false := by decide

/-- TileSyncResults: a threshold that is met and one that is not; a tile that waits and has been released; fences with nothing and with something ahead. -/
theorem test_tileSync_there :
    satisfies ((onTile c1).count 7) (BitVec.ofNat 32 (((onTile c1).tile 3).ctx.getSq 0).toNat) = true
      ∧ satisfies ((onTile c1).count 7) (BitVec.ofNat 32 (((onTile c1).tile 3).ctx.getSq 1).toNat) = false
      ∧ (let d : Dev := { regs := quiet, tiles := [(3, { ctx := { run := .waiting } })], waiters := [⟨.tile 3, 7, 0, true⟩] }
         d.calm = true ∧ d.waiters[0]? = some ⟨.tile 3, 7, 0, true⟩ ∧ (d.tile 3).ctx.run = .waiting ∧ (d.tile 3).busy = .none)
      ∧ Issues (st (onTile3 { cq := [cqe], passes := [pass1], ctx := { lsq := [.xfer ⟨true, 0, 0, 1, 0, []⟩] } })) 3
      ∧ (∀ k ∈ [0, 1, 2], tileOk 3 = true ∧ ({ tiles := [(3, { ctx := { run := .fenced k } })] } : Dev).fenceMet 3 k = true)
      ∧ ({ tiles := [(3, { ctx := { run := .fenced 1 }, cq := [cqe] })] } : Dev).fenceMet 3 1 = false
      ∧ (let d : Dev := { waiters := [⟨.tile 3, 7, 0, false⟩] }
         d.waiters[0]? = some ⟨.tile 3, 7, 0, false⟩)
      ∧ (let d : Dev := { regs := (rBootStatus, 0xC000) :: quiet, rings := [(1, { opn := true })], waiters := [⟨.cmd 5 0, 7, 0, true⟩]
                          cmds := [⟨5, ⟨0, 1, 0, 1, 0, 7, 0, 0⟩, .nop, 1, false, true, [], [], 0, 0⟩] }
         d.studio = true ∧ d.choice = some 1 ∧ (d.cmd? 5).isSome = true) := by unfold Issues; decide +kernel

theorem test_signal_wraps : ((after (.tileSignal 3 7) (st { onTile c1 with sync := [(7, 0xFFFFFFFF)] })).count 7) = 0 := by decide +kernel
theorem test_wait_holds : ((after (.tileWait 3 7 1) (st (onTile c1))).tile 3).ctx.run = .waiting := by decide +kernel

/-- A LAUNCH of two tiles, dispatched. -/
def launch2 : Cmd := ⟨5, ⟨0, 1, 0, 1, 0, 0, 0, 0⟩, .launch ⟨3, 2, false, 0, 0, 0, 0⟩, 1, true, true, [3, 4], [], 0, 0⟩

/-- Tile 3 has halted, for a command or for none. -/
def halted (cs : List Cmd) (c : Option Nat) : Dev :=
  { regs := quiet, cmds := cs, tiles := [(3, { ctx := { run := .halting, cmd := c } })], rings := [(1, { opn := true, stream := 1 })] }

/-- HaltAndPreemption: a halt that waits, one of no command, one of a command with another tile left and with none; a request for a firing at a
natural point and at a forced one, and one for a command of higher priority. -/
theorem test_halt_there : (onTile c1).haltReady 3 = false ∧ (halted [] none).haltReady 3 = true ∧ ((halted [] none).tile 3).slots = []
    ∧ ((halted [] none).tile 3).ctx.cmd = none
    ∧ (halted [launch2] (some 5)).haltReady 3 = true ∧ ((halted [launch2] (some 5)).tile 3).ctx.cmd = some launch2.id
    ∧ (halted [launch2] (some 5)).cmd? launch2.id = some launch2 ∧ setDel launch2.tiles 3 ≠ []
    ∧ (let c := { launch2 with tiles := [3] }
       (halted [c] (some 5)).cmd? c.id = some c ∧ setDel c.tiles 3 = [])
    ∧ (let d : Dev := { regs := quiet, tiles := [(3, { ctx := { run := .halting }, reqs := [⟨true, 4⟩] })] }
       d.haltReady 3 = true ∧ (d.tile 3).fireReq = some 4) := by decide

/-- Tile 3 runs and a request to take it stands. -/
def asked (r : TakeReq) (x : Tile) : Dev :=
  { onTile3 { x with reqs := [r] } with cmds := [{ launch2 with id := r.cmd, start := [3] }] }

theorem test_point_there :
    (∀ r ∈ [(⟨true, 4⟩ : TakeReq), ⟨false, 5⟩], (asked r {}).atPoint 3 = true ∧ ((asked r {}).tile 3).reqs = [r] ∧ ((asked r {}).tile 3).reqs.filter ((asked r {}).reqStands 3) = r :: []
        ∧ (asked r {}).calm = true)
      ∧ (let d := (asked ⟨true, 4⟩ { group := 256, endSet := false }).wr (rTilGroupLimit 3) 256
         d.natural 3 = false ∧ d.atPoint 3 = true) := by decide

/-- A running context with something in each part. -/
def rich : Ctx :=
  { run := .running, stream := 2, prio := 1, pc := 64, sq := [(1, 9)], loops := [⟨0, 8, 2⟩], dsc := [(1, 3)], vt := [(1, List.replicate 64 5)], store := [(0, 1)]
    acc := [(2, { live := true })] }

/-- Tile 3 with a context moving to slot 1, or coming from it. -/
def moving (b : Busy) (l : SMap Saved) : Dev := { regs := quiet, tiles := [(3, { ctx := rich, busy := b, slots := l })] }

/-- A context in slot 1. -/
def slot1 : SMap Saved := [(1, ⟨rich, [], false⟩)]

/-- ContextResults: a save and a restore under way; a save that waits for a started transfer has none here. -/
theorem test_context_there : (moving (.saving 1) []).cmds = [] ∧ (moving (.saving 1) []).tileRetry 3 = false ∧ (moving (.saving 1) []).alive = true
    ∧ ((moving (.saving 1) []).tile 3).busy = .saving 1 ∧ ((moving (.saving 1) []).tile 3).fireReq = none
    ∧ ((moving (.saving 1) []).tile 3).ctx.lsq.any (fun l => l.real && l.started) = false ∧ ((moving (.saving 1) []).tile 3).ctx.lsq = []
    ∧ ((moving (.restoring 1) slot1).tile 3).busy = .restoring 1
    ∧ SMap.get none (((moving (.restoring 1) slot1).tile 3).slots.map fun p => (p.1, some p.2)) 1 = some ⟨rich, [], false⟩
    ∧ (moving (.restoring 1) slot1).dma = [] := by decide

/-! ### Loads, stores, records of a tile -/

/-- A descriptor of a format whose elements stand from 0 on and exponents from 4,096 on, with pitches of 256 and 1. -/
def dscOf (fmt : Nat) : BitVec 128 := BitVec.ofNat 128 (4096 * 2 ^ 18 + 256 * 2 ^ 36 + 1 * 2 ^ 64 + fmt * 2 ^ 82)

/-- Tile 3 with SQ1 at an address, SQ2 a pitch, and descriptor 0 of a format. -/
def lsTile (a p fmt : Nat) : Dev :=
  onTile { sq := [(1, BitVec.ofNat 64 a), (2, BitVec.ofNat 64 p)], dsc := [(0, dscOf fmt)]
           vt := (List.range 8).map fun i => (i, List.replicate 64 (BitVec.ofNat 32 (0x3F800000 + 8388608 * i))), store := [(0, 1), (262143, 2)] }

/-- Tile 3 with the retry of a store outstanding, and with a load/store queue of 8. -/
def storeRetry : Dev := { lsTile 0 32 2 with retries := [⟨.store 3, 3, ⟨.tile, 3⟩, 0, 0⟩] }
def lsFull : Dev := (lsTile 0 32 2).modCtx 3 fun c => { c with lsq := List.replicate 8 (.xfer ⟨true, 0, 0, 1, 0, []⟩) }

/-- VectorLoadResults and the stores: every LFMT is listed or not; block formats and the others; a queue that is empty and one that is full. -/
theorem test_lfmt_there : (∀ l : BitVec 3, (l = 0 ∨ l = 1 ∨ l = 2 ∨ l = 6) ≠ (l = 3 ∨ l = 4 ∨ l = 5 ∨ l = 7))
    ∧ (∀ c ∈ [2, 3, 4, 5], isBlockFmt ((((lsTile 0 0 c).tile 3).ctx.desc 0).fmt) = true)
    ∧ (∀ c ∈ [0, 1, 6, 7], isBlockFmt ((((lsTile 0 0 c).tile 3).ctx.desc 0).fmt) = false) ∧ Issues (st (lsTile 0 32 2)) 3
    ∧ (lsTile 0 32 2).lsq 3 = [] ∧ (lsTile 0 32 2).storeHeld 3 = false ∧ storeRetry.storeHeld 3 = true ∧ 8 ≤ ((lsFull.lsq 3).filter LsQ.real).length
    ∧ (lsTile 0 32 2).calm = true := by
  unfold Issues
  decide

/-- VectorStoreResults: a block format, packing switched on, a plain format with rows that touch at the end of the store. -/
theorem test_stv_there :
    isBlockFmt (((lsTile 0 32 2).wr (rTilCvtFmt 3 0) 2).fld (rTilCvtFmt 3 0) 2 0) = true
      ∧ ((lsTile 0 32 2).wr (rTilCvtSpmeta 3 0) 0x80000000).fld (rTilCvtSpmeta 3 0) 31 31 = 1
      ∧ (let d := lsTile (262144 - 1024) 128 2
         ¬(isBlockFmt (d.fld (rTilCvtFmt 3 0) 2 0) = true ∨ d.fld (rTilCvtSpmeta 3 0) 31 31 = 1) ∧ d.memOk = true ∧ apart (d.stvWrites 3 lf)
           ∧ (d.stvWrites 3 lf).map (·.2.length) = List.replicate 8 128) := by
  unfold apart
  decide +kernel

/-- VectorStoreResults: no block format, packing into a format of code 4, and eight rows of B8 unpacked. -/
theorem test_stvb_there :
    isBlockFmt ((((lsTile 0 0 1).tile 3).ctx.desc 0).fmt) = false
      ∧ (let d := (lsTile 0 0 4).wr (rTilCvtSpmeta 3 0) 0x80000000
         d.fld (rTilCvtSpmeta 3 0) 31 31 = 1 ∧ 4 ≤ ((d.tile 3).ctx.desc 0).fmt)
      ∧ (let d := lsTile 0 0 2
         ¬(isBlockFmt ((d.tile 3).ctx.desc 0).fmt = false ∨ (d.fld (rTilCvtSpmeta 3 0) 31 31 = 1 ∧ 4 ≤ ((d.tile 3).ctx.desc 0).fmt))
           ∧ ¬(d.fld (rTilCvtSpmeta 3 0) 31 31 = 1) ∧ d.memOk = true ∧ apart (d.stvbWrites 3 lf)) := by
  unfold apart
  decide +kernel

/-- SparseResults: a group with two nonzero codes of B8, and one with none. -/
theorem test_pack_there : ∀ g ∈ [[0, 5, 0, 131], [0, 0, 0, 0]], g.length = 4 ∧ nzCount g ≤ 2 ∧ ∀ x ∈ g, x = 0 ∨ x % 2 ^ (fmtFrac 2 + 1) ≠ 0 := by
  decide

/-- Memory mapped one to one from 0 to 1 GiB: a root entry at 0x10000 and a leaf at 0x11000, read and write (Tables 7.2 and 7.3). -/
def mapped (d : Dev) : Dev :=
  { (d.wr rMmuCtl 1).wr rMmuRootLo 0x10000 with mem := Mem.write 0 (Mem.write 0 d.mem 0x10000 [0x01, 0x10, 0x01]) 0x11000 [0x0F] }

/-- The outcome of a translation. -/
def transOf (d : Dev) (va : Nat) (acc : Access) : Trans := (d.translate 0 (some 3) va acc).1

/-- A transfer of two blocks from or to 0x20000 with its last block left, and tile 3 with it. -/
def xfer2 (load : Bool) : Xfer := ⟨load, 0x20000, 262144 - 512, 2, 1, []⟩
def moves (load : Bool) : Dev := onTile { lsq := [.xfer (xfer2 load)], store := [(262143, 7)] }

/-- TransferResults: seven transfers queued and eight. -/
theorem test_transfer_room :
    (((onTile { lsq := List.replicate 7 (.xfer (xfer2 true)) }).lsq 3).filter LsQ.real).length < 8
      ∧ ¬((((onTile { lsq := List.replicate 8 (.xfer (xfer2 true)) }).lsq 3).filter LsQ.real).length < 8)
      ∧ (onTile { lsq := List.replicate 7 (.xfer (xfer2 true)) }).lsStill 3 = true := by decide +kernel

/-- TransferResults: the last block of a transfer at the end of the store, mapped and not, with good glaze and bad; a row for a place that holds none. -/
theorem test_transfer_there :
    (∀ l ∈ [true, false], ∀ d ∈ [mapped (moves l), moves l], d.calm = true ∧ d.memOk = true ∧ d.lsq 3 = [.xfer (xfer2 l)] ∧ (xfer2 l).held = []
          ∧ d.xfer? 3 0 = some (xfer2 l) ∧ d.xferGo 3 0 (xfer2 l) = true ∧ d.fld (rTilBsqCtl 3) 1 0 = 0 ∧ d.fld (rTilZctl 3) 1 0 = 0
          ∧ d.ldtHeld 3 0 = false ∧ d.lsTurn 3 0 = true ∧ (xfer2 l).donE < (xfer2 l).len ∧ (262144 - 512) + 256 * 1 + 256 ≤ 262144)
      ∧ (moves true).xfer? 3 1 = none
      ∧ (∀ acc ∈ [Access.read, .write], transOf (mapped (moves true)) 0x20100 acc = .ok 0x20100
          ∧ ((mapped (moves true)).translate 0 (some 3) 0x20100 acc).2.refuse 0x20100 = none
          ∧ ((mapped (moves true)).translate 0 (some 3) 0x20100 acc).2.glazeBad 0x20100 .clean = false
          ∧ ((mapped (moves true)).translate 0 (some 3) 0x20100 acc).2.noGlaze 0x20100 = false
          ∧ transOf (moves true) 0x20100 acc = .fault 1 3 0) := by decide +kernel

/-- SparseResults: no STT queued and one; no store through the converter and one; a slot that is the converter's and one that is not; the last converter. -/
theorem test_close_there : ((moves true).lsq 3).any LsQ.isStt = false ∧ ((moves false).lsq 3).any LsQ.isStt = true
    ∧ ((moves true).lsq 3).any (LsQ.storesBy 1) = false
    ∧ ((onTile { lsq := [.inst ⟨.stv, { lf with cvt := 1 }, 0, 0, 0, 0, .clean, [], 0⟩] }).lsq 3).any (LsQ.storesBy 1) = true
    ∧ (moves true).slotOf 3 1 = (0#12).toNat ∧ (moves true).slotOf 3 1 ≠ (5#12).toNat ∧ (moves true).calm = true ∧ (moves true).codes = []
    ∧ (moves true).shelfOut (dieOf 3) = false := by decide +kernel

/-- Tile 3 with a record of some KIND at offset 128, named by SQ5, for sync object 9. -/
def hasRec (kind : Nat) : Dev :=
  onTile { stream := 1, prio := 2, sq := [(5, 130)], store := [(128, BitVec.ofNat 8 kind), (130, 9)], jobs := [⟨262080, [0x20, 0, 9, 0], -1, -1⟩] }

/-- SparseResults, DmaResults: records of each KIND, one that no table lists, and a job that is done with its record at the end of the store. -/
theorem test_record_there : (∀ k ∈ [0x20, 0x21, 1, 2, 3, 0x30, 0xFF], field ((hasRec k).launchRec 3 5) 0 1 = k ∧ (hasRec k).memOk = true)
    ∧ kindListed (field ((hasRec 0xFF).launchRec 3 5) 0 1) = false ∧ Issues (st (hasRec 1)) 3 ∧ (hasRec 1).calm = true ∧ (hasRec 1).jobsGo 3 = true
    ∧ ((hasRec 1).tile 3).ctx.jobs[1]? = none ∧ (moving (.saving 1) []).jobsGo 3 = false
    ∧ ((hasRec 1).tile 3).ctx.jobs[0]? = some ⟨262080, [0x20, 0, 9, 0], -1, -1⟩ ∧ 262080 + 8 ≤ 262144
    ∧ (hasRec 1).dmaRoom 0 = true ∧ ({ hasRec 1 with dma := [(0, { queue := List.replicate 64 (dmaRecOf [] (.cmd 1) 1 1 0) })] }).dmaRoom 0 = false := by
  unfold Issues
  decide +kernel

/-- A FILL of two blocks at the end of tile 3's store, its record at offset 128. -/
def fill2 : DmaRec := { dmaRecOf [3, 2, 9, 0] (.tile 3 128) 0 1 0 with dst := 262144 - 512, blocks := 2, pat := 0xA5A5A5A5 }

/-- Die 0 with its engines at work. -/
def engines (l : SMap DmaRec) (q : List DmaRec) : Dev := { onTile {} with dma := [(0, { queue := q, engines := l })] }

/-- DmaResults: a free engine and a waiting record; eight busy engines and a record of higher priority; a record with nothing left; a FILL. -/
theorem test_dma_there : (engines [] [fill2]).dmaIdle 0 = some 0 ∧ ((engines [] [fill2]).dmaDie 0).queue = fill2 :: [] ∧ (engines [] [fill2]).alive = true
    ∧ (engines [] [fill2]).dieOut 0 = false ∧ ((engines [] []).dmaDie 0).queue = [] ∧ (engines [] []).dmaOn 0 7 = none
    ∧ (let q : DmaRec := { fill2 with prio := 3 }
       let d := engines ((List.range 8).map fun i => (i, { fill2 with seq := i })) [q]
       (d.dmaDie 0).queue = q :: [] ∧ d.dmaVictim 0 q.prio = some (7, { fill2 with seq := 7 }))
    ∧ (let r : DmaRec := { fill2 with donE := 0, drows := 1 }
       let d := engines [(7, r)] []
       d.dmaOn 0 7 = some r ∧ r.orig = .tile 3 128 ∧ r.left = 0 ∧ r.parked = false ∧ d.dmaHeld 0 7 = false)
    ∧ (let d := engines [(7, fill2)] []
       d.calm = true ∧ d.memOk = true ∧ d.dmaOn 0 7 = some fill2 ∧ fill2.kind = 3 ∧ fill2.dstTs = true ∧ fill2.orig = .tile 3 128 ∧ fill2.donE = 0
         ∧ fill2.drows = 0 ∧ fill2.dst % 256 = 0 ∧ fill2.dst + 256 * fill2.blocks ≤ 262144 ∧ fill2.parked = false ∧ d.dmaHeld 0 7 = false
         ∧ 128 + 64 ≤ 262144 ∧ 128 + 64 ≤ fill2.dst) := by decide +kernel

/-! ### Memory, faults, commands -/

/-- MemoryWrites: a memory in canonical form, and two that read alike. -/
theorem test_mem_there : Mem.wf 0 [(5, 1), (9, 2)] = true ∧ Mem.wf 0xFF [(0, 0)] = true ∧ Mem.wf 0 [(5, 0)] = false ∧ Mem.wf 0 [(9, 2), (5, 1)] = false := by
  decide

theorem test_mem_drops : Mem.write 0 [(5, 1), (9, 2)] 4 [0, 0, 3] = [(6, 3), (9, 2)] := by decide
theorem test_mem_wraps : Mem.writeMod 0 262144 [] 262143 [1, 2] = [(0, 2), (262143, 1)] := by decide

/-- Address of the first Shelf byte of die 7, whose atomic window 0 covers 256 bytes. -/
def shelf7 : Nat := shelfPa 7 0

/-- A device with that window, and the scrubber of stack 15 at work. -/
def memDev : Dev := withRegs { regs := quiet, mem := [(shelf7, 0xFF), (shelf7 + 1, 0xFF), (shelf7 + 2, 0xFF), (shelf7 + 3, 0x7F)] }
  [(rShfAtomwinLen 7 0, 1), (rHbmCtl 15, 0x101)]

/-- MemoryFrame: commands that store nothing come to a next state, a load with an empty queue among them. -/
theorem test_keep_there : storesNothing (.idle 31 {}) = true ∧ State.reset.dev.cmds = [] ∧ (∃ z, exec (.idle 31 {}) State.reset = .next z)
    ∧ storesNothing (.ldt 3 lf) = true ∧ (onTile {}).cmds = [] ∧ (onTile {}).lsStill 3 = true ∧ (∃ z, exec (.ldt 3 lf) (st (onTile {})) = .next z) :=
  ⟨rfl, rfl, ⟨_, rfl⟩, by decide, rfl, by decide, ⟨_, rfl⟩⟩

/-- MemoryCommandResults: a scrubber that is off and one that is on; a part of a block at its end, in memory and in a hole; atomics inside a window, at its
last word, and outside. -/
theorem test_memory_there : memDev.fld (rHbmCtl 15) 15 8 ≠ 0 ∧ memDev.dormant = false ∧ memDev.calm = true ∧ memDev.memOk = true
    ∧ (({} : Dev).wr (rHbmCtl 15) 0).fld (rHbmCtl 15) 15 8 = 0
    ∧ (∀ pa ∈ [255, 0x8000000000], pa % 256 + [(7 : Byte)].length ≤ 256 ∧ memDev.refuse pa = none ∧ memDev.noGlaze pa = false)
    ∧ (memDev.refuse 0x2FFFFFFFFFF).isSome = true
    ∧ (∀ o ∈ [0, 248], locate (shelf7 + o) = .shelf 7 o ∧ memDev.inWindow 7 o = true ∧ o % 8 = 0) ∧ memDev.inWindow 7 256 = false
    ∧ locate (shelf7 + 256) = .shelf 7 256
    ∧ memDev.shelfOut 7 = false ∧ ({ memDev with quar := [⟨.shelfBank, 32 * 7 + 31⟩] } : Dev).shelfOut 7 = true ∧ locate 0 = .hbm 0 0
    ∧ locate 0x30000000000 = .window ∧ locate 0x2FFFFFFFFFF = .hole := by decide +kernel

theorem test_add32_clamps : leNat (Mem.bytes 0 (after (.shelfAdd32 shelf7 1 .clean) (st memDev)).mem shelf7 4) = 0x7FFFFFFF := by decide +kernel
theorem test_sadd32 : leNat (Mem.bytes 0 (after (.shelfSadd32 shelf7 0xC0000000 .clean) (st memDev)).mem shelf7 4) = 0xFFFFFFFF := by decide +kernel
theorem test_umax32 : leNat (Mem.bytes 0 (after (.shelfUmax32 shelf7 0x80000000 .clean) (st memDev)).mem shelf7 4) = 0x80000000 := by decide +kernel

/-- A park that is not posted, and the record it would be posted under. -/
def park0 : Park := ⟨.tile 3, 0x2FFFF, .read, 1, 3, 0, 0, none, false, false⟩
def rec0 : FaultRec := ⟨1, .tile 4, 1, 0x20000, .write, 3, 0, 0, 0, false, false, 5⟩

/-- Tile 3 runs; parks and records stand. -/
def faulty (ps : List Park) (fs : List FaultRec) : Dev := { onTile {} with parks := ps, faults := fs, us := 4999 }

/-- TranslationFaultResults: an access that faults; a park that is posted, merged, or waits; a record that is walked again, expires, or does not yet. -/
theorem test_fault_there :
    (faulty [] []).alive = true ∧ (faulty [] []).isParked (.tile 3) = false ∧ (faulty [] []).isParked (.wheel 7) = false
      ∧ ((faulty [] []).translate 0 (some 3) 0 .atomic) = (.fault 1 3 0, faulty [] []) ∧ ((faulty [] []).tile 3).ctx.run ≠ .idle
      ∧ (∀ fs ∈ [[], [rec0], List.replicate 256 { rec0 with cause := 2 }],
          (faulty [park0] fs).parks.find? (fun p => decide (p.agent = .tile 3) && p.fault.isNone) = some park0 ∧ (faulty [park0] fs).calm = true)
      ∧ (faulty [park0] []).faults.find? (fun f => f.va / 65536 == park0.va / 65536 && f.cause == park0.cause) = none
      ∧ (faulty [park0] [rec0]).faults.find? (fun f => f.va / 65536 == park0.va / 65536 && f.cause == park0.cause) = some rec0
      ∧ (List.replicate 256 { rec0 with cause := 2 }).find? (fun f => f.va / 65536 == park0.va / 65536 && f.cause == park0.cause) = none
      ∧ (faulty [] [rec0]).faults.find? (fun g => !g.taken) = some rec0 ∧ (faulty [] [rec0]).faults.find? (fun g => g.id == rec0.id) = some rec0
      ∧ (faulty [] [rec0]).ms < rec0.limit ∧ rec0.limit ≤ { faulty [] [rec0] with us := 5000 }.ms
      ∧ (faulty [] [rec0]).fld rMmuCtl 0 0 = 0
      ∧ (let d : Dev := withRegs { faulty [] [rec0] with ports := [(0, { bme := true })] } [(rHifLink 0, 1024)]
         d.mayIssue d.owner = true ∧ d.calm = true)
      ∧ (let d := mapped (faulty [] [rec0])
         let f : Dev := { d with faults := [{ rec0 with taken := true }] }
         (f.rewalk rec0).1 = true) := by decide +kernel

/-- A header on ring 1 of port 0, for stream 1; the same with a signal to object 8,191. -/
def hd : CmdHdr := ⟨0, 1, 0, 1, 0, 0, 0, 0⟩
def hdSig : CmdHdr := { hd with flags := 2, ssync := 8191 }

/-- A device that serves commands of ring 1 of port 0 in a job state; the owner's port may issue. -/
def serving (job : Nat) : Dev :=
  { withRegs { regs := quiet } [(rBootStatus, 0xC000), (rHifLink 0, 1024), (rHifLink 1, 1024), (rStuJob, job)] with
    rings := [(1, { opn := true, stream := 1, prio := 1 })], ports := [(0, { bme := true, perst := false, masked := false }), (1, { perst := false })] }

/-- SyncCommandResults: each command, with its objects at the ends of the range; a WAIT that is met and one that is not. -/
theorem test_sync_there : Lone (serving 0) hd .nop .nop ∧ Lone (serving 0) hdSig (.signal 8191 1) (.signal 8191 1)
    ∧ Lone (serving 0) hd (.add 0 8192 5) (.add 0 8192 5) ∧ Lone (serving 0) hd (.reset 0 1 5) (.reset 0 1 5)
    ∧ Lone (serving 0) hd (.wait 8190 2 0) (.wait 8190 2 0) ∧ satisfies ((serving 0).count 8191) 0 = true
    ∧ Lone (serving 0) hd (.wait 8190 2 1) (.wait 8190 2 1) ∧ satisfies ((serving 0).count 8191) 1 = false := by
  unfold Lone
  decide +kernel

/-- CompletionReplies: a ring in host memory and one in device memory, with and without a signal. -/
theorem test_finish_there : ((serving 0).ring 1).opn = true ∧ ((serving 0).ring 1).loc = false ∧ ((serving 0).port 0).bme = true
    ∧ ((serving 0).port 0).d3hot = false ∧ (serving 0).memOk = true ∧ wantSig hdSig = true ∧ wantSig hd = false
    ∧ (({ serving 0 with rings := [(1, { opn := true, loc := true })] }).ring 1).loc = true := by decide +kernel

/-- The reply of a NOP, of the first pass over the ring (PHASE 1). -/
theorem test_nop_reply : (after (.nop hd) (st (serving 0))).out = [.reply 0 1 (toLe 4 0 ++ toLe 2 0 ++ toLe 1 0 ++ toLe 1 3 ++ toLe 8 0)] := by decide +kernel

/-- RingResults: a ring to open, a ring to close, doorbells at the bounds and beyond, a closed ring. -/
theorem test_ring_there :
    Lone (serving 0) hd (.ringOpen ⟨63, 3, 16, false, 0x1000, 0x2000⟩) (.ringOpen ⟨63, 3, 16, false, 0x1000, 0x2000⟩)
      ∧ ((serving 0).freeRings 0).head? = some 2 ∧ Lone (serving 0) hd (.ringClose 31) (.ringClose 31)
      ∧ ((serving 0).ring 31).tail = ((serving 0).ring 31).fetched
      ∧ ringOk 0 1 = true ∧ (serving 0).bellsOn 0 = true ∧ (256#32 - ((serving 0).ring 1).fetched).toNat ≤ 2 ^ ((serving 0).ring 1).n
      ∧ 2 ^ ((serving 0).ring 1).n < (257#32 - ((serving 0).ring 1).fetched).toNat ∧ ((serving 0).ring 2).opn = false
      ∧ (0#32 - ((serving 0).ring 1).consumed).toNat ≤ (((serving 0).ring 1).replies - ((serving 0).ring 1).consumed).toNat
      ∧ (((serving 0).ring 1).replies - ((serving 0).ring 1).consumed).toNat < (1#32 - ((serving 0).ring 1).consumed).toNat := by
  unfold Lone
  decide +kernel

/-- The packet of a NOP for stream 1, and the same with a SEQ of 1. -/
def nopPacket (seq : Nat) : List Byte := [0, 0, 1, 0] ++ toLe 4 seq ++ [1, 0] ++ List.replicate 54 0

/-- A device with packets on ring 1, and one with a NOP accepted. -/
def ringing : Dev := { serving 0 with rings := [(1, { opn := true, stream := 1, prio := 1, tail := 1 })] }
def accepted : Dev := { serving 0 with cmds := [⟨0, hd, .nop, 1, false, true, [], [], 0, 0⟩] }

/-- FetchAndDispatch: a packet that lies below the tail, of a SEQ that a check rejects and of one that passes; the head of the ring of choice. -/
theorem test_fetch_there : ringOk 0 1 = true ∧ ringing.calm = true ∧ ringing.mayFetch 1 = true ∧ (ringing.ring 1).loc = false
    ∧ packets (field (nopPacket 0) 8 1) ≤ (ringing.ring 1).waiting ∧ 0 < (ringing.ring 1).waiting
    ∧ headBad (ringing.ring 1) (parsePacket 0 1 (nopPacket 1)) = some (4, 0)
    ∧ ringing.cmdCheck (parsePacket 0 1 (nopPacket 0)) = (ringing, .ok .nop)
    ∧ accepted.calm = true ∧ accepted.studio = true ∧ accepted.choice = some 1 ∧ (accepted.headOf 1).map (·.op) = some .nop := by decide +kernel

/-- LaunchResults: a LAUNCH at the end of the tiles, a tile whose launch waits, a COPY to the last die. -/
theorem test_launch_there :
    Lone (serving 1) hd (.launch ⟨4798, 2, false, 0, 0, 262136, 9⟩) (.launch ⟨4798, 2, false, 0, 0, 262136, 9⟩)
      ∧ (∀ u ∈ [4798, 4799], (serving 1).tileFree u ((serving 1).ring (ringG hd)).prio = true)
      ∧ (let c : Cmd := { launch2 with tiles := [3], start := [3] }
         let d : Dev := { serving 1 with cmds := [c] }
         d.waitingFor 3 = some c ∧ d.tileFree 3 c.prio = true ∧ d.parkedAs 3 c.h.stream = false ∧ d.alive = true)
      ∧ Lone (serving 1) hd (.copy 7 ([3, 0] ++ List.replicate 62 0)) (.copy 7 ([3, 0] ++ List.replicate 62 0)) := by
  unfold Lone
  decide +kernel

/-- WindowResults: the last Palette entry free, one that is in use, a range to purge; records to resolve, or none. -/
theorem test_palette_there :
    Lone (serving 1) hd (.windowOpen ⟨16383, 7, 63, 9, 0x100, 5, 6, 0x200⟩) (.windowOpen ⟨16383, 7, 63, 9, 0x100, 5, 6, 0x200⟩)
      ∧ (serving 1).freeWindow = some 0 ∧ Lone (serving 1) hd (.windowClose 63) (.windowClose 63) ∧ (serving 1).winBusy 63 = false
      ∧ Lone (serving 0) hd (.tlbInval 0x10000 0x20000) (.tlbInval 0x10000 0x20000)
      ∧ (∀ b, Lone { serving 1 with faults := [rec0] } hd (.faultResolve 1 b) (.faultResolve 1 b)) ∧ rec0.id = 1
      ∧ (∀ b, Lone (serving 1) hd (.faultResolve 7 b) (.faultResolve 7 b)) ∧ Lone (serving 1) hd .abort .abort := by
  unfold Lone
  decide +kernel

/-- JobResults: a job to start, one to reset with the failed retest of a unit named, tiles to reset at the end of the device. -/
theorem test_job_there : Lone (serving 0) hd (.jobStart 0xFFFF) (.jobStart 0xFFFF)
    ∧ Lone (serving 2) hd (.jobReset (some [⟨.tile, 4799⟩])) (.jobReset (some [⟨.tile, 4799⟩])) ∧ wantSig hd = false ∧ (serving 2).quar = []
    ∧ Lone (serving 1) hd (.tileReset 4798 2) (.tileReset 4798 2) := by
  unfold Lone
  decide +kernel

/-- A header on ring 33, of the standby's port. -/
def hd1 : CmdHdr := { hd with port := 1 }

/-- The device with that ring too, an age of the heartbeat, and RELEASE. -/
def standby (age release : Nat) : Dev :=
  let d := withRegs (serving 0) [(rHifHbLimit, 1000), (rHifHbAge, age), (rHifOwner, 256 * release)]
  { d with rings := [(33, { opn := true, stream := 1, prio := 1 })], ports := SMap.set d.ports 1 { bme := true, perst := false } }

/-- ControlCommandResults: a heartbeat at the limit and one below it, RELEASE set and clear; queries and register accesses. -/
theorem test_takeover_there :
    (∀ m ∈ [0, 1], Lone (standby 1000 1) hd1 (.takeover m) (.takeover m) ∧ Lone (standby 999 0) hd1 (.takeover m) (.takeover m))
      ∧ hd1.port ≠ (standby 1000 1).owner ∧ max ((standby 1000 1).rd rHifHbLimit).toNat 1000 ≤ ((standby 1000 1).rd rHifHbAge).toNat
      ∧ (standby 1000 1).fld rHifOwner 8 8 = 1 ∧ ¬max ((standby 999 0).rd rHifHbLimit).toNat 1000 ≤ ((standby 999 0).rd rHifHbAge).toNat
      ∧ ¬(standby 999 0).fld rHifOwner 8 8 = 1 ∧ (standby 1000 1).faults = []
      ∧ (∀ k ∈ [0, 1, 3], Lone (serving 0) hd (.query k 0) (.query k 0))
      ∧ Lone (serving 0) hd (.regRead 0x30000001018) (.regRead 0x30000001018)
      ∧ Lone (serving 0) hd (.regWrite 0x30000001018 5) (.regWrite 0x30000001018 5) ∧ canonOff 0x1018 ≠ rBootCtl := by
  unfold Lone
  decide +kernel

/-! ### Registers, events, host ports, the module -/

/-- RegisterResults: a register with each kind of code, on the paths that reach it; a page that is absent; a pair with a low half that waits. -/
theorem test_register_there :
    let d := (serving 0).wr (rTstAbsent 0) 8
    (∀ p ∈ [Path.bar0 0, .bar0 1, .studio, .ring 0 1], d.pathOk p = true) ∧ d.calm = true
      ∧ canonOff (winOff (.bar0 0) 0x18) = rHifHbLimit ∧ (regRow rHifHbLimit).map (·.pair) = some 0 ∧ d.mayWrite (.bar0 0) rHifHbLimit = true
      ∧ d.mayWrite (.bar0 1) rHifHbLimit = false ∧ d.storesOnly rHifHbLimit 5 = true ∧ d.pageThere rHifHbLimit = true
      ∧ (regRow rHifHbLimit).map (·.rc) = some 0 ∧ (regRow rHifStbyDrops).map (fun r => (r.pair, r.rc)) = some (0, 0xFFFFFFFF)
      ∧ canonOff (winOff .studio rBootStatus) = rBootStatus ∧ (regRow rBootStatus).map (fun r => (r.pair, r.w1c)) = some (0, 0x20)
      ∧ d.storesOnly rBootStatus 0x20 = true ∧ (regRow (rTilCvtEmax 3 0)).isSome = true ∧ d.pageThere (rTilCvtEmax 3 0) = false
      ∧ (let lo := rHifAdminCbaseLo 0
         let e : Dev := { d with stage := [(.bar0 0, lo, 0x5000)] }
         (regRow lo).map (·.pair) = some 1 ∧ (regRow (lo + 4)).map (·.pair) = some 2 ∧ e.staged (.bar0 0) lo = some 0x5000 ∧ d.storesOnly lo 0x5000 = true
           ∧ d.storesOnly (lo + 4) 1 = true ∧ d.mayWrite (.bar0 1) (lo + 4) = false ∧ d.mayWrite (.bar0 0) (lo + 4) = true ∧ 4 ≤ lo + 4)
      ∧ d.barsOn 1 = true := by decide +kernel

/-- RegisterResults, registers whose write acts: ports off and on, an admin ring off and on, a heartbeat that changes and one that does not. -/
theorem test_acting_there :
    let d := serving 0
    let e := withRegs d [(rXchPortCtl 31, 1), (rHifAdminCtl 0, 0x80000000)]
    d.pathOk .studio = true ∧ (∀ p ∈ [0, 31], d.mayWrite .studio (rXchPortCtl p) = true ∧ d.fld (rXchPortCtl p) 0 0 = 0) ∧ e.fld (rXchPortCtl 31) 0 0 = 1
      ∧ d.mayWrite (.ring 0 1) (rHifAdminCtl 1) = true ∧ d.mayWrite (.bar0 1) (rHifAdminCtl 0) = false ∧ d.fld (rHifAdminCtl 0) 31 31 = 0
      ∧ e.fld (rHifAdminCtl 0) 31 31 = 1 ∧ bitsOf 0x80000000 31 31 = 1 ∧ bitsOf 0x7FFFFFFF 31 31 = 0
      ∧ d.barsOn 0 = true ∧ d.owner = 0 ∧ d.rd rHifHeartbeat ≠ 1 ∧ d.rd rHifHeartbeat = 0 ∧ 1 ≠ d.owner := by decide +kernel

/-- A device with sources 255, 40 and 3 pending; source 3 goes to host A, the others to the Studio. -/
def events : Dev := withRegs (serving 0) [(rEvcPend 7, 2 ^ 31), (rEvcPend 1, 256), (rEvcPend 0, 8), (rEvcTgt 3, 1), (rEvcTgt 40, 0), (rEvcTgt 255, 0)]

/-- EventClaims, EventHolds, EventSets, EventServices: each target, with a source pending and with none; the ends of the fixed sources. -/
theorem test_events_there :
    (∀ t ∈ [Target.studio, .host 0, .host 1], targetOk t = true ∧ events.pathOk (targetPath t) = true) ∧ events.calm = true
      ∧ events.lowest (targetNum .studio) = some 40 ∧ events.lowest (targetNum (.host 0)) = some 3 ∧ events.lowest (targetNum (.host 1)) = none
      ∧ events.mayWrite (targetPath .studio) (rEvcPend 0) = true ∧ events.mayWrite (targetPath (.host 0)) (rEvcPend 0) = true
      ∧ events.mayWrite (targetPath (.host 1)) (rEvcPend 0) = false
      ∧ (events.evcT 1).line = false ∧ (events.evcT 1).hold = false ∧ (events.port 0).masked = false ∧ events.mayIssue 0 = true := by decide +kernel

theorem test_unmask_line_high :
    let d : Dev := { serving 0 with ports := [(0, { bme := true, perst := false })], evc := [(1, { line := true })] }
    (d.unmask 0).out = [.msix 0] ∧ ((d.unmask 0).unmask 0).out = [.msix 0] := by decide +kernel
theorem test_claim_value : (after (.evcClaim .studio []) (st events)).out = [.regData .studio 296, .msix 0] := by decide +kernel
theorem test_claim_keeps_event : (after (.evcClaim .studio [40]) (st events)).pendBit 40 = true := by decide +kernel

/-- HostPortResults, BAR2: a read and a write at the end of a block, a hole, a write by the standby. -/
theorem test_bar2_there :
    let d := serving 0
    hostOk 1 = true ∧ d.dormant = false ∧ d.bootStage = 12 ∧ d.calm = true ∧ d.memOk = true ∧ d.bar2In 1 255 1 = true ∧ d.bar2In 0 255 2 = true
      ∧ (∀ pa ∈ d.bar2Pas 0 255 2, bar2Tail pa = false ∧ bar2Hole pa = false ∧ d.glazeBad pa .clean = false) ∧ d.noGlaze (d.bar2Pa 0 255) = false
      ∧ (let e := withRegs d [(rHifBar2BaseHi 0, 0x280)]
         e.bar2In 0 0 8 = true ∧ (e.bar2Pas 0 0 8).all (fun pa => !bar2Tail pa && bar2Hole pa) = true ∧ e.bar2Pas 0 0 8 ≠ [])
      ∧ 0 = d.owner ∧ 1 ≠ d.owner := by decide +kernel

/-- HostPortResults, the port: a pending message, writes held, a start that has not begun, a ring being fetched. -/
theorem test_port_there :
    let d : Dev := { serving 0 with
      ports := [(0, { bme := true, perst := false, pend := true, held := [(1, [5])] })], evc := [(1, { line := true })] }
    hostOk 0 = true ∧ d.calm = true ∧ (d.port 0).masked = true ∧ d.mayIssue 0 = true ∧ (d.evcT 1).line = true ∧ d.linkUp 0 = true
      ∧ (1, [(5 : Byte)]) ∈ (d.port 0).held ∧ (d.ring 1).opn = true ∧ d.cmds = [] ∧ (false && !false && d.linkUp 0) = false
      ∧ ({} : Dev).bootStage = 0 ∧ d.bootStage ≠ 0 ∧ (d.port 0).perst = false
      ∧ (ringing.mayFetch 1 = true ∧ (ringing.ring 1).loc = false ∧ 0 < (ringing.ring 1).waiting) := by decide +kernel

/-- RegisterResults: a path that is not there, a misaligned offset, halves of a pair and a register that is none, the ends of both windows; a port whose half is out
of use, and paths without the right. -/
theorem test_paths_there :
    ({} : Dev).pathOk (.bar0 0) = false ∧ hostOdd (.bar0 0) 0x19 = true ∧ hostOdd (.bar0 0) 0x18 = false ∧ pairAt (.bar0 0) 0x18 = 0
      ∧ (serving 0).barsOn 0 = true ∧ ({} : Dev).barsOn 0 = false ∧ (0xFFFF < if false = true then 0x20000 else 0x10000) ∧ (0x1FFFF < if true = true then 0x20000 else 0x10000)
      ∧ (∀ n ∈ [0, 1], pairAt .studio (rHifAdminCbaseLo 0 + 4 * n) = n + 1)
      ∧ ({ serving 0 with quar := [⟨.xchHalf, 1⟩] } : Dev).isQuar ⟨.xchHalf, 31 / 16⟩ = true ∧ (serving 0).isQuar ⟨.xchHalf, 31 / 16⟩ = false
      ∧ (let d := standby 0 0
         d.pathOk (.ring 1 1) = true ∧ d.mayWrite (.ring 1 1) (rXchPortCtl 31) = false ∧ d.mayWrite (.ring 1 1) (rHifAdminCtl 0) = false) := by decide +kernel

/-- HostPortResults: an access that does not lie in the BAR, a start that has failed and one that has not ended, the Dormant state. -/
theorem test_bar2_edges :
    (serving 0).bar2In 0 0 0 = false ∧ ((serving 0).wr rBootStatus 0xF000).bar2In 0 255 1 = true ∧ ((serving 0).wr rBootStatus 0xF000).bootStage = 15
      ∧ ((serving 0).wr rBootStatus 0xC001).dormant = true ∧ ((serving 0).wr rBootStatus 0xC001).bar2In 0 255 1 = true
      ∧ ((serving 0).linkUp 1 = true ∧ ((serving 0).port 1).perst = false) ∧ ¬(({} : Dev).linkUp 1 = true) ∧ ({} : Dev).mayFetch 0 = false := by decide +kernel

/-- A certificate chain of 9 bytes in the flash, the identity key that does not match, and nothing. -/
def chain9 (fail : Nat) : Dev :=
  let d := (serving 0).setFld rSecStatus 1 1 fail
  { d with board := { d.board with flash := [(0x3240000, 9), (0x3240001, 0)] } }

/-- AttestationResults: an empty mailbox that is served, with a matching key and without. -/
theorem test_attest_there : hostOk 1 = true ∧ (chain9 0).barsOn 1 = true ∧ ((chain9 0).port 1).doe = none ∧ (chain9 0).studio = true ∧ (chain9 0).calm = true
    ∧ (chain9 0).idFail = false ∧ (chain9 0).certChain.length = 9 ∧ (chain9 1).idFail = true := by decide +kernel

/-- A module in some state of its supply. -/
def module (b : Board) : Dev := { serving 0 with board := b }

/-- ModuleResults: the standby rail off and on, MOD_EN low and high, rails coming up and up, a job or none, the Dormant state with an event. -/
theorem test_module_there :
    ((module { standby := false }).board.standby = false) ∧ ((module { deep := true }).board.standby = true ∧ (module { deep := true }).board.deep = true)
      ∧ ((module {}).board.modEn = false) ∧ ((module { modEn := true }).board.modEn = true)
      ∧ ((module { rails := true }).board.rails = true ∧ (module { rails := true }).board.pgood = false)
      ∧ ((module { modEn := true, pgood := true }).calm = true ∧ (module { modEn := true, pgood := true }).board.pgood = true)
      ∧ (serving 0).cmds = [] ∧ (serving 0).studio = true ∧ (serving 0).job = 0 ∧ (serving 1).job ≠ 0
      ∧ (let d := (events.wr rBootStatus 0xC001)
         d.dormant = true ∧ (d.lineCond 0 || d.lineCond 1 || d.lineCond 2) = true) := by decide +kernel

/-- A boot control copy that prefers slot 0, and the header of an image in that slot. -/
def copy0 : BootCopy := ⟨7, 0, true, 3, 1⟩
def bootable : Dev :=
  let image : List Byte := toLe 4 0x4F4E3136 ++ toLe 4 1 ++ List.replicate 248 0
  { regs := quiet, board := { rails := true, flash := Mem.write blank (Mem.write blank [] (bootOff 0) copy0.bytes) (imageOff 0) image } }

/-- What a start finds: every test passes, and no row is beyond repair. -/
def env0 : BootEnv := ⟨[], [], List.replicate 32 0, [], 2000000⟩

/-- ModuleResults: a start that has all it needs, one that the flash engine holds up, one without rails; BOOT_CONFIRM. Slot 0 is no valid image where its key is not
the vendor's. -/
theorem test_boot_there : bootable.cmds = [] ∧ bootable.memOk = true ∧ bootable.board.rails = true ∧ bootable.bootStage ≤ 1 ∧ bootable.board.dip = false
    ∧ bootable.flashBusy = false ∧ bootable.bootNow = some (0, copy0) ∧ bootable.mapNow = none ∧ bootable.repair = [] ∧ bootable.absent = []
    ∧ env0.trainFail = [] ∧ env0.bistFail = [] ∧ bootable.headerOk 0 = true ∧ bootable.headerOk 1 = false
    ∧ ({ bootable with board := { bootable.board with fq := [⟨true, true, true, 0, []⟩] } } : Dev).flashBusy = true
    ∧ ¬(({} : Dev).board.rails = true) ∧ (bootable.wr rBootStatus 0xC004).studio = true := by decide +kernel

/-- ModuleResults: entering the Dormant state with a job and without, and from a host port, which cannot. -/
theorem test_dormant_there : (serving 0).studio = true ∧ (serving 0).job = 0 ∧ (serving 1).job ≠ 0 ∧ (serving 0).cmds = [] ∧ (serving 0).dormant = false
    ∧ (∃ q, Path.bar0 1 = .bar0 q) ∧ ¬(∃ q, Path.studio = .bar0 q) := ⟨by decide, by decide, by decide, rfl, by decide, ⟨1, rfl⟩, by rintro ⟨q, h⟩; cases h⟩

/-- A management mailbox with a response unread. -/
def mailbox (b : Board) : Dev := { serving 0 with board := b }

/-- Operations of the write engine: an erase, a page, the last page of a request. -/
def eraseOp : FlashOp := ⟨true, true, true, 0x1900000, []⟩
def pageOp : FlashOp := ⟨true, true, false, 0x1900000, [0x0F, 0xF0]⟩

/-- MailboxResults: an empty mailbox and a taken one; regions that may be written and may not; the engine at work. -/
theorem test_mailbox_there :
    let d := mailbox { flash := [(0x1900000, 0x3C)] }
    d.board.standby = true ∧ d.calm = true ∧ d.memOk = true ∧ d.mbxTaken = false ∧ 0x3FFF000 + 4096 ≤ 0x4000000
      ∧ d.mbxDeny 0x1900000 4096 = false ∧ d.mbxDeny 0x3100000 256 = true ∧ d.mbxDeny 0x1900000 65536 = false ∧ d.mbxDeny 0x100000 65536 = true
      ∧ (List.replicate 4096 (0 : Byte)).length % 256 = 0 ∧ (0x1900000 % 65536 = 0) ∧ ((0#8).toNat = 0 ∨ 6 < (0#8).toNat) ∧ 6 < (7#8).toNat
      ∧ (mailbox { unread := true }).mbxTaken = true
      ∧ (∀ o ∈ [eraseOp, pageOp], (mailbox { fq := [o] }).board.fq = o :: [] ∧ (mailbox { fq := [o] }).board.fwait = false) ∧ eraseOp.erase = true ∧ pageOp.erase = false ∧ pageOp.mbox = true
      ∧ pageOp.last = true ∧ 65 ≤ (65#8).toNat := by decide +kernel

theorem test_flash_program : (after (.flashOpComplete true) (st (mailbox { flash := [(0x1900000, 0x3C)], fq := [pageOp] }))).flashBytes 0x1900000 3
    = [0x0C, 0xF0, 0xFF] := by decide +kernel

/-- MailboxResults: an ALERT_CLEAR whose bytes check, the same with one byte wrong, and an engine that waits. -/
theorem test_shape_there :
    (let m : List Byte := [5, 1, 0, 0, 0, 0, 0, 0, 0xE, 0, 0, 0]
     mbxShape (m ++ toLe 4 (crc32c m).toNat) = true ∧ mbxShape (m ++ toLe 4 ((crc32c m).toNat + 1)) = false) ∧ (mailbox { fwait := true }).board.fwait = true := by
  decide +kernel

/-! ### The fabric and its engines -/

/-- Port 0 in a state of Table 9.9, cabled to spare pair 1, with frames waiting and frames not acknowledged. -/
def linked (state : Nat) (f : Fab) : Dev :=
  { withRegs (serving 1) [(rXchPortStatus 0, state), (rXchRoute 1, 0x80000000), (rXchSpare 1, 0x20)] with fabs := [(0, f)] }

/-- A frame to node 1, with a sequence number. -/
def sent (n : Nat) : Frame := { headF [List.replicate 256 0] with dst := 1, src := 0, fseq := BitVec.ofNat 32 n }

/-- A spare pair in training for lane 3. -/
def pair1 (locked : Bool) : Fab := { spares := [⟨3, 1, locked⟩] }

/-- LinkResults: each state that a clause needs, and a half that is out of use; 15 and 16 replays; sequence numbers that wrap. -/
theorem test_link_there :
    (linked 1 {}).calm = true ∧ (linked 1 {}).fld (rXchPortStatus 0) 2 0 = 1 ∧ (linked 2 {}).fld (rXchPortStatus 0) 2 0 ≠ 1
      ∧ (linked 1 {}).isQuar ⟨.xchHalf, 0 / 16⟩ = false ∧ ({ linked 1 {} with quar := [⟨.xchHalf, 0⟩] } : Dev).isQuar ⟨.xchHalf, 0 / 16⟩ = true
      ∧ 0 % 16384 = (linked 1 {}).node ∧ 16383 % 16384 ≠ (linked 1 {}).node ∧ (linked 1 {}).portUp 0 = false
      ∧ (linked 2 {}).portUp 0 = true ∧ pickTx [2, 0, 0, 0] 512 [⟨none, sent 5⟩] [] = some (⟨none, sent 5⟩, [])
      ∧ (∀ z ∈ [(15, sent 0xFFFFFFFF), (16, sent 0)], seqLe (sent 0xFFFFFFFF).fseq.toNat z.2.fseq.toNat = true) ∧ (∀ z ∈ [(15, sent 5)], z.1 < 16)
      ∧ 8 < (9#8).toNat ∧ (8#8).toNat ≤ 8 ∧ inSet [5] (5#16).toNat = true ∧ inSet (linked 2 {}).aborts (0#16).toNat = false
      ∧ (0#16).toNat = (linked 2 {}).epoch ∧ (7#16).toNat ≠ (linked 2 {}).epoch ∧ (linked 2 {}).cmds = [] ∧ (linked 2 {}).job = 1 := by decide +kernel

/-- LinkResults, spares: a lane over threshold, at it, and out of alignment; a spare that is free and none; a pair in training, locked and not. -/
theorem test_spare_there :
    (let d := (linked 2 {}).wr rXchCfg 0x01000000
     d.laneBad true 1024 = false ∧ d.laneBad true 1025 = true ∧ d.laneBad false 0 = true)
      ∧ (linked 2 {}).sparing 0 3 = none ∧ (linked 2 {}).freeSpare 0 = some 1 ∧ inSet ((linked 2 {}).fab 0).noreq 3 = false
      ∧ ((linked 2 {}).wr (rXchSpare 1) 0x60).freeSpare 0 = none
      ∧ (∀ b, (linked 2 (pair1 b)).sparing 0 3 = some ⟨3, 1, b⟩ ∧ (linked 2 (pair1 b)).portUp 0 = true) := by decide +kernel

/-- A group of two devices, this one at position 0. -/
def pairG : Grp := ⟨2, 0, 1, [2, 1, 1, 1], 0x30000, 0x1000, [0x80000000, 0x80010001]⟩

/-- A record of an operation over that group (Table 10.1). -/
def xbytes (op dtype blocks count table flags : Nat) : List Byte :=
  toLe 1 op ++ toLe 1 dtype ++ toLe 2 0 ++ toLe 4 7 ++ toLe 8 0x24000 ++ toLe 8 0x26000 ++ toLe 8 0x28000 ++ toLe 4 blocks ++ toLe 4 100 ++ toLe 2 9
    ++ toLe 2 1 ++ toLe 4 count ++ toLe 8 table ++ toLe 2 flags ++ toLe 6 0

/-- A running operation of it. -/
def xop0 (op dtype blocks : Nat) (stage : XStage) : Xop :=
  { uid := 3, key := 7, cmd := none, wheel := none, op := op, rec_ := xbytes op dtype blocks 1 0 0, stream := 1, prio := 1, gen := 0, grp := pairG
    stage := stage, level := 0, bucket := 0, need := 0, got := [], sends := [], val := 0, vdone := false, eg := 0, t0 := 0, own := [], wins := [0, 1]
    holds := [], round := 0, base := 0, table := [] }

/-- The device with memory mapped, window 0 open to node 1 for writes and additions, window 1 for its own writes, port 0 UP, and an operation. -/
def wired (xs : List Xop) : Dev :=
  { mapped (withRegs (linked 2 {}) [(rPalEntryPeer 0, 0x78001), (rPalEntrySeq 0, 1), (rPalEntryLlen 0, 16), (rPalEntryLbaseLo 0, 0x2A000),
      (rPalEntryPeer 1, 0x78001), (rPalEntryRlen 1, 0x1000000), (rXchGroupBaseLo, 0x21000)]) with xops := xs }

/-- A HEAD with one block, or two, and their glaze words; a control flit of some value. -/
def head1 (xop : Nat) : Frame :=
  { headF [List.replicate 256 1] with xop := BitVec.ofNat 8 xop, glaze := [crc32c (List.replicate 256 1)] }
def head2 (xop : Nat) : Frame :=
  { headF (List.replicate 2 (List.replicate 256 1)) with xop := BitVec.ofNat 8 xop, glaze := List.replicate 2 (crc32c (List.replicate 256 1)) }
def flit (value : Nat) : Frame := { headF [] with value := BitVec.ofNat 32 value }

/-- A block that has come in for operation 7. -/
def blk (xop : Nat) : InBlk := ⟨0, 0, 0, 0, 1, 7, 0, 0, 0, xop, List.replicate 256 1, false, false⟩

set_option maxRecDepth 20000 in
/-- FrameResults, HEADs: a frame that a window admits and one that it does not; one for another device, with a link left and with none; one of another epoch. -/
theorem test_head_there :
    let d := wired []
    (∀ x ∈ [0, 3], d.takes 0 (head1 x) ∧ frameBad (head1 x) = [] ∧ d.takes 0 (head2 x) ∧ frameBad (head2 x) = [] ∧ (head2 x).xop.toNat ≤ 3
        ∧ 1 < (head2 x).blocks.length ∧ d.palOk (head2 x) = true)
      ∧ d.genOk ((head2 0).xid.toNat / 2 ^ 24) = true ∧ d.closedX.any (fun c => c == ((head2 0).xid.toNat, subKey (head2 0).sub.toNat)) = false
      ∧ d.calm = true ∧ d.palOk { head2 0 with offset := 4096 - 256 } = false ∧ d.cmds = [] ∧ d.job = 1
      ∧ (∀ h ∈ [2, 3], let f := { head1 0 with dst := 1, hops := h }
         d.hears 0 f ∧ frameBad f = [] ∧ f.dst ≠ d.node ∧ (d.heard 0 (frameFlits f) f).routePort f.dst = some 0)
      ∧ (let f := { head1 0 with epoch := 9 }
         d.hears 0 f ∧ f.dst = d.node ∧ f.epoch.toNat ≠ d.epoch) := by
  unfold Dev.takes Dev.hears
  decide +kernel

set_option maxRecDepth 20000 in
/-- FrameResults, flits: an XID that runs and one that does not; credits for a part of what is out, and for all of it; a block to send again, from memory and of
the engine's own; a barrier's flit that is expected and one that is not. -/
theorem test_frame_in_there :
    let d := wired []
    let g : Seg := ⟨0, 0x24000, 2, none⟩
    let q : SendQ := ⟨1, 1, 0, 0, [], 2, [g]⟩
    let e := wired [{ xop0 5 0 2 .plain with sends := [q] }]
    d.takes 0 (flit 1) ∧ (d.flitIn 0 (flit 1)).xWire 7 = none ∧ (d.flitIn 0 (flit 1)).xOut 7 1 = none ∧ ((e.flitIn 0 (flit 1)).xWire 7).isSome = true
      ∧ (∀ v ∈ [1, 2], e.takes 0 (flit v) ∧ (flit v).value.toNat ≤ q.flight)
      ∧ ((e.flitIn 0 (flit 1)).xOut 7 1).map (fun x => (decide (x.sends = [q]), x.op, decide (x.stage = .plain))) = some (true, 5, true)
      ∧ (e.flitIn 0 (flit 1)).xops.length = 1 ∧ q.node = (flit 1).src ∧ q.segs = []
      ∧ ((e.flitIn 0 (flit 1)).xOut 7 1).bind (fun x => x.sentFrom 1 0 256) = some (q, g) ∧ g.lit = none
      ∧ (Dev.vaPas (.xsend 0) 1 .read [0x24100] (e.flitIn 0 (flit 1))).2 = some [0x24100]
      ∧ (Dev.vaPas (.xsend 0) 1 .read [0x24100] (e.flitIn 0 (flit 1))).1.glazeBad 0x24100 .clean = false
      ∧ (⟨0, 0, 1, some (List.replicate 256 0)⟩ : Seg).lit.isSome = true
      ∧ (d.flitIn 0 (flit 1)).genOk 2 = false ∧ (d.flitIn 0 (flit 1)).genOk 1 = true
      ∧ (let x := xop0 9 0 0 .rounds
         let y := (wired [x]).flitIn 0 (flit 7)
         y.barOf 0 7 = some x ∧ x.round ≤ 0 ∧ 0 < x.rounds ∧ x.barFrom 0 = (flit 7).src ∧ (0, 7, 0, 1) ∉ y.bars ∧ ¬(1 < x.rounds)) := by
  unfold Dev.takes Dev.hears
  decide +kernel

/-- FrameResults, blocks taken in: a plain write, each addition, one of the engine's own values, an addition that a check fails. -/
theorem test_block_there :
    (let d : Dev := { wired [{ xop0 6 0 1 .plain with need := 1 }] with inbox := [blk 0] }
     d.inbox[0]? = some (blk 0) ∧ d.inbox[1]? = none ∧ d.recvHeld 0 = false ∧ (d.taker (blk 0)).map (·.uid) = some 3 ∧ d.blkVa (blk 0) = 0x2A000
       ∧ (xop0 6 0 1 .plain).wheel = none ∧ (Dev.vaPas (.xrecv (halfOf 0)) 1 .write [0x2A000] d).2 = some [0x2A000])
      ∧ (∀ x ∈ [1, 2, 3], let d : Dev := { wired [{ xop0 2 0 2 .scatter with need := 1 }] with inbox := [blk x] }
         (d.taker (blk x)).map (·.stage) = some .scatter ∧ (xop0 2 0 2 .scatter).got.any (fun g => g == (1, 0)) = false
           ∧ (Dev.vaPas (.xrecv (halfOf 0)) 1 .write [0x2A000] d).1.glazeBad 0x2A000 (Dev.vaPas (.xrecv (halfOf 0)) 1 .write [0x2A000] d).1.takeCode.1 = false)
      ∧ (∀ x ∈ [0, 1, 5], let d : Dev := { wired [{ xop0 4 4 2 (.value x) with need := 1 }] with inbox := [{ blk 2 with sub := subOf x 0 0 }] }
         (d.taker { blk 2 with sub := subOf x 0 0 }).map (·.stage) = some (.value x))
      ∧ (recvBlock 1 (List.replicate 256 1) (List.replicate 256 1) []).2.2 = none ∧ (recvBlock 1 (List.replicate 256 1) (List.replicate 256 1) [(63, 2 ^ 31)]).2.2.isSome = true
      := by decide +kernel

/-- FrameResults, holds: an operation that a park holds, with its fault id, one that none holds, and an exchange held before its launch. -/
theorem test_hold_there :
    (let x : Xop := { xop0 5 0 1 .plain with own := [(agentCode (.xsend 0), 0x24000)] }
     let d : Dev := { wired [x] with parks := [⟨.xsend 0, 0x24000, .read, 1, 0, 1, 0, some 5, false, false⟩] }
     d.xWire 7 = some x ∧ x.own = [(agentCode (.xsend 0), 0x24000)]
       ∧ (d.parks.findSome? fun q => if (agentCode q.agent, q.va) = (agentCode (.xsend 0), 0x24000) then q.fault else none) = some 5)
      ∧ (wired [xop0 5 0 1 .plain]).xWire 7 = some (xop0 5 0 1 .plain) ∧ (wired []).xWire 7 = none
      ∧ (wired []).early.find? (fun e => wireOf e.gen e.key == 7) = none := by decide +kernel

/-- The device with a record at 0x20000, its table at 0x23000, and the group. -/
def recorded (b table : List Byte) : Dev :=
  let m (d : Dev) (a : Nat) (bs : List Byte) : Dev := { d with mem := Mem.write 0 d.mem a bs }
  m (m (m (m (m (wired []) 0x20000 b) 0x21000 (toLe 8 0x22000)) 0x22000
    (toLe 2 2 ++ toLe 2 0 ++ toLe 1 1 ++ toLe 3 0 ++ toLe 2 2 ++ toLe 2 1 ++ toLe 2 1 ++ toLe 2 1 ++ toLe 8 0x30000 ++ toLe 4 0x1000)) 0x22040
      (toLe 4 0x80000000 ++ toLe 4 0x80010001)) 0x23000 table

/-- What validation makes of a command. -/
def judged (d : Dev) (op : CmdOp) : Dev × Chk CmdOp := Dev.cmdCheck (submOf hd op) (d.rung (submOf hd op))

/-- ExchangeResults: an EXCHANGE and a REDUCE_INT whose records are good. -/
theorem test_exchange_there :
    (let d := recorded (xbytes 5 0 2 0 0 0) []
     Served d hd (.exch 0x11 0x20000 unread grpNone unread) (.exch 0x11 0x20000 (xbytes 5 0 2 0 0 0) pairG [])
        (judged d (.exch 0x11 0x20000 unread grpNone unread)).1 ∧ (judged d (.exch 0x11 0x20000 unread grpNone unread)).1.xRuns 7 = false)
      ∧ (let d := recorded (xbytes 4 0 2 0 0 0) []
         Served d hd (.exch 0x12 0x20000 unread grpNone unread) (.exch 0x12 0x20000 (xbytes 4 0 2 0 0 0) pairG [])
            (judged d (.exch 0x12 0x20000 unread grpNone unread)).1) := by
  unfold Served
  decide +kernel

/-- Operation 7 as it starts, with 64 record bytes to read at address 0. -/
def starts (op dtype blocks : Nat) : Dev := wired [xop0 op dtype blocks .idle]

/-- ExchangeResults: operations that start, in memory that is mapped. -/
theorem test_start_there :
    ∀ o ∈ [(5, 0, 0), (5, 0, 2), (6, 0, 2), (7, 0, 2), (9, 0, 0), (3, 0, 1), (2, 0, 2), (4, 0, 2), (2, 4, 2), (4, 4, 2)],
      let d := starts o.1 o.2.1 o.2.2
      let x := xop0 o.1 o.2.1 o.2.2 .idle
      d.alive = true ∧ d.xop? 7 = some x ∧ idleOp o.1 x = true ∧ d.xTurn x = true ∧ x.r.sfmt = o.2.1 / 4 ∧ x.r.blocks = o.2.2
        ∧ (Dev.vread (d.srcAg x) x.stream (d.recVa x) 64 d).2.isSome = true := by decide +kernel

/-- ExchangeResults: what an operation reads and writes as it starts, and those that stand at a stage. -/
theorem test_stage_there :
    (let d := starts 4 0 2
     let x := xop0 4 0 2 .idle
     (Dev.vread (d.srcAg x) 1 (down256 x.r.src) 512 d).2 = some (List.replicate 512 0)
       ∧ (Dev.vwrite (d.dstAg x) 1 (down256 x.r.dst) (List.replicate 512 0) d).2 = some ()
       ∧ (Dev.loadSrc (d.srcAg x) 1 1 x.r.src x.r.srcx 128 d).2.isSome = true ∧ x.gathers = true)
      ∧ (∀ x ∈ [{ xop0 7 0 2 .plain with rec_ := xbytes 7 0 2 2 0 0 }, xop0 7 0 2 .plain, xop0 4 0 2 .scatter, xop0 4 0 2 .gather, xop0 4 0 2 (.value 0), xop0 4 4 2 (.value 1),
            xop0 8 0 2 .plain], (wired [x]).alive = true ∧ (wired [x]).xop? 7 = some x ∧ x.free = true ∧ x.need ≤ x.got.length ∧ x.vdone = false
              ∧ x.grp.levels ≤ x.level + 1 ∧ x.credited = true)
      ∧ (let x : Xop := { xop0 4 0 2 .scatter with grp := { pairG with levels := 2, dims := [1, 2, 1, 1] } }
         x.level + 1 < x.grp.levels ∧ (∀ y ∈ [{ x with level := 1, stage := .gather }], 0 < y.level))
      ∧ (let x := xop0 9 0 0 .rounds
         (wired [x]).xop? 7 = some x ∧ (x.gen, x.key % 2 ^ 28, x.round, x.barFrom x.round) ∈ [(0, 7, 0, 1)])
      ∧ (∀ x ∈ [{ xop0 4 0 2 .scatter with need := 1 }, { xop0 0x0A 0 2 .scatter with need := 1 }, { xop0 0x0A 0 2 (.value 1) with need := 1 }],
          x.counts = true ∧ x.stage ≠ .value 2 ∧ x.stage ≠ .value 3 ∧ x.round ≠ 1 ∧ x.stage ≠ .barrierWait)
      ∧ (xop0 4 0 2 .idle).counts = false ∧ (wired []).xop? 7 = none := by decide +kernel

/-- ExchangeResults, exchanges of a Wheel and of a budget shift: a statistic and a tally at their launch, the last place of a hop ended, the pool's group. -/
theorem test_wheelx_there :
    (let x : Xop := { xop0 0 0 0 .idle with key := 2 ^ 26, wheel := some (4, 0, .statistic) }
     (wired [x]).xop? (2 ^ 26) = some x ∧ x.wheel = some (4, 0, .statistic) ∧ (wired [x]).xTurn x = true ∧ WheelX.tally ≠ .statistic
       ∧ (let o : RouteOp := { no := 4, cmd := 4, stream := 1, prio := 1, desc := [], grp := pairG, head := [] }
          ({ wired [x] with routes := [o] } : Dev).route? 4 = some o
            ∧ (Dev.rowsOf (Dev.pieceTo o 0 .tally { x with wheel := some (4, 0, .tally) }) (List.range x.grp.n) (wired [x])).2.isSome = true))
      ∧ (let x : Xop := { xop0 0 0 0 .plain with key := 2 ^ 26, wheel := some (4, 0, .tally), grp := { pairG with levels := 2, dims := [1, 2, 1, 1] }, lasts := [1] }
         (wired [x]).xop? (2 ^ 26) = some x ∧ x.wheel.isSome = true ∧ x.level + 1 < x.grp.levels
           ∧ (x.grp.hop x.level).all (fun p => inSet x.lasts (x.grp.node p)) = true)
      ∧ (let x : Xop := { xop0 4 0 0 .idle with key := 2 ^ 25 }
         let d := recorded [] []
         { d with xops := [x] }.xop? (2 ^ 25) = some x ∧ (Dev.readGroup (.xsend 0) 1 (d.fld rKlnPool 27 16) d).2 = some (some pairG)) := by decide +kernel

/-- A permute's table: in round 0 position 0 sends to 1. -/
def pent (round from_ to_ : Nat) : List Byte :=
  toLe 2 round ++ toLe 2 from_ ++ toLe 2 to_ ++ toLe 2 0 ++ toLe 8 0 ++ toLe 8 256 ++ toLe 4 1 ++ toLe 4 0

/-- ExchangeResults, PERMUTE: a record that is good; a round's turn, and a round that has come in, whose staging area is copied to its place. -/
theorem test_permute_there :
    (let b := xbytes 8 0 2 1 0x23000 0
     let raw := CmdOp.exch 0x13 0x20000 unread grpNone unread
     let d := recorded b (pent 0 0 1)
     Served d hd raw (.exch 0x13 0x20000 b pairG (pent 0 0 1)) (judged d raw).1 ∧ (judged d raw).1.xRuns 7 = false)
      ∧ (let x := xop0 8 0 2 .turn
     (wired [x]).xop? 7 = some x ∧ x.op = 8)
      ∧ (let x := xop0 8 0 2 .plain
         (wired [x]).xop? 7 = some x ∧ x.free = true ∧ ((wired [x]).permPlace x).2 = some ()) := by
  unfold Served
  decide +kernel

/-! ### Gradients, updates, the Cone -/

/-- A GRAD's table: one bucket, whose one entry has 64 BF16 elements. -/
def grad1 : List Byte := toLe 4 5 ++ toLe 4 0 ++ toLe 4 64 ++ [2, 1, 0, 0] ++ toLe 8 0x25000 ++ toLe 8 0 ++ toLe 8 0x26000 ++ toLe 8 0

/-- A GRAD at a stage. -/
def gradX (s : XStage) (val eg : Nat) : Xop :=
  { xop0 0x0A 0 0 s with rec_ := xbytes 0x0A 0 0 1 0x23000 0, bucket := 5, table := grad1, val := val, eg := eg, vdone := true }

/-- GradientResults: GRADs and a VERDICT that start; a GRAD that waits for the step barrier, before it and after it, with each local code. -/
theorem test_gradient_starts :
    (∀ x ∈ [gradX .idle 0 0, gradX .barrierWait 0 0, { gradX .idle 0 0 with op := 0x0B }], ∀ c ∈ [0, 1, 2, 3], ∀ rel ∈ [true, false],
        let d : Dev := { wired [x] with stepRel := rel, vcode := c }
        let p := Dev.vread (d.srcAg x) x.stream (d.recVa x) 64 d
        d.alive = true ∧ d.xop? 7 = some x ∧ x.free = true ∧ (x.op = 0x0A ∨ x.op = 0x0B) ∧ (x.stage = .idle ∨ x.stage = .barrierWait) ∧ d.xTurn x = true
          ∧ p.2.isSome = true ∧ (p.1.xBegin x).1.stepRel = rel ∧ (p.1.xBegin x).1.vcode = c) := by decide +kernel

/-- GradientResults: a bucket between two; its exponent 255, 0 and between; its sums, of zeros and from memory; the norm's ends; a verdict that is known. -/
theorem test_gradient_there :
    (let x := gradX .turn 0 0
     (wired [x]).alive = true ∧ (wired [x]).xop? 7 = some x ∧ x.stage = .turn)
      ∧ (∀ v ∈ [255, 0, 1, 254], let x := gradX (.value 1) (v * 2 ^ 24 + 0xFFFFFF) 0
          (wired [x]).alive = true ∧ (wired [x]).xop? 7 = some x ∧ x.free = true ∧ x.vdone = true ∧ x.val / 2 ^ 24 = v)
      ∧ (∀ x ∈ [gradX .scatter 0 0, gradX .gather 0 0, gradX .scatter 0 1, gradX .gather 0 254],
          let d := wired [x]
          let n := bucketBlocks x.table x.grp.n x.bucket
          let p := Dev.vread (d.srcAg x) x.stream (x.workVa + 4 * 0) (4 * (64 * n - 0)) d
          d.xop? 7 = some x ∧ x.r.isOwner = false ∧ n = 2 ∧ p.2 = some (List.replicate 512 0)
            ∧ (Dev.results x 0 (64 * n) (intsOf (List.replicate 512 0)) (bucketEnts x.table x.bucket) p.1).2 = some ()
            ∧ (Dev.results x 0 (64 * n) (intsOf (List.replicate 512 0)) (bucketEnts x.table x.bucket) d).2 = some ())
      ∧ (∀ x ∈ [gradX (.value 2) 0 255, gradX (.value 3) 9 1, gradX (.value 3) 9 254], (wired [x]).xop? 7 = some x ∧ x.free = true ∧ x.eg ≠ 0 ∧ x.vdone = true)
      ∧ (let x := { gradX (.value 0) 3 0 with op := 0x0B }
         let d := wired [x]
         d.xop? 7 = some x ∧ x.free = true ∧ x.stage = .value 0 ∧ x.vdone = true
           ∧ (Dev.vwrite (d.dstAg x) x.stream (d.rd64 rXchDigestBaseLo + 64 * d.fld rXchDigestHead 5 0) (d.digEntry x.val) d).2 = some ()) := by
  decide +kernel

/-- An update record: a layer of 2 rows of 64, all of it, with its arrays in the mapped memory. -/
def ubytes (done count : Nat) : List Byte :=
  [0, 0, 63, 0] ++ toLe 4 2 ++ toLe 4 64 ++ toLe 4 9 ++ toLe 4 0 ++ toLe 4 2 ++ toLe 4 0 ++ toLe 4 64 ++ toLe 4 0 ++ toLe 4 128 ++ toLe 8 0x30000
    ++ toLe 8 0x31000 ++ toLe 8 0x32000 ++ toLe 8 0x33000 ++ toLe 8 0x34000 ++ toLe 8 count ++ toLe 8 0 ++ toLe 2 0xFFFF ++ toLe 2 9 ++ toLe 4 0
    ++ toLe 8 done ++ List.replicate 16 0

/-- The command of an update on tiles 3 and 4, and its run. -/
def update2 : Cmd := ⟨5, hd, .update 0x20000 (ubytes 7 0) none 3 2, 1, true, true, [3, 4], [], 0, 0⟩
def run5 (stage : UStage) (mark : Bool) : UpdRun := ⟨5, ubytes 7 0, none, stage, [], .pending, none, mark, 0, 0⟩

/-- Tile 3 works for that update; the record stands in memory, with a DONE of 7; UPD_STEP is 8. -/
def updating (u : UpdRun) (regs : List (Nat × Nat)) : Dev :=
  { withRegs (recorded (ubytes 7 0x35000) []) ([(rUpdStepLo, 8)] ++ regs) with
    upds := [u], cmds := [update2], tiles := [(3, { ctx := { run := .updating, cmd := some 5, stream := 1 } })] }

/-- UpdateResults: an UPDATE that is served; a record whose work is over, with STEPDONE to write and without; no record; a master that is finite and one that is not. -/
theorem test_update_there :
    (let d := recorded (ubytes 7 0) []
     Served d hd (.update 0x20000 unread none 3 2) (.update 0x20000 (ubytes 7 0) none 3 2) (judged d (.update 0x20000 unread none 3 2)).1)
      ∧ (∀ s ∈ [UStage.waiting, .sumsq, .written], ∀ m ∈ [false, true],
          let u := run5 s m
          let d := updating u []
          d.alive = true ∧ d.upds[0]? = some u ∧ d.upds[1]? = none ∧ d.updTile u = some 3 ∧ d.cmd? 5 = some update2
            ∧ (Dev.vwrite (.tile 3) 1 (d.updVa u + 104) (toLe 8 8) d).2 = some ())
      ∧ nonfin32 (0x7F7F * 65536) = false ∧ nonfin32 (0x7F80 * 65536) = true := by
  unfold Served
  decide +kernel

/-- UpdateResults: a record that waits, with and without the Cone at work, and each row of Table 11.2, the last with tokens enough and too few. -/
theorem test_update_rows :
    (updating (run5 .waiting false) [(rConeStatus, 1)]).fld rConeStatus 0 0 = 1 ∧ (updating (run5 .waiting false) []).fld rConeStatus 0 0 = 0
      ∧ (∀ x ∈ [(0, 0, false), (1, 0, false), (4, 0, false), (5, 0, false), (4, 0x80000000, false), (4, 1, true)],
          let d := updating (run5 .waiting false) [(rXchVerdict, x.1), (rUpdGrpCtl 63, x.2.1)]
          let p := Dev.vread (.tile 3) 1 (d.updVa (run5 .waiting false)) 128 d
          p.2 = some (ubytes 7 0x35000) ∧ (urec (ubytes 7 0x35000)).done ≠ p.1.rd64 rUpdStepLo ∧ p.1.rd (rUpdGrpCtl 63) = BitVec.ofNat 32 x.2.1
            ∧ (Dev.starved (.tile 3) 1 (urec (ubytes 7 0x35000)) (bitsOf (p.1.rd (rUpdGrpCtl 63)) 15 0) p.1).2 = some x.2.2)
      ∧ (let d := updating (run5 .waiting false) [(rXchVerdict, 4), (rUpdStepLo, 7)]
         (urec (ubytes 7 0)).done = (Dev.vread (.tile 3) 1 (d.updVa (run5 .waiting false)) 128 d).1.rd64 rUpdStepLo) := by
  decide +kernel

/-! ### The Wheel -/

/-- A layer descriptor: 16 tokens of 32 elements, one expert, in the mapped memory; spill rounds, and DIR and the skip kind in its flags. -/
def rbytes (rounds flags : Nat) : List Byte :=
  toLe 2 3 ++ [1, BitVec.ofNat 8 (min rounds 1), BitVec.ofNat 8 rounds, BitVec.ofNat 8 flags] ++ toLe 2 1 ++ toLe 2 2 ++ toLe 2 9 ++ toLe 4 16 ++ toLe 2 32
    ++ toLe 2 0 ++ toLe 4 0 ++ ((List.range 12).flatMap fun i => toLe 8 (0x30000 + 0x1000 * i)) ++ toLe 4 0 ++ toLe 4 100 ++ toLe 4 5 ++ toLe 4 0 ++ toLe 8 9
    ++ List.replicate 112 0

/-- A ROUTE at a stage of each half. -/
def route4 (rounds flags : Nat) (a b : Half) : RouteOp :=
  { no := 1, cmd := 4, stream := 1, prio := 1, desc := rbytes rounds flags, grp := pairG, slots := [1, 1], a := a, b := b
    head := toLe 2 3 ++ toLe 6 0 ++ toLe 8 9 ++ toLe 12 0 ++ toLe 4 2 ++ toLe 4 1 ++ toLe 2 2 ++ toLe 2 1 ++ toLe 4 0 }

/-- An exchange of one of its halves, with blocks of member 1 and of this device, and every hop over. -/
def wheelX (h : Nat) (w : WheelX) (bs : List (List Byte)) : Xop :=
  { xop0 0 0 0 .plain with
    key := 2 ^ 26, wheel := some (4, h, w), lasts := [1]
    blks := [0, 1].flatMap fun p => (bs.zip (List.range bs.length)).map fun b => (0, p, b.2, b.1) }

/-- The device with that ROUTE, that exchange, and its waiters released. -/
def routing (o : RouteOp) (x : Xop) : Dev :=
  { recorded (rbytes 0 0) [] with routes := [o], waiters := (List.range 4).map fun i => ⟨.wheel 4 (4 + i), 13 + i, 1, true⟩, xops := [x] }

/-- A block that begins with some bytes. -/
def blockOf (bs : List Byte) : List Byte := bs ++ List.replicate (256 - bs.length) 0

/-- An entry of the send list, and one whose row stands in the bulge. -/
def ent1 : SendEnt := ⟨⟨0, 0, 0, 0, 0, 0x3F800000⟩, false, false, 1⟩
def ent2 : SendEnt := { ent1 with bulged := true }

set_option maxRecDepth 20000 in
/-- WheelResults: a ROUTE that is served; none; a half that is not due; halves that start, forward and backward, on the first die and the last, and again after a park. -/
theorem test_route_there :
    (let d := recorded (rbytes 0 0) []
     Served d hd (.route 0x20000 unread grpNone unread) (.route 0x20000 (rbytes 0 0) pairG [])
       (judged d (.route 0x20000 unread grpNone unread)).1 ∧ d.route? 4 = none)
      ∧ (let o := route4 0 0 {} {}
         let d := routing o (wheelX 0 .tally [])
         let o1 := o.setHalf 0 { o.a with starts := [7] }
         let p := Dev.halfReads 7 o1 ((d.setRoute o1).progress 7 (o.q.toks 0 7).1)
         d.route? 4 = some o ∧ dieOk 7 = true ∧ d.halfDue o 0 7 = true ∧ d.halfDue o 1 7 = false ∧ d.wheelTakes 7 o.prio = true ∧ o.q.back = false
           ∧ p.2 = some [0]
           ∧ (Dev.rankToks 7 o1 [0] ((List.range (o.q.toks 0 7).2).map ((o.q.toks 0 7).1 + ·)) {} p.1).2.map (fun r => (r.bad, r.taken)) = some (0, [(7, 0)]))
      ∧ (let o := route4 0 1 { stage := .sent } {}
         let d := routing o (wheelX 0 .tally [])
         d.route? 4 = some o ∧ d.halfDue o 1 0 = true ∧ d.wheelTakes 0 o.prio = true ∧ o.q.back = true)
      ∧ (∀ f ∈ [0, 1], let o := route4 0 f { starts := [0] } {}
          let d := routing o (wheelX 0 .tally [])
          d.route? 4 = some o ∧ o.a.stage = .ranking ∧ inSet o.a.starts 0 = true ∧ inSet o.a.dies 0 = false ∧ d.isParked (.wheel 0) = false
            ∧ d.halfDue o 0 0 = false) := by
  unfold Served
  decide +kernel

/-- WheelResults: a layer statistic below the threshold and at it; tallies that are complete; grants that are complete, with no spill round left and with one. -/
theorem test_tally_there :
    (∀ v ∈ [4, 5], let o := route4 0 0x10 { stage := .statistic, stat := 3 } {}
        let y := { wheelX 0 .statistic [] with val := v, vdone := true }
        let d := routing o y
        d.route? 4 = some o ∧ o.a.stage = .statistic ∧ d.wXop o 0 .statistic = some y ∧ y.vdone = true ∧ y.free = true
          ∧ decide (sInt 64 y.val < o.q.lthresh) = decide (v = 4))
      ∧ (∀ h ∈ [0, 1],
          let x : Half := { stage := .tally, room := [[2], [2]] }
          let o := route4 0 0 x x
          let y := wheelX h .tally [blockOf (toLe 4 1)]
          (routing o y).route? 4 = some o ∧ (o.half h).stage = .tally ∧ (routing o y).wDone o h .tally = some y)
      ∧ (∀ h ∈ [0, 1], ∀ n ∈ [0, 2],
          let x : Half := { stage := .grant, mine := [[⟨0, 0, 0, 0, 2⟩], [⟨0, 0, 0, 0, 2⟩]], pairs := [ent1.pair] }
          let o := route4 n 0 x x
          let y := wheelX h .grant [blockOf (grantBytes ⟨0, 0, 0, 0, 1⟩)]
          let gs := (List.range o.grp.n).map fun p => (chunks 16 (nth 0 o.slots p) (y.vector p (16 * nth 0 o.slots p))).map grantOf
          let dv := divideAll x o.slots gs
          let d := routing o y
          d.route? 4 = some o ∧ (o.half h).stage = .grant ∧ d.wXop o h .grant = some y ∧ y.stage = .plain ∧ y.hopsIn = true ∧ y.free = true
            ∧ d.isParked (.wheel 0) = false ∧ decide (o.q.policy ≠ 1 ∨ o.q.rounds ≤ x.round) = decide (n = 0) ∧ decide (x.round < o.q.rounds) = decide (n = 2)
            ∧ dv.2 = [ent1.pair]
            ∧ (Dev.candidates o (gs.map fun l => l.map (·.room)) dv.2 x.taken d).2.map (fun c => (c.1, c.2.2)) = some ([{ ent1.pair with gate := 0 }], [])) := by
  decide +kernel

/-- WheelResults: rows that come in, from each position, forward and backward, at their slot and in the bulge; a return that is due in each half. -/
theorem test_rows_there :
    (∀ f ∈ [0, 1], ∀ src ∈ [0, 1], ∀ e ∈ [ent1, ent2],
        let o := route4 0 f { stage := .sent, used := [(0, 2, 0)] } {}
        let y := wheelX 0 .dispatch [blockOf e.bytes, List.replicate 256 1]
        let d := routing o y
        let ent := sendEntOf o.q src e.bytes
        let xr := Agent.xrecv (d.sendHalf (o.grp.node src))
        d.route? 4 = some o ∧ d.wXop o 0 .dispatch = some y ∧ y.rowIn src (o.q.pin / 256) 0 = some (e.bytes, List.replicate 256 1) ∧ d.isParked (.wheel 0) = false
          ∧ d.isParked xr = false ∧ y.free = true ∧ o.q.back = decide (f = 1)
          ∧ (let p := Dev.vwrite (.wheel 0) 1 (o.recvAt 0 ent).1 (toLe 4 (o.grp.node src) ++ toLe 4 0) (d.progress 0 ent.row)
             p.2 = some () ∧ (Dev.vwrite xr 1 (o.recvAt 0 ent).2 (List.replicate 256 1) p.1).2 = some ())
          ∧ (Dev.vwrite xr 1 (o.recvAt 0 ent).2 (List.replicate 256 1) d).2 = some ())
      ∧ (∀ h ∈ [0, 1], let x : Half := { stage := .sent, rows := true, back := List.range 8 }
          let o := route4 0 0 x x
          let d := routing o (wheelX h .dispatch [])
          d.route? 4 = some o ∧ x.ret = false ∧ d.released (.wheel o.cmd (4 + h)) = true ∧ 8 ≤ o.a.back.length) := by decide +kernel

set_option maxRecDepth 20000 in
/-- WheelResults: contributions in each half, to a Wheel that combines already and to one that is free; a die that drains. -/
theorem test_combine_there :
    (∀ h ∈ [0, 1], ∀ g ∈ [[], [0]],
        let x : Half := { stage := .sent, ents := [ent1], begun := g }
        let o := route4 0 0 x x
        let y := wheelX h .ret [blockOf (toLe 4 h), List.replicate 256 1]
        let d := routing o y
        let d1 := (d.setRoute (o.setHalf h { x with begun := setIns x.begun 0 })).progress 0 h
        d.route? 4 = some o ∧ d.wXop o h .ret = some y ∧ y.rowIn 1 o.q.retBlocks 0 = some ((blockOf (toLe 4 h)).take 16, List.replicate 256 1)
          ∧ o.q.back = false ∧ o.firstEntOf h ≤ h ∧ x.ents[h - o.firstEntOf h]? = some ent1 ∧ inSet x.done h = false ∧ d.combineTakes o h 0 = true
          ∧ (Dev.shelfRead 0 (o.q.anchorOff h (o.q.tokIx ent1.pair.tok)) 2 d1).2 = some [0, 0])
      ∧ (let x : Half := { stage := .sent, ents := [ent1], done := [0], begun := [0] }
         let o := route4 0 0 x {}
         let d := routing o (wheelX 0 .ret [])
         let p := Dev.drainToks o 0 0 [0] (d.setRoute o)
         d.route? 4 = some o ∧ d.allCombined o 0 = true ∧ inSet o.a.back 0 = false ∧ d.combineTakes o 0 0 = true
           ∧ (let tk := o.q.toks 0 0
              ((List.range tk.2).map (tk.1 + ·)).filter (fun t => !inSet x.outs t) = [0])
           ∧ p.2 = some () ∧ (p.1.route? 4).map (·.a.outs) = some [0]) := by decide +kernel

/-- A sort record of two rows: counts at 0x24000, row ids to 0x25000. -/
def sort1 : SortJob := { tile := 3, off := 128, img := [0x30, 0, 9, 0, 0, 0, 0, 0] ++ toLe 8 0x24000 ++ toLe 8 0x25000 ++ toLe 4 2 ++ toLe 36 0, stream := 1, prio := 1, run := true }

/-- WheelResults: sorts that run and that wait, and none. A slot with no room left, and one with all of it; a grant at the ends of its fields. -/
theorem test_sort_there :
    (∀ b, let j : SortJob := { sort1 with run := b }
        let d : Dev := { wired [] with sorts := [(0, [j])], tiles := [(3, {})] }
        d.alive = true ∧ sortPick (d.sortsOn 0) = some j ∧ sortPick (d.sortsOn 7) = none ∧ d.isParked (.wheel 0) = false
          ∧ (j.run = true ∨ d.wheelTakes 0 j.prio = true) ∧ (Dev.sortRun 0 (2 * field j.img 24 4 + 3) { j with run := true } d).2.2 = some ())
      ∧ (0 ≤ 4 ∧ 4 ≤ 4) ∧ (65535 < 2 ^ 16 ∧ 4294967295 < 2 ^ 32) := by decide +kernel

/-- The grouping order takes the larger bucket first, and equal buckets by row. -/
theorem test_group_order : groupOrder [0, 1, 3, 2, 0, 9] = [5, 2, 3, 1, 0, 4] := by decide

/-! ### Silent errors and power -/

/-- A device in a job, with test firing on or off, some retries, tiles, and a firing. -/
def silent (tst : Nat) (f : Firing) (rs : List Retry) (ts : SMap Tile) : Dev :=
  { withRegs (serving 1) [(rTstCtl, tst)] with fire := f, retries := rs, tiles := ts, crz := [⟨1, 5, ⟨.tile, 3⟩, 1, 0, 0, 0, 0, 0, 0, 0⟩] }

/-- A retry of a load, of check 5, on tile 3; one of a store; one that a host port asked for. -/
def retry5 : Retry := { what := .ldt 3 0, check := 5, unit := ⟨.tile, 3⟩, addr := 0x20000 }
def retrySt : Retry := { retry5 with what := .store 3, check := 7 }
def retryBar : Retry := { what := .bar2 0 0x20000 4, check := 4, unit := ⟨.hostPort, 0⟩, addr := 0x20000 }

/-- A mismatch of tiles 0 and 1 with a referee. -/
def miss (ra rb : Option Bool) (ref2 : Option Nat) : Referee := { a := 0, b := 1, ref := 2, ra := ra, rb := rb, ua := ⟨.tile, 0⟩, ub := ⟨.tile, 1⟩, ref2 := ref2 }

/-- SilentResults, retries: none; one that reads again and passes, and fails where its block is bad; one that a check's outcome decides; one of a host port. -/
theorem test_retry_there :
    (silent 0 {} [] []).retries[0]? = none
      ∧ (∀ r ∈ [retry5, retrySt, retryBar], (silent 0 {} [r] []).retries[0]? = some r)
      ∧ (let z (r : Retry) (p : Bool) (d : Dev) := Dev.retryTry { d with retries := delNth d.retries 0 } r p .clean
         let bad : Dev := { silent 0 {} [retry5] [] with bad := [0x200] }
         (z retry5 false (silent 0 {} [retry5] [])).1 = true ∧ (z retry5 true bad).1 = false ∧ ((z retry5 true bad).2.retryUnit retry5 .clean).cls ≠ .hostPort
           ∧ (z retrySt true (silent 0 {} [retrySt] [])).1 = true ∧ (z retrySt false (silent 0 {} [retrySt] [])).1 = false
           ∧ (z retryBar false (silent 0 {} [retryBar] [])).1 = false
           ∧ ((z retryBar false (silent 0 {} [retryBar] [])).2.retryUnit retryBar .clean).cls = .hostPort) := by decide +kernel

/-- SilentResults, firings: no job and a job; firing off and on; a sweep that is clean and one that is not; a group that fired; tiles of a pair at rest, running,
taken, and not taken. -/
theorem test_firing_there :
    (silent 0 {} [] []).calm = true ∧ (serving 0).active = false ∧ (silent 0 {} [] []).active = true ∧ (silent 0 {} [] []).firesOn = false
      ∧ (silent 0x80000000 {} [] []).firesOn = true
      ∧ (let d := silent 0x80000000 { groups := List.range 75 } [] []
         d.sweepSound = true ∧ d.firingNow = [] ∧ inSet d.fire.groups 74 = true) ∧ (silent 0x80000000 {} [] []).sweepSound = false
      ∧ (∀ g ∈ [0, 74], g < 75 ∧ inSet (silent 0x80000000 {} [] []).fire.groups g = false
          ∧ ∀ die ∈ [0, 7], (silent 0x80000000 {} [] []).fires (600 * die + 8 * g + 7) = true ∧ ((silent 0x80000000 {} [] []).tile (600 * die + 8 * g + 7)).inFiring = false)
      ∧ ((({} : Dev).tile 599).ctx.run = .idle ∧ (({} : Dev).tile 599).busy = .none) ∧ ((onTile {}).tile 3).ctx.run ≠ .idle
      ∧ ((onTile {}).tile 3).inFiring = false ∧ (silent 0 {} [] []).pairReady 4799 = none ∧ tileOk 4799 = true := by decide +kernel

/-- Tiles 0, 1 and 2 taken for a firing. -/
def taken3 : SMap Tile := [(0, { busy := .firing 1 }), (1, { busy := .firing 0 }), (2, { busy := .firing 0 })]

/-- SilentResults, mismatches: signatures that agree and that differ, with a referee and with none; each retest, of each tile and of the referee; each majority. -/
theorem test_referee_there :
    (let d := silent 0x80000000 {} [] taken3
     d.pairReady 0 = some 1 ∧ d.fire.refs.any (fun z => z.keeps 0 || z.keeps 1) = false ∧ sigs [1] = sigs [1] ∧ sigs [1] ≠ sigs [2]
       ∧ d.referee 0 [0, 1] = none ∧ ({ d with fire := { d.fire with passed := [0, 2] } } : Dev).referee 0 [0, 1] = some 2
       ∧ (let e := ({ d with fire := { d.fire with passed := [0, 2] } } : Dev)
          (((((e.setPassed 0 false).setPassed 1 false).spoil 0).bump rTstMismatches 1).pushCrz (e.entry 3 9 ⟨.tile, 0⟩ 0 (e.fireDetail 1))).referee 0 [0, 1] = some 2))
      ∧ (∀ m ∈ [miss none none none, miss none (some true) none, miss (some false) none none, miss (some false) (some false) (some 1)],
          let d := silent 0 { refs := [m] } [] taken3
          d.alive = true ∧ d.fire.refs = [m] ∧ d.taken m.ref = true ∧ d.taken 1 = true ∧ m.ref ≠ 0 ∧ m.ref ≠ 1)
      ∧ (miss none none none).ra = none ∧ (miss none none none).rb = none ∧ (miss (some true) (some false) (some 1)).ref2 = some 1
      ∧ ((silent 0 {} [] []).alive = true ∧ (silent 0 {} [] []).fire.refs = []) := by decide +kernel

/-- SilentResults, the log: an entry to write and none; the last pin of the last stack. -/
theorem test_craze_there :
    (silent 0 {} [] []).alive = true ∧ (silent 0 {} [] []).studio = true ∧ (silent 0 {} [] []).crz = ⟨1, 5, ⟨.tile, 3⟩, 1, 0, 0, 0, 0, 0, 0, 0⟩ :: []
      ∧ (silent 0 {} [] []).board.fq = [] ∧ (serving 1).crz = [] ∧ (silent 0 {} [] []).memOk = true ∧ 15 < 16 ∧ 31 < 32 ∧ 69 < 70 := by decide +kernel

/-- The device on some supply, with the Kiln in some state. -/
def powered (b : Board) (k : Kiln) (l : List (Nat × Nat)) : Dev := { withRegs (serving 1) l with board := b, kiln := k }

/-- PowerResults: bins and samples with power good, at the fast limit and below it; the cap reached and passed; an exchange for a budget shift, whose sum is 0 and is not;
droops; supplies at each limit; a deep dip, a hold; temperatures at each limit. -/
theorem test_power_there :
    (let d := powered { pgood := true } {} [(rKlnCapEff, 4000)]
     d.calm = true ∧ d.board.pgood = true ∧ d.kiln.lim = none ∧ d.kiln.hot = false ∧ d.kiln.exc = false ∧ d.capEff < 65535 ∧ 0 ≤ d.capEff
       ∧ d.kiln.shut = false ∧ d.fld rKlnStatus 4 4 = 0 ∧ inSet d.kiln.slow 7 = false ∧ d.board.dip = false ∧ d.xop? (2 ^ 25) = none)
      ∧ (∀ v ∈ [0, 5 + 7 * 2 ^ 32], let x : Xop := { xop0 4 0 0 (.value 0) with key := 2 ^ 25, vdone := true, val := v }
          (wired [x]).alive = true ∧ (wired [x]).xop? (2 ^ 25) = some x ∧ x.free = true)
      ∧ inSet (powered {} { slow := [7] } []).kiln.slow 7 = true ∧ (powered {} {} []).board.pgood = false ∧ (powered {} { exc := true } []).kiln.exc = true
      ∧ ((powered { deep := true, dip := true } {} []).board.deep = true ∧ (powered { deep := true } {} []).board.standby = true
          ∧ (powered { deep := true } {} []).bootStage ≠ 0)
      ∧ ((powered {} {} []).board.deep = false ∧ (powered {} {} []).board.hold = false ∧ (powered { hold := true } {} []).board.hold = true
          ∧ (powered { hold := true, dip := true } {} []).board.dip = true ∧ (powered { hold := true } {} []).board.dip = false)
      ∧ (∀ p ∈ [([94, 91], [91]), ([95], [0]), ([0], [95])], (hottest p.1).2 < 110 ∧ (hottest p.2).2 < 105)
      ∧ (hottest [95]).2 = 95 ∧ (hottest [91]).2 < 92 ∧ (hottest [110]).2 = 110 ∧ (hottest [105]).2 = 105
      ∧ (powered { pgood := true } { shut := true } []).kiln.shut = true ∧ [0, 1, 2].Perm [0, 1, 2] := by
  refine ⟨by decide +kernel, by decide +kernel, by decide +kernel, by decide +kernel, by decide +kernel, by decide +kernel, by decide +kernel,
    by decide +kernel, by decide, by decide, by decide, by decide, by decide, List.Perm.refl _⟩

/-- PowerResults, droops: no droop at the voltage of the setpoint, and one 1 mV below it with a DROOP_CFG of 0, whatever that voltage is, if any. -/
theorem test_droop_there (v : Nat) (h : Config.tableMv 7 (powered {} {} [(rKlnDroopCfg, 0)] |>.fld rKlnSetpoint 7 0) = v + 1) :
    (powered {} {} [(rKlnDroopCfg, 0)]).droops 7 (v + 1) = false ∧ (powered {} {} [(rKlnDroopCfg, 0)]).droops 7 v = true := by
  have hz : (powered {} {} [(rKlnDroopCfg, 0)]).fld rKlnDroopCfg 7 0 = 0 := by decide +kernel
  unfold Dev.droops
  rw [h, hz]
  simp

end Sys2Proof.Tests
end

section
/-!
The sync objects of the command protocol: when a count satisfies a threshold (R437) and which waiters a new count releases (R439).
-/
namespace Sys2Proof.Machine

/-! ### Thresholds -/

theorem satisfies_iff (c v : Word) : satisfies c v = true ↔ (c - v).toNat < 2 ^ 31 := decide_eq_true_iff

/-- A count that is `n` ahead of a threshold, with `n` below half the range, is at distance `n` from it although the sum wraps. -/
theorem toNat_add_ofNat_sub (v : Word) {n : Nat} (hn : n < 2 ^ 31) : (v + BitVec.ofNat 32 n - v).toNat = n := by
  rw [BitVec.add_comm, BitVec.add_sub_cancel, BitVec.toNat_ofNat, Nat.mod_eq_of_lt (by omega)]

/-- Settles O19: the distance `n` of a count from a threshold is their difference modulo 2^32. -/
theorem syncThreshold : Obligations.SyncThreshold := by
  intro c v
  rw [satisfies_iff]
  constructor
  · intro h
    refine ⟨(c - v).toNat, h, ?_⟩
    rw [BitVec.ofNat_toNat, BitVec.setWidth_eq, BitVec.add_comm, BitVec.sub_add_cancel]
  · rintro ⟨n, hn, rfl⟩
    rwa [toNat_add_ofNat_sub v hn]

/-! ### Waiters -/

/-- The test of R439 on one waiter: marking it when it waits on the object and is satisfied is the disjunction with its former mark. -/
theorem Waiter.mark_eq_or (w : Waiter) (obj : Nat) (c : Word) :
    (if w.obj = obj && satisfies c w.thr then { w with released := true } else w)
      = { w with released := w.released || (w.obj == obj && satisfies c w.thr) } := by
  rw [Bool.beq_eq_decide_eq]
  cases decide (w.obj = obj) && satisfies c w.thr with
  | false => simp only [Bool.false_eq_true, if_false, Bool.or_false]
  | true => simp only [if_true, Bool.or_true]

/-- The test of R439 over all waiters: each stays at its place and is marked or not on its own. -/
theorem Dev.setCount_waiters_getElem? (d : Dev) (obj : Nat) (c : Word) (k : Nat) :
    (d.setCount obj c).waiters[k]?
      = d.waiters[k]?.map fun w => { w with released := w.released || (w.obj == obj && satisfies c w.thr) } := by
  simp only [Dev.setCount, List.getElem?_map, Waiter.mark_eq_or]

/-- Settles O20: a new count marks each waiter by the test of R439, in place, and is the only count that changes. -/
theorem syncReleases : Obligations.SyncReleases := by
  intro d obj c k w hw
  refine ⟨?_, ?_, fun o ho => ?_⟩
  · rw [Dev.setCount_waiters_getElem?, hw, Option.map_some]
  · rw [Dev.count_setCount, if_pos rfl]
  · rw [Dev.count_setCount, if_neg ho]

end Sys2Proof.Machine
end

section
/-!
The event controller (chapter 17): pending bits, the choice of a source, claims, hold bits, and what an access leaves once the request lines follow.
-/
namespace Sys2Proof.Machine

/-! ### Pending bits: one rule per write -/

theorem rEvcPend_inj {i j : Nat} : rEvcPend i = rEvcPend j ↔ i = j := by
  simp only [rEvcPend]
  omega

/-- The pending bit of a source is bit `n mod 32` of its EVC_PENDi (Table 17.5). -/
theorem Dev.pendBit_eq_getLsbD (d : Dev) (n : Nat) : d.pendBit n = (d.rd (rEvcPend (n / 32))).getLsbD (n % 32) := rfl

theorem Dev.pendBit_congr {d e : Dev} (h : d.regs = e.regs) (n : Nat) : d.pendBit n = e.pendBit n := by
  rw [Dev.pendBit, Dev.pendBit, Dev.rd_congr h]

/-- A write of EVC_PENDi's bits gives the sources of that register their bits, and leaves those of the others. -/
theorem Dev.pendBit_wr (d : Dev) (i n : Nat) (v : Word) :
    (d.wr (rEvcPend i) v).pendBit n = if n / 32 = i then v.getLsbD (n % 32) else d.pendBit n := by
  simp only [Dev.pendBit_eq_getLsbD, Dev.rd_wr, rEvcPend_inj, apply_ite (BitVec.getLsbD · (n % 32))]

theorem Dev.pendBit_evcSet (d : Dev) (i n : Nat) (v : Word) :
    (d.evcSet i v).pendBit n = (d.pendBit n || (decide (n / 32 = i) && v.getLsbD (n % 32))) := by
  rw [Dev.evcSet, Dev.pendBit_wr]
  by_cases h : n / 32 = i
  · subst h
    simp [Dev.pendBit_eq_getLsbD]
  · simp [h]

theorem Dev.pendBit_evcClear (d : Dev) (i n : Nat) (v : Word) :
    (d.evcClear i v).pendBit n = (d.pendBit n && !(decide (n / 32 = i) && v.getLsbD (n % 32))) := by
  rw [Dev.evcClear, Dev.pendBit_wr]
  by_cases h : n / 32 = i
  · subst h
    have hb : n % 32 < 32 := Nat.mod_lt n (by decide)
    simp [Dev.pendBit_eq_getLsbD, hb]
  · simp [h]

/-- The word with the bit of source `a`, in the register of that source, has the bit of no other source. -/
theorem pendMask_getLsbD (a n : Nat) :
    (decide (n / 32 = a / 32) && (BitVec.ofNat 32 (2 ^ (a % 32))).getLsbD (n % 32)) = decide (n = a) := by
  have hb : n % 32 < 32 := Nat.mod_lt n (by decide)
  rw [BitVec.getLsbD_ofNat, Nat.testBit_two_pow, decide_eq_true hb, Bool.true_and, ← Bool.decide_and, decide_eq_decide]
  omega

/-- An event is a software set of its one bit (R473). -/
theorem Dev.raise_eq_evcSet (d : Dev) (a : Nat) : d.raise a = d.evcSet (a / 32) (BitVec.ofNat 32 (2 ^ (a % 32))) := rfl

theorem Dev.pendBit_raise (d : Dev) (a n : Nat) : (d.raise a).pendBit n = (d.pendBit n || decide (n = a)) := by
  rw [Dev.raise_eq_evcSet, Dev.pendBit_evcSet, pendMask_getLsbD]

theorem Dev.pendBit_foldl_raise (l : List Nat) (d : Dev) (n : Nat) :
    (l.foldl (fun y a => y.raise a) d).pendBit n = (d.pendBit n || decide (n ∈ l)) := by
  induction l generalizing d with
  | nil => simp
  | cons a l ih => rw [List.foldl_cons, ih, Dev.pendBit_raise, Bool.or_assoc, ← Bool.decide_or, decide_eq_decide.mpr List.mem_cons]

/-- Events of one cycle set the bits of the sources that there are (R466). -/
theorem Dev.pendBit_raiseAll (d : Dev) (ev : List Nat) {n : Nat} (hn : n < 256) :
    (d.raiseAll ev).pendBit n = (d.pendBit n || decide (n ∈ ev)) := by
  rw [Dev.raiseAll, Dev.pendBit_foldl_raise]
  simp [hn]

@[simp] theorem Dev.raiseAll_nil (d : Dev) : d.raiseAll [] = d := rfl

/-- Events change registers alone. -/
theorem Dev.raiseAll_eq (d : Dev) (ev : List Nat) : d.raiseAll ev = { d with regs := (d.raiseAll ev).regs } := by
  unfold Dev.raiseAll
  generalize ev.filter (fun a => decide (a < 256)) = l
  induction l generalizing d with
  | nil => rfl
  | cons a l ih => rw [List.foldl_cons, ih]; rfl

/-! ### The lowest pending source (R470) -/

/-- A search upward from `i` finds the first number that meets the test. -/
theorem findFrom_eq_some_iff (p : Nat → Bool) (c i n : Nat) :
    findFrom p c i = some n ↔ i ≤ n ∧ n < i + c ∧ p n = true ∧ ∀ m, i ≤ m → m < n → ¬p m = true := by
  induction c generalizing i with
  | zero =>
    simp only [findFrom, reduceCtorEq, false_iff]
    omega
  | succ c ih =>
    rw [findFrom]
    split
    next hi =>
      rw [Option.some_inj]
      constructor
      · rintro rfl
        exact ⟨Nat.le_refl i, by omega, hi, fun m _ _ => by omega⟩
      · rintro ⟨hin, -, -, hmin⟩
        refine Decidable.byContradiction fun hne => ?_
        exact hmin i (Nat.le_refl i) (by omega) hi
    next hi =>
      rw [ih]
      constructor
      · rintro ⟨hin, hnc, hn, hmin⟩
        refine ⟨by omega, by omega, hn, fun m him hmn => ?_⟩
        obtain rfl | hlt := Nat.eq_or_lt_of_le him
        · exact hi
        · exact hmin m hlt hmn
      · rintro ⟨hin, hnc, hn, hmin⟩
        have hne : i ≠ n := by
          rintro rfl
          exact hi hn
        exact ⟨by omega, by omega, hn, fun m him hmn => hmin m (by omega) hmn⟩

theorem Dev.lowest_eq_some_iff (d : Dev) (k n : Nat) :
    d.lowest k = some n ↔ n < 256 ∧ d.pendBit n = true ∧ d.tgt n = k ∧ ∀ m, m < n → ¬(d.pendBit m = true ∧ d.tgt m = k) := by
  rw [Dev.lowest, findFrom_eq_some_iff]
  simp only [Nat.zero_le, true_and, forall_const, Nat.zero_add, Bool.and_eq_true, beq_iff_eq, and_assoc]

theorem Dev.lowest_congr {d e : Dev} (h : d.regs = e.regs) (k : Nat) : d.lowest k = e.lowest k := by
  simp only [Dev.lowest, Dev.pendBit_congr h, Dev.tgt, Dev.fld_congr h]

/-! ### Claims -/

theorem Dev.claim_none {d : Dev} {k : Nat} (h : d.lowest k = none) : d.claim k = (0, d) := by rw [Dev.claim, h]

theorem Dev.claim_some {d : Dev} {k n : Nat} (h : d.lowest k = some n) :
    d.claim k = (BitVec.ofNat 32 (256 + n),
      (d.evcClear (n / 32) (BitVec.ofNat 32 (2 ^ (n % 32)))).setEvcT k { d.evcT k with insv := some n }) := by
  rw [Dev.claim, h]
  rfl

/-- What a claim returns depends on registers alone: neither the hold bit nor the source in service plays a part. -/
theorem Dev.claim_fst_congr {d e : Dev} (h : d.regs = e.regs) (k : Nat) : (d.claim k).1 = (e.claim k).1 := by
  rw [Dev.claim, Dev.claim, Dev.lowest_congr h]
  cases e.lowest k <;> rfl

/-! ### What the request lines leave -/

@[simp] theorem Dev.lines_regs (d : Dev) : d.lines.regs = d.regs := by simp only [Dev.lines, Dev.setLine_regs]

/-- Of a target's state the request line alone follows; the three targets there are have the level of R469. -/
theorem Dev.lines_evcT (d : Dev) (j : Nat) :
    d.lines.evcT j = { d.evcT j with line := if j < 3 then d.lineCond j else (d.evcT j).line } := by
  simp only [Dev.lines, Dev.setLine_evcT, Dev.setLine_lineCond]
  by_cases hj : j < 3
  · obtain rfl | rfl | rfl : j = 0 ∨ j = 1 ∨ j = 2 := by omega
    · rfl
    · rfl
    · rfl
  · rw [if_neg (by omega), if_neg (by omega), if_neg (by omega), if_neg hj]

theorem Dev.lineRise_out_prefix (d : Dev) (p : Nat) : d.out <+: (d.lineRise p).out := by
  unfold Dev.lineRise
  split
  · exact List.prefix_rfl
  · exact List.prefix_append _ _

theorem Dev.setLine_out_prefix (d : Dev) (k : Nat) : d.out <+: (d.setLine k).out := by
  simp only [Dev.setLine]
  split
  · exact Dev.lineRise_out_prefix (d.setEvcT k _) _
  · exact List.prefix_rfl

/-- Nothing that was sent is lost when the lines follow. -/
theorem Dev.lines_out_prefix (d : Dev) : d.out <+: d.lines.out :=
  ((Dev.setLine_out_prefix d 0).trans (Dev.setLine_out_prefix _ 1)).trans (Dev.setLine_out_prefix _ 2)

/-! ### A command of the event controller in a calm device -/

/-! Whether something could close turns on commands, rings and exchanges, none of which an access to the event controller touches. -/

@[simp] theorem Dev.setEvcT_calm (d : Dev) (k : Nat) (e : EvcT) : (d.setEvcT k e).calm = d.calm := rfl

@[simp] theorem Dev.emit_calm (d : Dev) (o : Out) : (d.emit o).calm = d.calm := rfl

@[simp] theorem Dev.holdLine_calm (d : Dev) (k : Nat) (hold : Bool) : (d.holdLine k hold).calm = d.calm := rfl

@[simp] theorem Dev.evcSet_calm (d : Dev) (i : Nat) (v : Word) : (d.evcSet i v).calm = d.calm := rfl

@[simp] theorem Dev.evcClear_calm (d : Dev) (i : Nat) (v : Word) : (d.evcClear i v).calm = d.calm := rfl

@[simp] theorem Dev.raiseAll_calm (d : Dev) (ev : List Nat) : (d.raiseAll ev).calm = d.calm := by
  rw [Dev.raiseAll_eq]
  rfl

section
variable {d : Dev} (h : d.calm = true)
include h

theorem Dev.settle_regs_of_calm : d.settle.regs = d.regs := by
  rw [Dev.settle_of_calm h]
  exact Dev.lines_regs d

theorem Dev.settle_evcT_of_calm (j : Nat) :
    d.settle.evcT j = { d.evcT j with line := if j < 3 then d.lineCond j else (d.evcT j).line } := by
  rw [Dev.settle_of_calm h]
  exact Dev.lines_evcT d j

theorem Dev.mem_settle_out_of_calm {o : Out} (ho : o ∈ d.out) : o ∈ d.settle.out := by
  rw [Dev.settle_of_calm h]
  exact (Dev.lines_out_prefix d).subset ho

end

theorem targetNum_lt {tgt : Target} (h : targetOk tgt = true) : targetNum tgt < 3 := by
  cases tgt with
  | studio => exact Nat.zero_lt_succ _
  | host p =>
    have hp : p < 2 := of_decide_eq_true h
    exact Nat.succ_lt_succ hp

/-- An access by the agent of a target that is there, on a path that is there, has its effect, and the request lines follow. -/
theorem State.does_of_evcAccess {s : State} {i : Instr} {tgt : Target} {f : Dev → Dev} {P : Dev → Prop} (ht : targetOk tgt = true)
    (hp : s.dev.pathOk (targetPath tgt) = true) (hi : exec i s = s.evcAccess tgt f) (hP : P (f s.dev).settle) : Does i s P := by
  refine ⟨_, ?_, hP⟩
  rw [hi, State.evcAccess, State.runIf_true _ ht, State.run, if_pos hp]

theorem Dev.evcRight_of_mayWrite {d : Dev} {tgt : Target} (h : d.mayWrite (targetPath tgt) (rEvcPend 0) = true) (f : Dev → Dev) :
    d.evcRight tgt f = f d := if_pos h

theorem exec_evcClaim (s : State) (tgt : Target) (ev : List Nat) :
    exec (.evcClaim tgt ev) s
      = s.evcAccess tgt fun d => ((d.claim (targetNum tgt)).2.raiseAll ev).emit (.regData (targetPath tgt) (d.claim (targetNum tgt)).1) := rfl

theorem exec_evcHold (s : State) (tgt : Target) (hold : Bool) :
    exec (.evcHold tgt hold) s = s.evcAccess tgt (Dev.holdLine (targetNum tgt) hold) := rfl

theorem exec_evcSet (s : State) (tgt : Target) {i : Nat} (v : Word) (hi : i < 8) :
    exec (.evcSet tgt i v) s = s.evcAccess tgt (Dev.evcRight tgt (Dev.evcSet i v)) := if_pos hi

theorem exec_evcPendClear (s : State) (tgt : Target) {i : Nat} (v : Word) (ev : List Nat) (hi : i < 8) :
    exec (.evcPendClear tgt i v ev) s = s.evcAccess tgt fun d => (Dev.evcRight tgt (Dev.evcClear i v) d).raiseAll ev := if_pos hi

/-! ### Claims settled -/

/-- The device right after a claim that finds source `n`, with the events of its cycle. -/
def Dev.claimed (d : Dev) (tgt : Target) (ev : List Nat) (n : Nat) : Dev :=
  (((d.evcClear (n / 32) (BitVec.ofNat 32 (2 ^ (n % 32)))).setEvcT (targetNum tgt) { d.evcT (targetNum tgt) with insv := some n }).raiseAll ev).emit
    (.regData (targetPath tgt) (BitVec.ofNat 32 (256 + n)))

section
variable (d : Dev) (tgt : Target) (ev : List Nat) (n : Nat)

theorem Dev.claimed_calm : (d.claimed tgt ev n).calm = d.calm := by simp [Dev.claimed]

theorem Dev.claimed_evcT : (d.claimed tgt ev n).evcT (targetNum tgt) = { d.evcT (targetNum tgt) with insv := some n } := by
  rw [Dev.claimed, Dev.raiseAll_eq]
  exact (Dev.evcT_setEvcT _ _ _ _).trans (if_pos rfl)

theorem Dev.claimed_pendBit {m : Nat} (hm : m < 256) :
    (d.claimed tgt ev n).pendBit m = (decide (m ∈ ev) || (d.pendBit m && decide (m ≠ n))) := by
  calc (d.claimed tgt ev n).pendBit m
    _ = ((d.evcClear (n / 32) (BitVec.ofNat 32 (2 ^ (n % 32)))).pendBit m || decide (m ∈ ev)) := Dev.pendBit_raiseAll _ ev hm
    _ = ((d.pendBit m && !decide (m = n)) || decide (m ∈ ev)) := by rw [Dev.pendBit_evcClear, pendMask_getLsbD]
    _ = (decide (m ∈ ev) || (d.pendBit m && decide (m ≠ n))) := by rw [Bool.or_comm, decide_not]

theorem Dev.mem_claimed_out : Out.regData (targetPath tgt) (BitVec.ofNat 32 (256 + n)) ∈ (d.claimed tgt ev n).out :=
  List.mem_append_right _ (List.mem_singleton.mpr rfl)

end

/-- Settles O43: a claim takes the lowest pending source, and the lines that follow it touch neither service, hold nor pending bits. -/
theorem eventClaims : Obligations.EventClaims := by
  intro s tgt ev ht hp hcalm
  refine ⟨fun n hn => ?_, fun hn => ?_, Dev.lowest_eq_some_iff s.dev _⟩
  · have hc : (s.dev.claimed tgt ev n).calm = true := (Dev.claimed_calm _ _ _ _).trans hcalm
    apply State.does_of_evcAccess ht hp (exec_evcClaim s tgt ev)
    simp only [Dev.claim_some hn]
    rw [← Dev.claimed]
    refine ⟨Dev.mem_settle_out_of_calm hc (Dev.mem_claimed_out _ _ _ _), ?_, ?_, fun m hm => ?_⟩
    · rw [Dev.settle_evcT_of_calm hc, Dev.claimed_evcT]
    · rw [Dev.settle_evcT_of_calm hc, Dev.claimed_evcT]
    · rw [Dev.pendBit_congr (Dev.settle_regs_of_calm hc), Dev.claimed_pendBit _ _ _ _ hm]
  · have hc : (s.dev.emit (.regData (targetPath tgt) 0)).calm = true := (Dev.emit_calm _ _).trans hcalm
    apply State.does_of_evcAccess ht hp (exec_evcClaim s tgt [])
    simp only [Dev.claim_none hn, Dev.raiseAll_nil]
    refine ⟨Dev.mem_settle_out_of_calm hc (List.mem_append_right _ (List.mem_singleton.mpr rfl)), Dev.settle_regs_of_calm hc, fun j => ?_⟩
    rw [Dev.settle_evcT_of_calm hc]
    exact ⟨rfl, rfl⟩

/-! ### Hold bits settled -/

section
variable (d : Dev) (k : Nat) (hold : Bool)

theorem Dev.holdLine_evcT (j : Nat) : (d.holdLine k hold).evcT j = { d.evcT j with hold := if j = k then hold else (d.evcT j).hold } := by
  rw [Dev.holdLine, Dev.evcT_setEvcT]
  split
  next h => rw [h]
  next => rfl

/-- With the hold bit written, R469's condition is on what is in service and what is pending before. -/
theorem Dev.holdLine_lineCond : (d.holdLine k hold).lineCond k = (!hold && (d.evcT k).insv.isNone && (d.lowest k).isSome) := by
  rw [Dev.lineCond, Dev.holdLine_evcT, if_pos rfl, Dev.lowest_congr (show (d.holdLine k hold).regs = d.regs from rfl)]

variable {d k}

theorem Dev.settle_holdLine_regs (h : d.calm = true) : (d.holdLine k hold).settle.regs = d.regs :=
  Dev.settle_regs_of_calm ((Dev.holdLine_calm d k hold).trans h)

/-- Each target after a write of one hold bit: no service changes, and the line of the target written is at its level. -/
theorem Dev.settle_holdLine_evcT (h : d.calm = true) (j : Nat) :
    (d.holdLine k hold).settle.evcT j
      = { hold := if j = k then hold else (d.evcT j).hold, insv := (d.evcT j).insv,
          line := if j < 3 then (d.holdLine k hold).lineCond j else (d.evcT j).line } := by
  rw [Dev.settle_evcT_of_calm ((Dev.holdLine_calm d k hold).trans h), Dev.holdLine_evcT]

theorem Dev.settle_holdLine_line (h : d.calm = true) (hk : k < 3) :
    ((d.holdLine k hold).settle.evcT k).line = (!hold && (d.evcT k).insv.isNone && (d.lowest k).isSome) := by
  rw [Dev.settle_holdLine_evcT hold h, if_pos hk, Dev.holdLine_lineCond]

end

/-- Settles O44: a write of the hold bit changes no register, so pending sources and what a claim finds stand, and the line follows R469. -/
theorem eventHolds : Obligations.EventHolds := by
  intro s tgt ht hp hcalm
  have hk : targetNum tgt < 3 := targetNum_lt ht
  constructor
  · apply State.does_of_evcAccess ht hp (exec_evcHold s tgt true)
    have hregs := Dev.settle_holdLine_regs (k := targetNum tgt) true hcalm
    have hT := Dev.settle_holdLine_evcT (k := targetNum tgt) true hcalm
    refine ⟨?_, ?_, ?_, hregs, fun j hj => ?_, Dev.claim_fst_congr hregs _, fun n _ => ?_⟩
    · rw [hT, if_pos rfl]
    · rw [Dev.settle_holdLine_line true hcalm hk]
      rfl
    · rw [hT]
    · rw [hT, if_neg hj]
      exact ⟨rfl, rfl⟩
    · rw [Dev.pendBit_raise, decide_eq_true rfl, Bool.or_true]
  · apply State.does_of_evcAccess ht hp (exec_evcHold s tgt false)
    refine ⟨?_, ?_, Dev.settle_holdLine_regs false hcalm⟩
    · rw [Dev.settle_holdLine_evcT false hcalm, if_pos rfl]
    · rw [Dev.settle_holdLine_line false hcalm hk, Bool.not_false, Bool.true_and, Bool.and_eq_true, Option.isNone_iff_eq_none]

/-! ### Software sets and clears settled -/

/-- Source `32 i + b` stands in bit `b` of register `i` (Table 17.5). -/
theorem pendPlace_getLsbD (i : Nat) (v : Word) {b : Nat} (hb : b < 32) :
    (decide ((32 * i + b) / 32 = i) && v.getLsbD ((32 * i + b) % 32)) = v.getLsbD b := by
  rw [show (32 * i + b) / 32 = i by omega, show (32 * i + b) % 32 = b by omega, decide_eq_true rfl, Bool.true_and]

/-- Settles O45: each write changes the bits it names of the one register EVC_PENDi, and the lines change no register. -/
theorem eventSets : Obligations.EventSets := by
  intro s tgt i v ht hp hi hcalm hmay
  constructor
  · apply State.does_of_evcAccess ht hp (exec_evcSet s tgt v hi)
    rw [Dev.evcRight_of_mayWrite hmay]
    have hregs := Dev.settle_regs_of_calm ((Dev.evcSet_calm s.dev i v).trans hcalm)
    refine ⟨fun b hb => ?_, fun off hoff => ?_⟩
    · rw [Dev.pendBit_congr hregs, Dev.pendBit_evcSet, pendPlace_getLsbD i v hb, Bool.or_comm]
    · rw [Dev.rd_congr hregs, Dev.evcSet, Dev.rd_wr_other _ _ hoff]
  · apply State.does_of_evcAccess ht hp (exec_evcPendClear s tgt v [] hi)
    rw [Dev.evcRight_of_mayWrite hmay, Dev.raiseAll_nil]
    have hregs := Dev.settle_regs_of_calm ((Dev.evcClear_calm s.dev i v).trans hcalm)
    refine ⟨fun b hb => ?_, fun off hoff => ?_⟩
    · rw [Dev.pendBit_congr hregs, Dev.pendBit_evcClear, pendPlace_getLsbD i v hb]
    · rw [Dev.rd_congr hregs, Dev.evcClear, Dev.rd_wr_other _ _ hoff]

end Sys2Proof.Machine
end
